-- ==== Sys2Proof/Word.lean ====
section
/-! DEFINITION. The word types of the model. Registers, tokens and addresses the spec treats as bits are
bit vectors; counts, indices, coordinates and memory keys are natural numbers. -/

namespace Sys2Proof

/-- One byte of a memory. -/
abbrev Byte := BitVec 8

/-- One 32-bit word: a general register, a sync-queue token, a control-window register (R75, R186). -/
abbrev Word := BitVec 32

end Sys2Proof
end

