-- ==== Sys2Proof/Syntax.lean ====
section
/-! DEFINITION. The commands of the block: one constructor for each row of spec/opcode_table.json, with the
operands the row needs. A command that stands for a physical report (a meter, a diode, a line check, a lane
error, a training result) carries the report as an operand. -/

namespace Sys2Proof

/-- A general register g0-g31 (R75). -/
abbrev Reg := Fin 32

/-- A tile position by its physical coordinates: px eastward, py southward (R16). -/
structure Pos where
  px : Nat
  py : Nat
  deriving DecidableEq, Repr

/-- A region-relative coordinate (R305). -/
structure RC where
  rx : Nat
  ry : Nat
  deriving DecidableEq, Repr

/-- A packet's position address (R240). -/
inductive Addr where
  | phys (p : Pos)
  | logical (lx ly : Nat)
  | port (id : Nat)
  | region (c : RC)
  deriving DecidableEq, Repr

/-- The packet types of R241; a reserved code reaches the part from a link only. -/
inductive PType where
  | put | getReq | radd | signal | token | ack | getResp | signalResp | notice
  | credit | nack | mcast | red | mgmt | scan
  | reserved (code : Nat)
  deriving DecidableEq, Repr

/-- A mesh packet (R239). `pfx` is the 16-byte route prefix of R250 when the packet carries one; `sub` is the
sub-header of an MCAST or RED packet or the RADD prefix, kept apart from the data. -/
structure Packet where
  ver : Nat := 1
  ty : PType
  vl : Nat
  epoch : Bool
  sbit : Bool
  xdev : Bool
  hops : Nat
  jslot : Nat
  long : Bool
  attempt : Nat
  dst : Addr
  src : Addr
  seq : Nat
  len : Nat
  rank : Nat
  red : Nat
  tag : Nat
  sub : List Byte
  data : List Byte
  pfx : Option Addr
  deriving DecidableEq, Repr

/-- The transports of R403 in the coding of R422. -/
inductive Transport where
  | tether | mgmtPort | uart
  deriving DecidableEq, Repr

/-- What every mailbox request brings besides its payload (R405): the transport, the mailbox of a tether
request, the session, its header's major version, the frame sequence number and the job_id. -/
structure Req where
  tr : Transport
  box : Nat
  session : Nat
  major : Nat
  seq : Nat
  job : Nat
  deriving DecidableEq, Repr

/-- One piece of an object sent in pieces (R413). -/
structure Piece where
  total : Nat
  offset : Nat
  more : Bool
  bytes : List Byte
  deriving DecidableEq, Repr

/-- An error in the work of a lane block (R326, R327): bits of one lane-block sum turned as it leaves the lanes, the sum of
element (row, col) of the m-block and of the `kb`-th K-block of the segment (its array's witness column judges it, R328); an
addition into the accord; a double-bit error in the accord's storage. -/
inductive LaneUpset where
  | sum (row col kb : Nat) (mask : Word)
  | adder (array : Nat)
  | storage (array : Nat)
  deriving DecidableEq, Repr

/-- An error that a drain meets (R327): a double-bit error in the accord that it reads; an operation of stages 1 to 3 or 5; an
evaluation of stage 4 or 7. -/
inductive DrainUpset where
  | storage (array : Nat)
  | convert
  | activate
  deriving DecidableEq, Repr

/-- An error at rest (R326): one bit or two bits of a 64-bit word of a tile's data memory; bits of a general register of a
thread slot, which no check covers. -/
inductive Strike where
  | word (t : Pos) (index : Nat) (two : Bool)
  | scalar (t : Pos) (slot : Nat) (reg : Reg) (mask : Word)
  deriving DecidableEq, Repr

/-- What a line check of R276 found. -/
inductive Ecc where
  | clean | corrected | uncorrectable
  deriving DecidableEq, Repr

/-- Array-beats of freeze that a lane block met (R91): feed, of which waiting for a weight fill, and drain. -/
structure Freezes where
  feed : Nat
  fill : Nat
  drain : Nat
  deriving DecidableEq, Repr

/-- The issuer whose acknowledgement timer expires (R256): a tile's sequence number, a token of a mesh
channel (R259), a port tile's packet (R281). -/
inductive Timer where
  | tile (t : Pos) (seq : Nat)
  | token (t : Pos) (port num : Nat)
  | port (id seq : Nat)
  deriving DecidableEq, Repr

/-- Whose sequence numbers: a tile's, those of the tokens of an output port (R259), a port tile's (R281). -/
inductive Numbers where
  | tile (t : Pos)
  | token (t : Pos) (port : Nat)
  | port (id : Nat)
  deriving DecidableEq, Repr

/-- The timer of a number. -/
def Numbers.timer (o : Numbers) (seq : Nat) : Timer :=
  match o with
  | Numbers.tile t => Timer.tile t seq
  | Numbers.token t out => Timer.token t out seq
  | Numbers.port id => Timer.port id seq

/-- The readings a ledger interval closes with (R351): input energy in microjoules; the energies of the 29 brim monitors
(stacks 0-23, the four dozens of fabric ports, management processor and tether ports); energy and junction temperature of the
768 sense points (sector 4b + c of field f at index 16f + 4b + c); the mean beat rate of each field; with them the errors at
rest that struck since the interval before (R326). -/
structure Readings where
  input : Nat
  brim : List Nat
  sectors : List Nat
  tj : List Nat
  rate : List Nat
  strikes : List Strike := []
  deriving DecidableEq, Repr

/-- A turn-table entry (R246): a rectangle of target routers, an arrival direction (0 N, 1 S, 2 E, 3 W,
4 local) and an output port in the same coding. -/
structure Turn where
  x0 : Nat
  y0 : Nat
  x1 : Nat
  y1 : Nat
  arrival : Nat
  out : Nat
  deriving DecidableEq, Repr

/-- The turn tables a table build produces, by position (R246 fixes only what they ensure). -/
abbrev TurnTables := List (Pos × List Turn)

/-- The training result of one stack (R387): 0 fast, 1 fast with lanes retrained, 2 full, 3 failed; with the
lane repairs (channel, failed lane, spare lane) it took. -/
structure StackResult where
  stack : Nat
  outcome : Nat
  repairs : List (Nat × Nat × Nat)
  deriving DecidableEq, Repr

/-- The training result of one optical port: lanes that came into service (receive and transmit masks) and
whether any lane took the full path. -/
structure PortResult where
  port : Nat
  rxMask : Nat
  txMask : Nat
  full : Bool
  deriving DecidableEq, Repr

/-- The fields of a CAP frame (R436). -/
structure Cap where
  kind : Nat
  major : Nat
  minor : Nat
  minMajor : Nat
  port : Nat
  txMask : Nat
  rxMask : Nat
  serial : Nat
  credits : List Nat
  deriving DecidableEq, Repr

/-- A block-start marker as a lane carried it, and whether its CRC-8 checks (R430). -/
structure Marker where
  lane : Nat
  bseq : Nat
  mask : Nat
  good : Bool
  deriving DecidableEq, Repr

/-- An access to the tether register space (R399, R447): 32 or 64 bits, written, or read under the tag of its response. -/
inductive RegAccess where
  | write32 (v : Word)
  | write64 (v : BitVec 64)
  | read32 (tag : Nat)
  | read64 (tag : Nat)
  deriving DecidableEq, Repr

/-- Instructions of the test access port (R464). -/
inductive TapInsn where
  | bypass | idcode | samplePreload | extest | brimDebug | other
  deriving DecidableEq, Repr

/-- The commands: the rows of spec/opcode_table.json. -/
inductive Instr where
  -- scalar and branch (R194)
  | add (t : Pos) (ts : Nat) (rd rs1 rs2 : Reg)
  | sub (t : Pos) (ts : Nat) (rd rs1 rs2 : Reg)
  | and (t : Pos) (ts : Nat) (rd rs1 rs2 : Reg)
  | or (t : Pos) (ts : Nat) (rd rs1 rs2 : Reg)
  | xor (t : Pos) (ts : Nat) (rd rs1 rs2 : Reg)
  | sll (t : Pos) (ts : Nat) (rd rs1 rs2 : Reg)
  | srl (t : Pos) (ts : Nat) (rd rs1 rs2 : Reg)
  | sra (t : Pos) (ts : Nat) (rd rs1 rs2 : Reg)
  | slt (t : Pos) (ts : Nat) (rd rs1 rs2 : Reg)
  | sltu (t : Pos) (ts : Nat) (rd rs1 rs2 : Reg)
  | mul (t : Pos) (ts : Nat) (rd rs1 rs2 : Reg)
  | mulhu (t : Pos) (ts : Nat) (rd rs1 rs2 : Reg)
  | mins (t : Pos) (ts : Nat) (rd rs1 rs2 : Reg)
  | maxs (t : Pos) (ts : Nat) (rd rs1 rs2 : Reg)
  | addi (t : Pos) (ts : Nat) (rd rs1 : Reg) (imm : BitVec 15)
  | andi (t : Pos) (ts : Nat) (rd rs1 : Reg) (imm : BitVec 15)
  | ori (t : Pos) (ts : Nat) (rd rs1 : Reg) (imm : BitVec 15)
  | xori (t : Pos) (ts : Nat) (rd rs1 : Reg) (imm : BitVec 15)
  | shi (t : Pos) (ts : Nat) (rd rs1 : Reg) (imm : BitVec 10)
  | slti (t : Pos) (ts : Nat) (rd rs1 : Reg) (imm : BitVec 15)
  | lui (t : Pos) (ts : Nat) (rd : Reg) (imm : BitVec 20)
  | beq (t : Pos) (ts : Nat) (rd rs1 : Reg) (imm : BitVec 15)
  | bne (t : Pos) (ts : Nat) (rd rs1 : Reg) (imm : BitVec 15)
  | blt (t : Pos) (ts : Nat) (rd rs1 : Reg) (imm : BitVec 15)
  | bge (t : Pos) (ts : Nat) (rd rs1 : Reg) (imm : BitVec 15)
  | bltu (t : Pos) (ts : Nat) (rd rs1 : Reg) (imm : BitVec 15)
  | bgeu (t : Pos) (ts : Nat) (rd rs1 : Reg) (imm : BitVec 15)
  | jal (t : Pos) (ts : Nat) (rd : Reg) (imm : BitVec 15)
  | jalr (t : Pos) (ts : Nat) (rd rs1 : Reg) (imm : BitVec 15)
  | reservedOpcode (t : Pos) (ts : Nat) (w : Word)
  -- tile memory, conversion, accumulating stores (R195-R199)
  | lb (t : Pos) (ts : Nat) (rd rs1 : Reg) (imm : BitVec 15)
  | lbu (t : Pos) (ts : Nat) (rd rs1 : Reg) (imm : BitVec 15)
  | lh (t : Pos) (ts : Nat) (rd rs1 : Reg) (imm : BitVec 15)
  | lhu (t : Pos) (ts : Nat) (rd rs1 : Reg) (imm : BitVec 15)
  | lw (t : Pos) (ts : Nat) (rd rs1 : Reg) (imm : BitVec 15)
  | sb (t : Pos) (ts : Nat) (rd rs1 : Reg) (imm : BitVec 15)
  | sh (t : Pos) (ts : Nat) (rd rs1 : Reg) (imm : BitVec 15)
  | sw (t : Pos) (ts : Nat) (rd rs1 : Reg) (imm : BitVec 15)
  | mcopy (t : Pos) (ts : Nat) (rd rs1 rs2 : Reg)
  | cvt (t : Pos) (ts : Nat) (rd rs1 rs2 : Reg) (imm : BitVec 10)
  | cvst (t : Pos) (ts : Nat) (rd rs1 rs2 : Reg) (imm : BitVec 10)
  | acc (t : Pos) (ts : Nat) (rd rs1 rs2 : Reg) (imm : BitVec 10)
  | accv (t : Pos) (ts : Nat) (rd rs1 rs2 : Reg) (imm : BitVec 10)
  -- channels and steering (R200-R202)
  | oprd (t : Pos) (ts : Nat) (rd rs1 : Reg) (qid : BitVec 6)
  | opcp (t : Pos) (ts : Nat) (rd rs1 : Reg) (qid : BitVec 6)
  | send (t : Pos) (ts : Nat) (rs1 rs2 : Reg) (qid : BitVec 6)
  | sendr (t : Pos) (ts : Nat) (rs1 rs2 : Reg) (qf : BitVec 4) (qid : BitVec 6)
  | predict (t : Pos) (ts : Nat) (qf : BitVec 4) (qid : BitVec 6)
  -- sync queues and hatband (R203, R217-R232)
  | sqput (t : Pos) (ts : Nat) (rs1 : Reg) (qid : BitVec 6)
  | sqget (t : Pos) (ts : Nat) (rd : Reg) (qid : BitVec 6)
  | sqcnt (t : Pos) (ts : Nat) (rd : Reg) (qid : BitVec 6)
  | hbarr (t : Pos) (ts : Nat) (qid : BitVec 6)
  | hbwait (t : Pos) (ts : Nat) (qid : BitVec 6)
  | hbsync (t : Pos) (ts : Nat) (qid : BitVec 6)
  -- remote operations and completion counters (R204-R212)
  | put (t : Pos) (ts : Nat) (rd rs1 rs2 : Reg) (imm : BitVec 10)
  | get (t : Pos) (ts : Nat) (rd rs1 rs2 : Reg) (imm : BitVec 10)
  | radd (t : Pos) (ts : Nat) (rd rs1 rs2 : Reg) (imm : BitVec 10)
  | mcast (t : Pos) (ts : Nat) (rd rs1 rs2 : Reg) (imm : BitVec 10)
  | signal (t : Pos) (ts : Nat) (rd rs1 rs2 : Reg) (imm : BitVec 10)
  | redc (t : Pos) (ts : Nat) (rd rs1 rs2 : Reg) (imm : BitVec 10)
  | setrc (t : Pos) (ts : Nat) (rs1 : Reg)
  | ccrd (t : Pos) (ts : Nat) (rd : Reg) (qid : BitVec 6)
  | ccwait (t : Pos) (ts : Nat) (rs1 : Reg) (qid : BitVec 6)
  | cctake (t : Pos) (ts : Nat) (rs1 : Reg) (qid : BitVec 6)
  | ccset (t : Pos) (ts : Nat) (rs1 : Reg) (qid : BitVec 6)
  -- tensor and accord instructions (R210-R214)
  | top (t : Pos) (ts : Nat) (rs1 : Reg)
  | drain (t : Pos) (ts : Nat) (rd rs1 rs2 : Reg) (imm : BitVec 10)
  | discard (t : Pos) (ts : Nat) (imm : BitVec 10)
  | twait (t : Pos) (ts : Nat) (imm : BitVec 10)
  | vop (t : Pos) (ts : Nat) (rs1 : Reg)
  -- system instructions (R215, R216)
  | tend (t : Pos) (ts : Nat)
  | tretire (t : Pos) (ts : Nat) (rs1 : Reg) (imm : BitVec 10)
  | yield (t : Pos) (ts : Nat)
  | raise (t : Pos) (ts : Nat) (rs1 : Reg) (imm : BitVec 10)
  | gets (t : Pos) (ts : Nat) (rd : Reg) (imm : BitVec 10)
  | scan (t : Pos) (ts : Nat)
  -- tensor unit events (R84-R101, R152, R214)
  | issueQueueHead (t : Pos)
  | weightFillComplete (t : Pos)
  | laneBlockComplete (t : Pos) (fz : Freezes) (upset : Option LaneUpset)
  | drainComplete (t : Pos) (upset : Option DrainUpset)
  | scoutComplete (t : Pos)
  | vopComplete (t : Pos) (upset : Bool)
  -- dataflow events (R157-R177)
  | tokenAdmit (t : Pos) (ch : Nat)
  | instanceFire (t : Pos)
  | steerForward (t : Pos) (u : Nat)
  | steerSpeculate (t : Pos) (u : Nat)
  | mergeForward (t : Pos) (u : Nat)
  | neighbourToken (j ci : Nat) (crcOk : Bool) (prodFailed : Bool) (consFailed : Bool)
  -- bounds and the stop of a job (R183, R221, R232, R235)
  | creditStallTimeout (t : Pos) (port : Nat)
  | consumerStallTimeout (t : Pos) (ch : Nat)
  | jobStopQuiesceEnd (j : Nat)
  | drydownComplete (j : Nat)
  | sqWaitTimeout (t : Pos) (ts : Nat)
  | hbWaitTimeout (t : Pos) (ts : Nat)
  -- hatband and retention (R33, R229, R334)
  | hatbandCrossing (line : Nat)
  | crossingSeen (t : Pos) (k : Nat)
  | retentionCopyDone (t : Pos) (entry : Nat)
  -- mesh and packets (R242-R267)
  | routerForward (id : Nat) (crcOk : Bool)
  | egressPortTile (id : Nat)
  | putPacket (id : Nat)
  | getReq (id : Nat)
  | raddPacket (id : Nat)
  | signalPacket (id : Nat)
  | tokenPacket (id : Nat)
  | ack (id : Nat)
  | getResp (id : Nat)
  | signalResp (id : Nat)
  | notice (id : Nat)
  | creditPacket (id : Nat)
  | nack (id : Nat)
  | mcastPacket (id : Nat)
  | redPacket (id : Nat)
  | mgmtPacket (id : Nat)
  | scanPacket (id : Nat)
  | remoteTimeout (tm : Timer)
  | seqQuarantineEnd (t : Numbers) (seq : Nat)
  | creditRepeat (t : Pos) (ch : Nat)
  | tableWriteDone (turns : TurnTables)
  | epochChangeTimer (j : Nat)
  | epochRelease
  -- DMA and HBM (R277-R289)
  | dmaDescriptorStart (t : Pos) (q : Nat)
  | dmaPieceDone (engine id piece line : Nat) (ecc : Ecc)
  | dmaComplete (engine id : Nat)
  | hbmScrubRead (stack line : Nat) (ecc : Ecc)
  | portCommit (port j : Nat)
  | deepChannelForward (t : Pos) (f : Nat)
  -- confirmation and the gate of line 0 (R330, R356)
  | stepConfirm (j : Nat)
  | gateOpen (j : Nat)
  -- jobs (R291-R325)
  | loadJob (r : Req) (addr len : Nat)
  | startJob (r : Req) (origin : Option (Nat × Nat))
  | startDeliveryDone (j : Nat)
  | pauseJob (r : Req) (mode : Nat) (succ : List Nat)
  | boundaryPauseReady (j : Nat)
  | boundaryPauseTimeout (j : Nat)
  | pauseQuiesceDone (j : Nat)
  | pauseScanOutDone (j : Nat)
  | resumeJob (r : Req) (origin : Option (Nat × Nat)) (pred : List Nat)
  | resumeScanInDone (j : Nat)
  | unloadJobKeep (r : Req)
  | unloadJobDiscard (r : Req)
  | jobStatus (r : Req)
  | drydown (r : Req) (addr len : Nat)
  -- recovery and field tests (R340-R348)
  | rollbackQuiesceDone (j : Nat)
  | rollbackRestoreDone (j : Nat)
  | tilePoll (t : Pos) (answered : Bool)
  | takeoverLoadDone (j : Nat)
  | fieldShort (f : Nat)
  | replacementScanOutDone (j : Nat)
  | replacementResumeDone (j : Nat)
  | fieldTestStart (t : Pos)
  | fieldTestDone (t : Pos) (pass : Bool)
  | fieldTestRetest (t : Pos) (pass : Bool)
  -- energy (R351-R365)
  | ledgerInterval (r : Readings)
  | suspensionEnd (f : Nat)
  | regulatorStep (f : Nat)
  | idleEntry
  | setEnvelope (r : Req) (penv tw a : Nat) (clearCaps : Bool)
  | readLedger (r : Req) (snap offset time most : Nat)
  -- power (R366-R368, R454-R459)
  | powerState (r : Req) (target : Nat)
  | powerTransitionDone
  | standbyEntry
  | inputApplied
  | inputQualified
  | undervoltage
  | standbyDomainStop
  | coolantEmergency
  | caseOvertemp
  | wakeN
  | startConditionsMet
  -- bring-up (R370-R394)
  | moduleStart
  | flaconVerify
  | hbmTrainingDone (rs : List StackResult)
  | opticalTrainingDone (rs : List PortResult)
  | fieldWavePowered (wave : Nat) (shorts : List Nat)
  | neighbourTestDone (disagree : List (Pos × Pos)) (selfFailed : List Pos) (routersFailed : List Pos)
  | mapBuildDone (turns : TurnTables)
  | firmwareBroadcastDone (lacking : List (List (Pos × List Nat))) (bitsFailed : Bool)
  | flaconFallback
  -- mailbox (R403-R421)
  | hello (tr : Transport) (box seq maxMajor maxMinor minMajor : Nat) (push : Bool)
  | identify (r : Req)
  | attest (r : Req) (nonce : List Byte)
  | fwStage (r : Req) (p : Piece)
  | fwCommit (r : Req)
  | trainLinks (r : Req) (p : Piece) (stackMask portMask mode : Nat)
  | trainLinksDone (ss : List StackResult) (ps : List PortResult)
  | saveTraining (r : Req) (snap offset : Nat) (recordOnly : Bool)
  | readEvents (r : Req) (fromSeq most : Nat)
  | mapRead (r : Req) (snap offset : Nat)
  | mapRefineApply (r : Req) (p : Piece)
  | mapRefineCommit (r : Req) (p : Piece)
  | setRankTable (r : Req) (p : Piece)
  | hbmCopy (r : Req) (src dst len : Nat)
  | hbmCopyWrite (r : Req) (dst len : Nat) (data : List Byte)
  | hbmCopyRead (r : Req) (src len : Nat)
  | testControl (r : Req) (suspend logSquash : Bool)
  | malformedFrame (tr : Transport) (box seq : Nat)
  | snapshotExpiry (snap : Nat)
  | doorbellDone (n : Nat)
  -- tether registers (R399, R423)
  | evrEnable (tport : Nat) (size : Nat)
  | registerWrite (tport off : Nat) (val : RegAccess)
  -- links (R430-R451)
  | linkBlock (port : Nat) (hdr : List Byte) (marker : List Marker)
  | dataFrame (port fjob fhops srcRank : Nat) (p : Packet)
  | creditFrame (port : Nat) (counts : List Nat)
  | capFrame (port : Nat) (c : Cap)
  | laneFrame (port mask seq : Nat)
  | memReq (port tag : Nat) (write : Bool) (addr len : Nat) (data : List Byte)
  | laneLoss (port lane : Nat)
  | laneRepeat (port : Nat)
  | linkCreditRepeat (port : Nat)
  | capRepeat (port : Nat)
  | linkDown (port cause : Nat)
  | linkRetrain (port : Nat)
  | linkRetrainDone (res : PortResult)
  | discardSummary
  -- further steps of the part
  | boundaryRecordWritten (t : Pos)
  | generationProgrammed
  | hbmOrOpticalSupplyFault (side : Nat) (optical : Bool)
  | stackReportsAbove85C (stack : Nat) (above : Bool)
  | tapInstruction (i : TapInsn)
  deriving DecidableEq, Repr

end Sys2Proof
end

