-- ==== Sys2Proof/Config.lean ====
section
/-! DEFINITION. What an implementation fixes and what the spec leaves open: opaque constants with no body that
anything can see. No proof can use a value of one of them. -/

namespace Sys2Proof.Config

/-- A value the spec leaves undefined, taken afresh for each counter value (log 10). -/
opaque freeWord : Nat → Word

/-- The result of a real function whose rounding the bounded evaluation of `RealFn` does not decide (log 21):
the arguments are the function's code, the operand and the rounding code. -/
opaque freeReal : Nat → Word → Nat → Word

/-- SHA-512 as an uninterpreted function (log 24). -/
opaque sha512 : List Byte → List Byte

/-- Ed25519 signing with the key that R395 derives from the identity seed (log 24). -/
opaque ed25519Sign : List Byte → List Byte → List Byte

/-- Ed25519 verification: public key, message, signature (log 24). -/
opaque ed25519Verify : List Byte → List Byte → List Byte → Bool

/-- The Ed25519 public key of a 32-byte private key (log 24). -/
opaque ed25519Public : List Byte → List Byte

/-- The two Rinset public keys in the boot ROM (R391); the spec does not give them (log 24). -/
opaque rinsetKey : Nat → List Byte

/-- The 32 bytes of the identity seed of the part (R377); the spec gives none (log 24). -/
opaque identitySeed : List Byte

/-- The 32 bytes that stand for the identity seed of a part without a valid seed generation (R376, R395; log 24). -/
opaque noSeed : List Byte

/-- The module serial number of the part (SERIAL, R399); the spec gives none (log 24). -/
opaque serial : BitVec 64

/-- The tables of a home record as the loader lays them out, from the tables of the image: R290 gives no layout of
their bytes (log 41). -/
opaque homeTables : List Byte → List Byte

/-- Bytes whose contents the spec leaves open, taken afresh for each counter value (log 10). -/
opaque freeBytes : Nat → List Byte

/-- The bytes of a variant-limits content from its five fields (log 63). -/
opaque limitsBytes : Nat → Nat → Nat → Nat → Nat → List Byte

/-- The ordering code, the MAC address of the management port and the date of manufacture of the part, as the FRU EEPROM
holds them (R463); the spec gives no part's values (log 24). -/
opaque orderingCode : List Byte
opaque macAddress : List Byte
opaque madeOn : List Byte

/-- The fields of a pushed frame's header that R405 defines only for an answer, by the seq of the record (log 188). -/
opaque pushField : Nat → Nat → Nat

/-- The image of the FRU EEPROM from the ordering code, serial number, MAC address and date it holds: the layout is that of
the IPMI FRU definition, outside the spec (R463, log 183). -/
opaque fruImage : List Byte → List Byte → List Byte → List Byte → List Byte

/-- The five fields of a variant-limits content: ordering-code index, ceiling, envelope, peak, top rate. R377 gives no
layout of its bytes (log 63). -/
opaque limitsFields : List Byte → Nat × Nat × Nat × Nat × Nat

/-- Whether the HBM repairs and optical fuses in force, as entries, are those that a supplied training record was saved
with: R386 gives the record no place for them (log 64). -/
opaque savedWith : List Byte → List Byte → Bool

end Sys2Proof.Config
end

