-- ==== Sys2Proof/Machine/Bits.lean ====
section
/-! DEFINITION. Bit fields, byte order, check sums and sparse tables. -/

namespace Sys2Proof.Machine

/-- A sparse table: what is listed under a key, first match; an unlisted key reads the default its reader names. -/
abbrev Tab (α : Type) := List (Nat × α)

/-- The field of `len` bits that starts at bit `lo`. -/
def bits (x lo len : Nat) : Nat := (x >>> lo) % 2 ^ len

/-- One bit as a truth value. -/
def bit (x i : Nat) : Bool := bits x i 1 == 1

/-- A truth value as a bit at place `i`. -/
def flagAt (b : Bool) (i : Nat) : Nat := if b then 2 ^ i else 0

/-- The low `n` bytes of a number, little-endian (R11). -/
def le : Nat → Nat → List Byte
  | 0, _ => []
  | n + 1, v => BitVec.ofNat 8 v :: le n (v >>> 8)

/-- The number a little-endian run of bytes holds (R11). -/
def ofLe : List Byte → Nat
  | [] => 0
  | b :: bs => b.toNat + 256 * ofLe bs

/-- A run of bytes cut from a list, short where the list ends. -/
def slice (bs : List Byte) (off n : Nat) : List Byte := (bs.drop off).take n

/-- A little-endian field of a byte list; bytes beyond its end read 0. -/
def fieldLe (bs : List Byte) (off n : Nat) : Nat := ofLe (slice bs off n)

/-- A byte list filled with zeros to `n` bytes, or cut to them. -/
def padTo (n : Nat) (bs : List Byte) : List Byte := (bs ++ List.replicate (n - bs.length) 0).take n

/-- `n` rounded up to a multiple of `k`. -/
def roundUp (n k : Nat) : Nat := (n + k - 1) / k * k

/-- The quotient rounded up. -/
def cdiv (n k : Nat) : Nat := (n + k - 1) / k

/-- A 32-bit word as a signed number. -/
def sgn (w : Word) : Int := w.toInt

/-- One bit step of the reflected CRC-32C. -/
def crcStep (c : Nat) : Nat := if c % 2 = 1 then (c >>> 1) ^^^ 0x82F63B78 else c >>> 1

/-- One byte of CRC-32C. -/
def crcByte (c : Nat) (b : Byte) : Nat :=
  let c := c ^^^ b.toNat
  crcStep (crcStep (crcStep (crcStep (crcStep (crcStep (crcStep (crcStep c)))))))

/-- CRC-32C of a run of bytes. -/
def crc32c (bs : List Byte) : Nat := (bs.foldl crcByte 0xFFFFFFFF) ^^^ 0xFFFFFFFF

/-- One bit step of the CRC-8 of R431. -/
def crc8Step (c : Nat) : Nat := if c ≥ 128 then ((c <<< 1) ^^^ 0x107) % 256 else c <<< 1

/-- CRC-8, polynomial 0x07, initial value 0 (R431). -/
def crc8 (bs : List Byte) : Nat :=
  bs.foldl (fun c b =>
    crc8Step (crc8Step (crc8Step (crc8Step (crc8Step (crc8Step (crc8Step (crc8Step (c ^^^ b.toNat))))))))) 0

/-- What a table lists under a key, or the default. -/
def Tab.get {α : Type} (d : α) : Tab α → Nat → α
  | [], _ => d
  | (k, v) :: r, a => if k = a then v else Tab.get d r a

/-- A table with a value put under a key, keys kept in rising order. -/
def Tab.set {α : Type} : Tab α → Nat → α → Tab α
  | [], a, v => [(a, v)]
  | (k, w) :: r, a, v =>
    if a < k then (a, v) :: (k, w) :: r else if a = k then (a, v) :: r else (k, w) :: Tab.set r a v

/-- A table changed under one key. -/
def Tab.upd {α : Type} (d : α) (m : Tab α) (a : Nat) (f : α → α) : Tab α := m.set a (f (m.get d a))

/-- The keys a table lists. -/
def Tab.keys {α : Type} (m : Tab α) : List Nat := m.map Prod.fst

/-- The first element of a list that passes a test, changed; the others as they are. -/
def modifyFirst {α : Type} (p : α → Bool) (f : α → α) : List α → List α
  | [] => []
  | a :: r => if p a then f a :: r else a :: modifyFirst p f r

/-- A list without the first element that passes a test. -/
def removeFirst {α : Type} (p : α → Bool) : List α → List α
  | [] => []
  | a :: r => if p a then r else a :: removeFirst p r

/-- All but the last `n` of a list's newest-last elements are dropped: the newest `n` stay. -/
def keepLast {α : Type} (n : Nat) (l : List α) : List α := l.drop (l.length - n)

end Sys2Proof.Machine
end

