-- ==== Sys2Proof/Machine/Fuses.lean ====
section
/-! DEFINITION. The one-time-programmable records: defect-map entries, contents and their bytes, slots with their headers,
what makes a slot blank and valid, the array (R374-R380). -/

namespace Sys2Proof.Machine

/-- A defect-map entry (R380). -/
structure DefEntry where
  ty : Nat
  pos : Pos
  flag : Bool
  detail : Nat
  deriving DecidableEq, Repr

/-- An entry as bytes (R380). -/
def DefEntry.bytes (e : DefEntry) : List Byte :=
  le 1 e.ty ++ le 3 (e.pos.px % 512 + 512 * (e.pos.py % 512) + flagAt e.flag 18) ++ le 4 e.detail

/-- The content of an OTP generation (R374-R379, R398). `named` is the spare table by 32·py + g; 15 marks a hole. -/
inductive OtpContent where
  | seed (bytes : List Byte)
  | limits (code ceiling envelope peak rate : Nat)
  | settings (autoStart fastAllowed key0Revoked uartEn : Bool) (jtagMode udpPort : Nat)
  | thermometer (bits : List Bool)
  | defects (named : Tab Nat) (entries : List DefEntry)
  deriving DecidableEq, Repr

/-- A spare table as bytes: one 4-bit entry a group, low nibble first (R379). -/
def spareBytes (t : Tab Nat) : List Byte :=
  (List.range 7680).map (fun i => BitVec.ofNat 8 (Tab.get 12 t (2 * i) % 16 + 16 * (Tab.get 12 t (2 * i + 1) % 16)))

/-- A content as the bytes after its header (R377-R379, R398). -/
def OtpContent.bytes : OtpContent → List Byte
  | .seed bs => padTo 32 bs
  | .limits v c e p r => Config.limitsBytes v c e p r
  | .settings a f k u j p => le 1 (flagAt a 0 + flagAt f 1 + flagAt k 2 + flagAt u 3 + 16 * (j % 4)) ++ le 1 0 ++ le 2 p
  | .thermometer l => le 16 (l.zipIdx.map (fun x => flagAt x.1 x.2)).sum
  | .defects named l => spareBytes named ++ le 4 l.length ++ l.flatMap DefEntry.bytes

/-- A generation slot (R375): the fields of its 16-byte header, all 0 while it is blank, and the content after it. -/
structure OtpSlot where
  kind : Nat := 0
  gen : Nat := 0
  rsvd : Nat := 0
  length : Nat := 0
  crc : Nat := 0
  sealWord : Nat := 0
  content : OtpContent := .seed []
  deriving DecidableEq, Repr

/-- The seal, programmed last. -/
def otpSeal : Nat := 0x5A3CC3A5

/-- A header as bytes. -/
def OtpSlot.header (x : OtpSlot) : List Byte :=
  le 1 x.kind ++ le 1 x.gen ++ le 2 x.rsvd ++ le 4 x.length ++ le 4 x.crc ++ le 4 x.sealWord

/-- The check sum that the crc field must hold: header with crc and seal as 0, then the content. -/
def OtpSlot.sum (x : OtpSlot) : Nat :=
  crc32c (le 1 x.kind ++ le 1 x.gen ++ le 2 x.rsvd ++ le 4 x.length ++ le 4 0 ++ le 4 0 ++ x.content.bytes)

/-- All 16 header bytes read 0. -/
def OtpSlot.isBlank (x : OtpSlot) : Bool :=
  x.kind == 0 && x.gen == 0 && x.rsvd == 0 && x.length == 0 && x.crc == 0 && x.sealWord == 0

/-- A slot of a kind at a slot number is valid. One that is neither blank nor valid is spent. -/
def OtpSlot.valid (kind gen : Nat) (x : OtpSlot) : Bool :=
  x.kind == kind && x.gen == gen && x.sealWord == otpSeal && x.crc == x.sum

/-- A slot as it stands when its generation is programmed. -/
def OtpSlot.made (kind gen : Nat) (c : OtpContent) : OtpSlot :=
  let x : OtpSlot := { kind := kind, gen := gen, length := c.bytes.length, sealWord := otpSeal, content := c }
  { x with crc := x.sum }

/-- Where a slot lies in the array, and its size (R374). -/
def otpOffset (kind n : Nat) : Nat := if kind = 5 then 0x4000 + 0xC000 * n else 0x800 * (kind - 1) + 0x100 * n
def otpSlotSize (kind : Nat) : Nat := if kind = 5 then 0xC000 else 0x100

/-- The kind and the number of the slot that an offset of the array lies in; the rest of the array is reserved (R374). -/
def otpSlotOf (a : Nat) : Option (Nat × Nat) :=
  (([1, 2, 3, 4, 5] : List Nat).flatMap (fun k => (List.range 5).map (fun n => (k, n)))).find? (fun x =>
    decide (otpOffset x.1 x.2 ≤ a ∧ a < otpOffset x.1 x.2 + otpSlotSize x.1))

/-- A byte of the 256 KiB array: reserved bytes, and those of a slot beyond its content, read 0 (R374). -/
def otpByte (otp : Tab (Tab OtpSlot)) (a : Nat) : Byte :=
  match otpSlotOf a with
  | none => 0
  | some (k, n) =>
    let x := Tab.get ({} : OtpSlot) (Tab.get [] otp k) n
    if x.isBlank then 0 else (x.header ++ x.content.bytes).getD (a - otpOffset k n) 0

end Sys2Proof.Machine
end

