-- ==== Sys2Proof/Machine/State.lean ====
section
/-! DEFINITION. The state of the block as plain data: every tile, packet, job, port, map, ledger, log, fuse and
power condition the spec gives the machine, and the queue of waiting commands. Indexed things are sparse tables
that read a default where nothing is listed; memories are lists of cells in one canonical form. -/

namespace Sys2Proof.Machine

/-- A memory: cells in strictly rising address order, none equal to what an unlisted address reads as (0). -/
abbrev Mem := List Host.Cell

/-! ## Threads -/

/-- The states of a thread slot (SLOT_STATE_n.state). -/
inductive SlotSt where
  | free | running | waiting | halted
  deriving DecidableEq, Repr

/-- What a waiting thread waits on. `retry` holds the wait cause of SLOT_STATE_n and the instruction word that
the sequencer tries again; the others end by the event they name; a wait on a line keeps its instruction word
(log 3). -/
inductive WaitOn where
  | retry (cause : Nat) (w : Word)
  | sqHead (q : Nat) (rd : Reg)
  | line (k : Nat) (w : Word)
  | vector
  deriving DecidableEq, Repr

/-- One thread slot: SLOT_STATE_n, pc, g1-g31, REMOTE_CTX_n and the speculative tag it runs under. -/
structure Slot where
  st : SlotSt := .free
  wait : Option WaitOn := none
  task : Nat := 0
  tag : Nat := 0
  pc : Nat := 0
  regs : Tab Word := []
  ctx : Word := 0
  spec : Option Nat := none
  deriving DecidableEq, Repr

/-! ## Dataflow -/

/-- A token (R163): its tag, whether it is a reference, its speculative tag when provisional, its payload. -/
structure Token where
  tag : Nat
  ref : Bool
  prov : Option Nat
  data : List Byte
  deriving DecidableEq, Repr

/-- A task-table entry (R155). -/
structure TaskDecl where
  id : Nat
  nOps : Nat
  window : Nat
  slots : Nat
  entry : Nat
  lag : Nat
  ops : List Nat
  outMask : Nat
  deriving DecidableEq, Repr

/-- A task of a tile: its declaration, its window base and the ended tags at or beyond the base (R157, R160). -/
structure TaskSt where
  decl : TaskDecl
  base : Nat := 0
  ended : List Nat := []
  deriving DecidableEq, Repr

/-- A match-store entry (R157): task, operand, token. -/
structure MEntry where
  task : Nat
  op : Nat
  tok : Token
  deriving DecidableEq, Repr

/-- An input channel (CH_STATE_n, R165-R167). `off` is how many bytes of the head token a feeder has read (R81);
`next` the number of the next token in send order: a token that comes before its turn waits (R166); `returned` the
cumulative credits and `reps` the repeats still due (R259). -/
structure Chan where
  kind : Nat := 0
  ci : Option Nat := none
  toks : List Token := []
  off : Nat := 0
  next : Nat := 0
  returned : Nat := 0
  reps : Nat := 0
  deriving DecidableEq, Repr

/-- An output port (OPORT_n): credit, the channel it feeds, token numbering, the last credit count accepted, and the
token numbers that R257 keeps from reuse. -/
structure OPort where
  ci : Option Nat := none
  credit : Nat := 0
  num : Nat := 0
  lastCredit : Nat := 0
  waiting : Bool := false
  quarantine : List Nat := []
  deriving DecidableEq, Repr

/-- A declared steering unit (R170). -/
structure SteerDecl where
  merge : Bool
  in0 : Option Nat
  in1 : Option Nat
  ctl : Option Nat
  out0 : Option Nat
  out1 : Option Nat
  predict : Nat
  deriving DecidableEq, Repr

/-- A steering unit: declaration, predictor (R170), the last control path, unpaired data and control tokens (R171),
and the speculations it has outstanding (R174): tag, predicted path, kept data. -/
structure Steer where
  decl : SteerDecl
  predict : Nat
  lastPath : Bool := false
  data : List Token := []
  ctl : List Token := []
  kept : List (Nat × Bool × Token) := []
  deriving DecidableEq, Repr

/-- The dataflow part of a tile (R155-R177). `specTags` lists the outstanding speculative tags with their unit. The
channel send buffer of R166 is the TOKEN packets among `Net.outs`. -/
structure Flow where
  tasks : List TaskSt := []
  store : List MEntry := []
  chans : Tab Chan := []
  ports : Tab OPort := []
  steers : List Steer := []
  specTags : List (Nat × Nat) := []
  tagWait : Bool := false
  owners : Tab (Option Nat) := []
  scratch : Bool := false
  deriving DecidableEq, Repr

/-! ## Synchronisation -/

/-- A sync queue (SQ_STATE_n, SQ_COUNT_n, SQ_DECL_n; R217-R224). Waiters hold slot and destination register. -/
structure SQ where
  toks : List Word := []
  waiters : List (Nat × Reg) := []
  putWait : List Nat := []
  puts : Nat := 0
  gets : Nat := 0
  nPut : Nat := 0xFFFF
  nGet : Nat := 0xFFFF
  deriving DecidableEq, Repr

/-- The sync-queue and hatband part of a tile: HB_CFG, HB_ENROL, HB_PENDING, HB_MAP_k, HB_CROSS_k, and the SIGNALs
issued and not yet appended (R230). -/
structure Sync where
  sqs : Tab SQ := []
  nLines : Nat := 0
  sqExp : Nat := 24
  hbExp : Nat := 34
  enrol : Word := 0
  pending : Word := 0
  map : Tab (Option Nat) := []
  cross : Tab Nat := []
  sigOut : Nat := 0
  deriving DecidableEq, Repr

/-! ## Remote operations -/

/-- A packet awaiting acknowledgement (R251, R256): its timer runs unless the target holds the signal (R254);
`lcc` is the local counter it counts on, `units` what it gains, `local_` the local address its data is read from
or written to. -/
structure Out where
  pkt : Packet
  timer : Bool
  reissued : Bool
  lcc : Option Nat
  units : Nat
  local_ : Nat
  target : Nat
  op : Nat
  deriving DecidableEq, Repr

/-- A held signal (R208, R231, R254). -/
structure HeldSig where
  count : Nat
  value : Word
  queue : Nat
  counter : Nat
  sbit : Bool
  pkt : Packet
  deriving DecidableEq, Repr

/-- A reduction child at a node router (R263-R265). -/
structure RedChild where
  entry : Nat
  tag : Nat
  element : Nat
  level : Nat
  j : Nat
  right : Bool
  step : Nat
  data : List Byte
  deriving DecidableEq, Repr

/-- A child already combined (R265), kept until two further crossings of line 0 are seen. -/
structure RedSeen where
  entry : Nat
  tag : Nat
  element : Nat
  level : Nat
  j : Nat
  right : Bool
  crossings : Nat
  deriving DecidableEq, Repr

/-- A router of a multicast tree that waits for its branches (R261): the packet without its data, the upstream
router (none at the corner), parts still to answer, tiles counted. -/
structure McNode where
  pkt : Packet
  up : Option Pos
  waitFor : Nat
  tiles : Nat
  deriving DecidableEq, Repr

/-- The network part of a tile: CC_n, NET_CFG, NET_STATUS, RED_STATUS, NET_STAT_i, the packets awaiting
acknowledgement, packets that wait for the next sequence number to be free (R251), quarantined numbers (R257), the
duplicate filter (R255: source, number, and whether the packet came from another device), held signals, reduction
nodes. -/
structure Net where
  cc : Tab Word := []
  rto : Nat := 18
  egress : Nat := 0
  epoch : Bool := false
  jslot : Option Nat := none
  seqNext : Nat := 0
  windowWait : Bool := false
  outs : List Out := []
  unsent : List Out := []
  quarantine : List Nat := []
  filter : List (Addr × Nat × Bool) := []
  sigs : List HeldSig := []
  stat : Tab Nat := []
  red : List RedChild := []
  redSeen : List RedSeen := []
  mc : List McNode := []
  deriving DecidableEq, Repr

/-! ## Tensor unit -/

/-- The states of an accord (R96). -/
inductive AccSt where
  | free | opened | openProv | drainPending | draining
  deriving DecidableEq, Repr

/-- An accord (R95-R97): state, type, sticky saturation, recorded tag, 1,024 values. -/
structure Accord where
  st : AccSt := .free
  int : Bool := false
  sat : Bool := false
  tag : Nat := 0
  vals : Tab Word := []
  deriving DecidableEq, Repr

/-- The stored elements of one row of A or column of B in a segment: K index, code, scale byte. -/
abbrev Line := List (Nat × Nat × Option Nat)

/-- Progress of a tensor operation in the loop of R80: n-block, first m-block of the pass, segment along K, m-block;
the segments of B that the feeders or the weight registers hold, in order from segment `ks` (R83, R87); the bytes that a feeder
has read of a segment whose last bytes have not come (R81); `ended` when all sums are in and the last drain is still held
(R78). -/
structure Progress where
  nb : Nat := 0
  mb0 : Nat := 0
  ks : Nat := 0
  mb : Nat := 0
  bSegs : List (List Line) := []
  bufA : List Byte := []
  bufB : List Byte := []
  ended : Bool := false
  deriving DecidableEq, Repr

/-- What an issue-queue entry asks for (R78, R94, R211); an operation keeps the block count that the header of its
block-sparse operand gave at issue (R131). -/
inductive QWork where
  | tensor (desc : List Word) (nblk : Nat)
  | drain (insn : Word) (rd rs1 rs2 : Word)
  | discard (insn : Word)
  deriving DecidableEq, Repr

/-- An issue-queue entry: its work, the tag it runs under, the step it was issued in, whether it has started, its
progress, the captured mask bits of its pass by row (R153), and whether its next pass waits for the accords of the
last one to drain (R91). -/
structure QEntry where
  work : QWork
  spec : Option Nat
  step : Nat
  running : Bool
  prog : Progress
  mask : List (Bool × Bool)
  draining : Bool
  deriving DecidableEq, Repr

/-- A drain (R101, R105, R470): the accord, the finishing set named, its captured registers by window offset, the
window it writes, the width N or row capacity of its output, whether an instruction asked for it, the mask bits that
unselect elements (R153), the word for FAULT_INSN, the step it belongs to (R330), the step in which it started (R108). -/
structure DrainJob where
  accord : Nat
  fin : Nat
  regs : Tab Word
  dst : Nat
  ld : Nat
  rows : Nat
  cols : Nat
  m0 : Nat
  n0 : Nat
  width : Nat
  explicit : Bool
  mask : Option (List (Bool × Bool))
  insn : Word
  step : Nat
  began : Nat := 0
  deriving DecidableEq, Repr

/-- A vector operation in progress: its slot, instruction word, step and descriptor (R214). -/
structure VopRun where
  slot : Nat
  insn : Word
  step : Nat
  desc : List Word
  deriving DecidableEq, Repr

/-- The tensor unit: accords, issue queue, drains in finishing in order, drains held for their tag (DRAIN_PENDING),
and the vector operation of a Function tile. -/
structure Tensor where
  accs : Tab Accord := []
  queue : List QEntry := []
  drains : List DrainJob := []
  pendingDrains : List DrainJob := []
  vop : Option VopRun := none
  deriving DecidableEq, Repr

/-! ## Store tile engines and checks -/

/-- A descriptor in a DMA queue's ring (R278, R279): its place in the ring, where the Store tile's SRAM holds its eight words,
the requester, the step bit of the submission. -/
structure RingDesc where
  pos : Nat
  src : RC
  sbit : Bool
  started : Bool
  deriving DecidableEq, Repr

/-- A DMA queue hosted by a Store tile (R278); `next` is the place of the next descriptor. -/
structure DmaQ where
  job : Nat
  area : Nat
  engine : Nat
  next : Nat := 0
  ring : List RingDesc := []
  deriving DecidableEq, Repr

/-- A deep-channel FIFO of a Store tile (R169, R289): its channel, its range of SRAM from `base` with 80 bytes for each of
`cap` tokens, the place of its oldest token, its tokens, and the numbering and credits of both its sides. -/
structure Deep where
  ci : Nat
  base : Nat := 0
  cap : Nat := 1
  head : Nat := 0
  toks : List Token := []
  next : Nat := 0
  num : Nat := 0
  credit : Nat := 64
  lastCredit : Nat := 0
  returned : Nat := 0
  reps : Nat := 0
  deriving DecidableEq, Repr

/-- The check state of R349 and the retention state of R334. -/
structure Check where
  failStep : Option Nat := none
  failCnt : Nat := 0
  bndUsed : Nat := 0
  replays : Nat := 0
  recording : Bool := false
  copying : List Nat := []
  deriving DecidableEq, Repr

/-- One tile position. `bad` and `weak` name the 64-bit words of data memory with a double-bit and with a single-bit error
(R76). `ctl` holds the written RW registers of the control window by offset; `taint` the reserved
bits to which a 1 was written (R12). `maskWatch` is the mask of the running operation, its rows' stride and number, `maskHit` the
rows written since it began (R154). -/
structure Tile where
  mem : Mem := []
  bad : List Nat := []
  weak : List Nat := []
  prog : Mem := []
  slots : Tab Slot := []
  order : List Nat := []
  faultInfo : Word := 0
  faultPc : Word := 0
  faultInsn : Word := 0
  rc : RC := ⟨0, 0⟩
  step : Nat := 0
  rank : Nat := 0
  granted : Bool := false
  ctl : Tab Word := []
  taint : Tab Word := []
  hist : Tab Nat := []
  stats : Tab Nat := []
  flow : Flow := {}
  sync : Sync := {}
  net : Net := {}
  tensor : Tensor := {}
  dmaqs : List DmaQ := []
  dmaOut : Nat := 0
  deeps : List Deep := []
  check : Check := {}
  once : List Nat := []
  maskWatch : Option (Nat × Nat × Nat) := none
  maskHit : List Nat := []
  deriving DecidableEq, Repr

/-! ## The wafer -/

/-- Where a packet in flight is: at a router (with its arrival side), at a port tile, handed to the destination
interface of a position, or a multicast's copy for a tree router's own tile (R261), or a reduction's result there
(R266). -/
inductive Place where
  | router (p : Pos) (side : Nat)
  | port (id : Nat)
  | dest (p : Pos)
  | own (p : Pos)
  deriving DecidableEq, Repr

/-- A packet in flight: `retargeted` once the group router resolved a logical destination, for a packet on link 0
between port tiles, or on a multicast tree; `transit` holds fjob and fhops of a transit packet (R244, R260, R443). -/
structure Flight where
  id : Nat
  pkt : Packet
  place : Place
  retargeted : Bool
  transit : Option (Nat × Nat) := none
  deriving DecidableEq, Repr

/-- A token on a neighbour link (R166): job slot, channel, token, its number in send order, step bit of the sender,
failed resends. -/
structure NTok where
  j : Nat
  ci : Nat
  tok : Token
  num : Nat
  sbit : Bool
  fails : Nat
  deriving DecidableEq, Repr

/-- The arbitration of one output port of a router (R247): whether VL2 took the last turn of VL0 and VL2, and by lane
the input whose round it is with the packets it may still send. -/
structure Arb where
  last2 : Bool := false
  rounds : Tab (Nat × Nat) := []
  deriving DecidableEq, Repr

/-- The compute square: tiles by 512·py + px, packets in flight in the order of their arrival where they are,
neighbour-link tokens, arbitration by 5 × router + output; the firmware items broadcast, by tile kind, and the segments that a
tile's firmware memory lacks (R394). -/
structure Wafer where
  tiles : Tab Tile := []
  flights : List Flight := []
  nextId : Nat := 0
  links : List NTok := []
  arbs : Tab Arb := []
  firmware : List (List Byte) := []
  fwLacks : Tab (List Nat) := []
  deriving DecidableEq, Repr

/-! ## The brim -/

/-- What a confirmation buffer holds (R285). -/
inductive HeldKind where
  | hbm (addr : Nat) (data : List Byte)
  | packet (p : Packet)
  deriving DecidableEq, Repr

/-- A held write with its job slot, source position in region coordinates and step (R285). -/
structure HeldWrite where
  j : Nat
  src : RC
  step : Nat
  kind : HeldKind
  deriving DecidableEq, Repr

/-- A port tile: confirmation buffer in acceptance order, writes being committed (R286), ingress log (R339, with
the confirmations still to pass), packets awaiting acknowledgement, packets waiting in its VL queues (R439), the jobs and
steps whose first timeout and first late arrival are logged (R256, R257), quarantined numbers (R257). -/
structure PortTile where
  held : List HeldWrite := []
  ingress : List (Nat × Packet × Nat) := []
  outs : List (Out × Nat × Nat) := []
  seqNext : Nat := 0
  queue : List (Packet × Nat × Nat) := []
  timedOut : List (Nat × Nat) := []
  lateIn : List (Nat × Nat) := []
  quarantine : List Nat := []
  deriving DecidableEq, Repr

/-- The progress of a piece of a DMA descriptor (R281). -/
inductive PieceSt where
  | todo | moving | ended
  deriving DecidableEq, Repr

/-- A piece: HBM address, tile or destination address, bytes, blocks kept for GATHER, state. -/
structure DmaPiece where
  src : Nat
  dst : Nat
  len : Nat
  st : PieceSt
  deriving DecidableEq, Repr

/-- How far a descriptor has come: pieces, completion record, counter PUT (R282). -/
inductive DmaStage where
  | pieces | record | counter
  deriving DecidableEq, Repr

/-- A descriptor an engine runs (R281-R283); `landed` names the packets of COPY pieces held at their destination by piece and
source address (R255). -/
structure DmaRun where
  stage : DmaStage
  id : Nat
  j : Nat
  host : Pos
  q : Nat
  pos : Nat
  requester : Pos
  words : List Word
  sbit : Bool
  step : Nat
  pieces : List DmaPiece
  code : Nat
  units : Nat
  blocks : Nat
  landed : List (Nat × Nat) := []
  deriving DecidableEq, Repr

/-- The states of an optical port's link (R437-R439). -/
inductive LinkSt where
  | dark | training | aligned | up | failed | down
  deriving DecidableEq, Repr

/-- One optical port (R425-R439). -/
structure Link where
  st : LinkSt := .dark
  rxMask : Nat := 0
  txMask : Nat := 0
  fusedRx : Nat := 0
  fusedTx : Nat := 0
  major : Nat := 0
  minor : Nat := 0
  peerSerial : Nat := 0
  credits : Tab Nat := []
  sent : Tab Nat := []
  peerFreed : Tab Nat := []
  recv : Tab Nat := []
  freed : Tab Nat := []
  laneSeq : Nat := 0
  laneDue : Bool := false
  laneApplied : Nat := 0
  bseq : Nat := 0
  lastRetrain : Option Nat := none
  logged0802 : Option Nat := none
  deriving DecidableEq, Repr

/-- A frame or transaction the block has sent out of its boundary. -/
inductive Emit where
  | data (port fjob fhops : Nat) (p : Packet)
  | credit (port : Nat) (counts : List Nat)
  | cap (port : Nat) (c : Cap)
  | lane (port mask seq : Nat)
  | memResp (port tag : Nat) (data : List Byte)
  | regResp (port tag : Nat) (data : List Byte)
  | hostw (port addr : Nat) (data : List Byte)
  | response (tr : Transport) (box session seq opcode : Nat) (flags status refusal tMgmt logSeq : Nat)
      (payload : List Byte)
  | push (session : Nat) (data : List Byte)
  | tdo (v : Word)
  deriving DecidableEq, Repr

/-- The brim: HBM bytes by stack-local device address, poisoned lines, corrected counts, port tiles, DMA engines,
optical links, discards of the current second, stacks reporting above 85 °C. -/
structure Brim where
  hbm : Mem := []
  poisoned : List Nat := []
  corrected : Tab Nat := []
  ports : Tab PortTile := []
  runs : List (Nat × DmaRun) := []
  nextRun : Nat := 0
  links : Tab Link := []
  discards : List (Nat × Nat × Nat × Nat) := []
  hot : List Nat := []
  emitted : List Emit := []
  deriving DecidableEq, Repr

/-! ## Maps and table epochs -/

/-- A device-rank table (R440). -/
structure RankTable where
  fjob : Nat
  own : Nat
  ndev : Nat
  ranges : List (Nat × Nat × Nat × Nat)
  rows : List Nat
  egressDefault : Nat
  deriving DecidableEq, Repr

/-- The phases of a table change (R267). -/
inductive ChangeSt where
  | writing | armed
  deriving DecidableEq, Repr

/-- A table change (R267): phase, the job slots still to change epoch, what it carries: new rank tables by job slot; the job slots whose recovery waits for it (R343, R344), the request that asked for it, and
whether it follows the isolation of a field (R346). -/
structure Change where
  st : ChangeSt := .writing
  left : List Nat := []
  ranks : List (Nat × RankTable) := []
  jobs : List Nat := []
  req : Option Req := none
  isolation : Bool := false
  deriving DecidableEq, Repr

/-- The live map and the table copies (R246, R267, R382): `base` the entries of the newest generation, `added` those found or
applied since, of which `applied` lasts only until the next start (R383). `spares` is the live spare index by 32·py + g (default
12); `named` the spare table of the newest generation (R379). -/
structure MapSt where
  dead : List (Pos × Bool) := []
  added : List DefEntry := []
  base : List DefEntry := []
  applied : List DefEntry := []
  named : Tab Nat := []
  spares : Tab Nat := []
  oldSpares : Tab Nat := []
  turns : Tab (List Turn) := []
  oldTurns : Tab (List Turn) := []
  epoch : Bool := false
  released : Bool := true
  change : Option Change := none
  waitingChanges : List Change := []
  isolated : List Nat := []
  condemned : Nat := 0
  tests : Nat := 0
  testFails : Nat := 0
  testing : List Pos := []
  retest : List Pos := []
  missed : Tab Nat := []
  suspendTests : Bool := false
  holdTimers : Bool := false
  logSquash : Bool := false
  deriving DecidableEq, Repr

/-! ## Jobs -/

/-- A constant segment (R290, R300). -/
structure Seg where
  off : Nat
  bytes : List Byte
  deriving DecidableEq, Repr

/-- A sync-queue declaration (R222). -/
structure SqDecl where
  q : Nat
  init : List Word
  nPut : Nat
  nGet : Nat
  deriving DecidableEq, Repr

/-- A TILES record (R300). `tables` are the record's table bytes as the home record carries them. -/
structure TileRec where
  rc : RC
  kind : Nat
  accords : Nat
  sqExp : Nat
  enrol : Nat
  maxInflight : Nat
  blocked : Bool
  spec : Bool
  prog : List Byte
  memUsed : Nat
  tasks : List TaskDecl
  steers : List SteerDecl
  sqs : List SqDecl
  segs : List Seg
  tables : List Byte
  deriving DecidableEq, Repr

/-- A CHANNELS entry (R301). -/
structure ChanRec where
  prod : RC
  port : Nat
  ch : Nat
  kind : Nat
  stallExp : Nat
  cons : RC
  depth : Nat
  initial : Nat
  maxInflight : Nat
  host : RC
  init : List (List Byte)
  deriving DecidableEq, Repr

/-- A reduction-table entry (R262). -/
structure RedEntry where
  op : Nat
  long : Bool
  all : Bool
  fmt : Nat
  rx0 : Nat
  ry0 : Nat
  w : Nat
  h : Nat
  rank0 : Nat
  ndev : Nat
  endpoint : Nat
  drank : Nat
  off : Nat
  dcc : Nat
  dce : Bool
  deriving DecidableEq, Repr

/-- A DMA queue of the HBM plan (R278). -/
structure DmaRec where
  host : RC
  area : Nat
  engine : Nat
  deriving DecidableEq, Repr

/-- A RETENTION entry (R333). -/
structure RetRec where
  rc : RC
  kind : Nat
  off : Nat
  len : Nat
  host : RC
  hostOff : Nat
  bndLen : Nat
  deriving DecidableEq, Repr

/-- A job image as the loader reads it (R295-R304). -/
structure Image where
  narrow : Bool
  nLines : Nat
  hbExp : Nat
  rtoExp : Nat
  ndev : Nat
  seed : Nat
  energyStep : Nat
  stepRate : Nat
  w : Nat
  skip : Nat
  h : Nat
  tiles : List TileRec
  chans : List ChanRec
  reds : List RedEntry
  home : Nat × Nat
  pause : Nat × Nat
  dryd : Nat × Nat
  ranges : List (Nat × Nat)
  dmaqs : List DmaRec
  rets : List RetRec
  deriving DecidableEq, Repr

/-- The job states of R291. -/
inductive JobSt where
  | loaded | running | paused | halted
  deriving DecidableEq, Repr

/-- What a job has in progress (R313-R323, R340-R344). -/
inductive Phase where
  | idle
  | startWait | starting | pauseBoundary | pauseQuiesce | pauseScanOut | predecessors | resuming
  | rbQuiesce | rbRestore
  | tkTable | tkLoad
  | rpTable | rpScanOut | rpResume
  deriving DecidableEq, Repr

/-- How far the stop of R235 has come. -/
inductive StopSt where
  | none | accepting | closed | dumping | dumped
  deriving DecidableEq, Repr

/-- A tile as its boundary record keeps it (R334, R335): region coordinate, step, the tile with the addresses of the
job's tiles in region form (R321), and the neighbour-link tokens it has sent that are not across. The slot is `step` mod
2. -/
structure Snap where
  rc : RC
  step : Nat
  tile : Tile
  links : List NTok
  deriving DecidableEq, Repr

/-- A paused job's saved state (R317-R319): its tiles, the held-write log, the steps. -/
structure Saved where
  tiles : List (RC × Tile)
  log : List (Nat × HeldWrite)
  links : List NTok
  bytes : Nat
  deriving DecidableEq, Repr

/-- The energy account of a job (R356-R362, EM_JOB_k). Times are management time. `cur` is the energy of the current
step over closed intervals, `recent` the last three counted steps, `marks` the releases of the open interval with
whether the step each ends is a repeat, `repeated` the last step that a rollback discards or a replay repeats,
`prevRelease` the last release, `readyAt` when the gate's own condition came to hold. -/
structure JobEnergy where
  setpoint : Nat := 0
  cap : Nat := 0
  overCnt : Nat := 0
  total : Nat := 0
  cur : Nat := 0
  recent : List Nat := []
  lastStep : Nat := 0
  prevRelease : Option Nat := none
  readyAt : Option Nat := none
  marks : List (Nat × Bool) := []
  repeated : Option Nat := none
  ledgerWait : Bool := false
  stepOpen : Bool := false
  warned : Bool := false
  deriving DecidableEq, Repr

/-- A loaded job. `holes` are the hole groups its region map was made with (R306, R309); `beats` counts the crossings of
line 0 since it took its footprint (R347). `succ` are the successors that
a PAUSE_JOB named, `outcomes` what became of them, `pauseSeq` the pause's record (R322, R419); `preds` the predecessors
a RESUME_JOB waits for, `want` the origin it names; `unload` an UNLOAD_JOB that waits for the stop, true to discard
(R323). -/
structure Job where
  id : Nat
  slot : Nat
  st : JobSt
  phase : Phase
  img : Image
  origin : Option (Nat × Nat)
  holes : List Nat
  lines : List Nat
  crossed : Tab Nat
  gate0 : Bool
  gates : Bool
  conf : Nat
  epoch : Bool
  stop : StopSt
  trigger : Nat
  trigTile : RC
  trigStep : Nat
  tTrigger : Nat
  hostDump : Bool
  afterHalt : Bool
  preGates : List Bool
  late : Nat
  area : Option (Nat × Nat)
  dumpReq : Option Req
  req : Option Req
  succ : List Nat
  outcomes : List (Option (Nat × Nat))
  pauseSeq : Nat
  preds : List Nat
  want : Option (Nat × Nat)
  unload : Option Bool
  rbStep : Nat
  rbWhy : Nat
  pauseAfter : Bool
  lost : List Pos
  lastFault : Nat
  faultTile : RC
  tChange : Nat
  rollbacks : Nat
  beats : Nat
  bounds : List Snap
  saved : Option Saved
  ranks : Option RankTable
  oldRanks : Option RankTable
  energy : JobEnergy
  deriving DecidableEq, Repr

/-! ## Host side -/

/-- An event-log record (R422). -/
structure LogRec where
  seq : Nat
  code : Nat
  origin : Nat
  stopped : Bool
  tMgmt : Nat
  job : Nat
  loc : Nat
  detail : Nat
  count : Nat
  deriving DecidableEq, Repr

/-- A session (R407) with the responses kept on datagram transports (R411). -/
structure Session where
  id : Nat
  tr : Transport
  major : Nat
  minor : Nat
  push : Bool
  used : Nat
  kept : List (Nat × Emit)
  running : List Nat
  deriving DecidableEq, Repr

/-- A partly received object (R413). -/
structure Partial where
  session : Nat
  opcode : Nat
  own : List Nat
  total : Nat
  bytes : List Byte
  deriving DecidableEq, Repr

/-- A snapshot of a paged read (R412). -/
structure Snapshot where
  id : Nat
  session : Nat
  opcode : Nat
  bytes : List Byte
  deriving DecidableEq, Repr

/-- Mailboxes, sessions, event log and event ring; the job slots of the START_JOB and RESUME_JOB that wait for their placement,
in acceptance order (R293); by offset the reserved bits of tether registers to which a 1 was written (R12). -/
structure HostSide where
  doorbells : Tab Nat := []
  areas : Mem := []
  sessions : List Session := []
  nextSession : Nat := 1
  partials : List Partial := []
  snapshots : List Snapshot := []
  nextSnap : Nat := 1
  log : List LogRec := []
  nextSeq : Nat := 1
  evrBase : BitVec 64 := 0
  evrEnable : Bool := false
  evrSize : Nat := 0
  evrOvf : Bool := false
  evrProd : Nat := 0
  evrCons : Nat := 0
  evrLost : Nat := 0
  evrPort : Nat := 0
  placements : List Nat := []
  taint : Tab Word := []
  deriving DecidableEq, Repr

/-! ## Energy and power -/

/-- One field: supply, target, thermal cap (mV), duty (eighths), readings, conditions (R361-R365, EM_FIELD_n). -/
structure Field where
  powered : Bool := false
  volt : Nat := 0
  target : Nat := 0
  tcap : Nat := 0
  duty : Nat := 8
  suspendedNow : Bool := false
  tj : Nat := 0
  rate : Nat := 0
  energy : Nat := 0
  thermal : Bool := false
  raised : Bool := false
  deriving DecidableEq, Repr

/-- A ledger interval record (R353, R417). -/
structure IntervalRec where
  time : Nat
  input : Nat
  overhead : Nat
  budget : Int
  fields : List (Nat × Nat × Nat × Nat × Nat)
  jobs : List Nat
  deriving DecidableEq, Repr

/-- The energy mirror as last written (R369): EM_SUM_0-5, EM_STATUS, EM_FIELD_n, EM_JOB_k. -/
structure Mirror where
  seq : Nat := 0
  time : Nat := 0
  input : Nat := 0
  overhead : Nat := 0
  budget : Int := 0
  reserved : Nat := 0
  state : Nat := 0
  limCap : Nat := 0
  limDuty : Nat := 8
  throttling : Bool := false
  ledgerWait : Bool := false
  fields : Tab (List Nat) := []
  jobs : Tab (List Nat) := []
  deriving DecidableEq, Repr

/-- The ledger and the limiter (R353-R363); `sectorSum` and `brimSum` are the counts of the sense points and of the brim
monitors, in the order of the readings (R351). -/
structure Energy where
  fields : Tab Field := []
  penv : Nat := 0
  window : Nat := 100
  allow : Nat := 0
  nextEnv : Option (Nat × Nat × Nat × Bool) := none
  budget : Int := 0
  limCap : Nat := 0
  limDuty : Nat := 8
  throttled : Bool := false
  sinceLower : Option Nat := none
  recent : List Nat := []
  records : List IntervalRec := []
  inputSum : Nat := 0
  sectorSum : List Nat := []
  brimSum : List Nat := []
  overheadSum : Nat := 0
  mirror : Mirror := {}
  deriving DecidableEq, Repr

/-- The module states of R366, with the start of R371 and the recovery mode of R393. -/
inductive ModSt where
  | off | standby | starting | recovery | idle | active | parked
  deriving DecidableEq, Repr

/-- A power transition in progress (R367). -/
inductive PowerMove where
  | none | toParked | toIdle | toStandby
  deriving DecidableEq, Repr

/-- The limits and settings in force: what the newest valid generations said when the management processor started
(R376-R378). -/
structure InForce where
  variant : Nat := 0
  ceiling : Nat := 0
  envelope : Nat := 0
  peak : Nat := 0
  rate : Nat := 0
  fastAllowed : Bool := false
  uartEn : Bool := false
  jtagMode : Nat := 0
  udpPort : Nat := 0
  deriving DecidableEq, Repr

/-- A TRAIN_LINKS in progress (R388): its request, the stacks and ports it names, whether saved settings serve it. -/
structure Training where
  req : Req
  stackMask : Nat
  portMask : Nat
  fast : Bool
  deriving DecidableEq, Repr

/-- Module state, start progress, standby domain and pins. `hbmEnded` and `optEnded` are the stacks and the ports whose training
has ended in this start (R371, R372). `inputLow` tells that the input is applied for the first time
or came back after an undervoltage; `needWake` that a start waits for WAKE_N; `fellBack` that this start follows R392. -/
structure Module where
  st : ModSt := .off
  order : Nat := 0
  waves : Nat := 0
  hbmEnded : List Nat := []
  optEnded : List Nat := []
  fromParked : Bool := false
  fastHbm : Bool := false
  fastOpt : Bool := false
  standbyOn : Bool := false
  qualified : Bool := false
  inputLow : Bool := false
  heldStart : Bool := false
  cause : Nat := 0
  fellBack : Bool := false
  needWake : Bool := false
  mgmtTime : Nat := 0
  move : PowerMove := .none
  moveReq : Option Req := none
  training : Option Training := none
  failedStacks : List Nat := []
  shortSet : List Nat := []
  hbmSides : List Nat := []
  optSides : List Nat := []
  tap : TapInsn := .idcode
  inForce : InForce := {}
  deriving DecidableEq, Repr

/-! ## Fuses and flash -/

/-- A flacon in a flash bank: the header fields of R389, its verdict under the signature and digests of R391, the
settings and limits items of R390, and its tile firmware by tile kind. -/
structure Flacon where
  major : Nat
  minor : Nat
  key : Nat
  level : Nat
  version : Nat
  wellFormed : Bool
  authentic : Bool
  settings : Option OtpContent
  limits : Option OtpContent
  digest : List Byte
  firmware : List (List Byte) := []
  deriving DecidableEq, Repr

/-- A training record in the flash slot (R386): the generation and repairs it was saved with, its bytes, and
whether its signature verifies with this device's key. -/
structure TrainRec where
  mapGen : Nat
  repairs : List DefEntry
  bytes : List Byte
  good : Bool
  deriving DecidableEq, Repr

/-- The FRU EEPROM, which nothing writes (R463). -/
structure Fru where
  ordering : List Byte := Config.orderingCode
  serial : BitVec 64 := Config.serial
  mac : List Byte := Config.macAddress
  made : List Byte := Config.madeOn
  deriving DecidableEq, Repr

/-- OTP, boot flash and FRU EEPROM. `programming` is the generation being programmed: kind, slot, content, the request it is for;
`commitGens` the settings and limits generations of an FW_COMMIT under way; `thermoDue` tells that the thermometer is still to
be raised, and whether a bit of it fails to program (R398). -/
structure Boot where
  otp : Tab (Tab OtpSlot) := []
  programming : Option (Nat × Nat × OtpContent × Option Req) := none
  bankA : Option Flacon := none
  bankB : Option Flacon := none
  activeB : Bool := false
  newBank : Bool := false
  runningB : Bool := false
  running : Option Flacon := none
  slot : Option TrainRec := none
  staging : Option (Nat × Nat × List Byte) := none
  staged : Bool := false
  commitGens : Nat × Nat := (255, 255)
  thermoDue : Option Bool := none
  fru : Fru := {}
  deriving DecidableEq, Repr

/-! ## The whole block -/

/-- Everything but fuses, flash and the command queue. `freeCtr` is the model's own: it selects the next free
value (log 10). -/
structure Dev where
  freeCtr : Nat := 0
  wafer : Wafer := {}
  brim : Brim := {}
  map : MapSt := {}
  jobs : List Job := []
  host : HostSide := {}
  energy : Energy := {}
  mod : Module := {}
  deriving DecidableEq, Repr

/-- Why a step stops. Both reasons are the model's own and safe: the hardware has no such thing to act on. -/
inductive Fault where
  /-- Raised by a command whose operands name a position, slot, port, stack, field, engine or job slot that does
  not exist on the part (R10, R16, R240). Safe: no behaviour of the part is claimed. -/
  | noSuchPlace
  deriving DecidableEq, Repr

/-- Why a command has no meaning. -/
inductive Refusal where
  /-- The command has no meaning in this model yet. Safe: nothing is claimed of it. -/
  | notModelled (mnemonic : String)
  /-- A brim debug instruction of the test access port: R464 leaves its effect to the service documentation.
  Raised by TAP_INSTRUCTION in one case. Safe: nothing is claimed of it. -/
  | serviceDocumentation
  deriving DecidableEq, Repr

structure State where
  pending : List Instr
  dev : Dev
  boot : Boot
  deriving DecidableEq, Repr

/-- A part as shipped: a 42K part with the factory settings of R378, no dead tile, no condemned group, a good
flacon in bank A, an empty training slot (log 9). -/
def Boot.shipped : Boot :=
  { otp :=
      [(1, [(0, .made 1 0 (.seed Config.identitySeed))]),
       (2, [(0, .made 2 0 (.limits 0 850 42000 48000 1200))]),
       (3, [(0, .made 3 0 (.settings true true false true 1 50300))]),
       (4, [(0, .made 4 0 (.thermometer []))]),
       (5, [(0, .made 5 0 (.defects [] []))])]
    bankA := some
      { major := 1, minor := 2, key := 0, level := 0, version := 0, wellFormed := true, authentic := true
        settings := none, limits := none, digest := [] } }

/-- The part right after reset: as shipped, the 60 V input not applied, every register at its reset value
(logs 5, 8 and 9). -/
def State.reset : State :=
  { pending := [], dev := {}, boot := Boot.shipped }

end Sys2Proof.Machine
end

