-- ==== Sys2Proof/Machine/Geometry.lean ====
section
/-! DEFINITION. Where things lie: positions, groups, spares, holes, fields, port tiles, regions
(01_wafer_geography.md, R240, R244, R305-R308). -/

namespace Sys2Proof.Machine

/-- The side of a stack and of an optical port: 0 north, 1 east, 2 south, 3 west. -/
def stackSide (s : Nat) : Nat := s / 6
def portSideOf (n : Nat) : Nat := if n < 48 then n / 12 else 3

/-- The position of a key. -/
def posOf (i : Nat) : Pos := ⟨i % 512, i / 512⟩

/-- The tile kind at a position in its group: 0 Compute, 1 Function, 2 Store (R18). -/
def kindAt (p : Nat) : Nat := if p = 3 ∨ p = 11 then 2 else if p = 7 then 1 else 0

/-- The position in the group of each C-index (R20). -/
def cPos (ci : Nat) : Nat := [0, 1, 2, 4, 5, 6, 8, 9, 10, 12, 13, 14, 15].getD ci 15

/-- The C-index of a Compute position (R18). -/
def cIndex (p : Nat) : Nat :=
  if p < 3 then p else if p < 7 then p - 1 else if p < 11 then p - 2 else p - 3

/-- The key of a group: 32·py + g. -/
def grp (g py : Nat) : Nat := 32 * py + g

end Sys2Proof.Machine

namespace Sys2Proof

/-- A position of the square (R16). -/
def Pos.ok (p : Pos) : Bool := decide (p.px < 512 ∧ p.py < 480)

/-- The key of a position in the table of tiles. -/
def Pos.ix (p : Pos) : Nat := 512 * p.py + p.px

/-- The kind of a position (R18). -/
def Pos.kind (p : Pos) : Nat := Machine.kindAt (p.px % 16)

/-- The group of a position. -/
def Pos.grp (p : Pos) : Nat := Machine.grp (p.px / 16) p.py

/-- The field of a position, 8·fy + fx (R17). -/
def Pos.field (p : Pos) : Nat := 8 * (p.py / 80) + p.px / 64

end Sys2Proof

namespace Sys2Proof.Machine

/-- The dead Compute tiles of the map, each once. -/
def MapSt.deadC (m : MapSt) : List Pos := ((m.dead.map (·.1)).filter (fun p => p.kind == 0)).eraseDups

/-- The dead Compute tiles of a group. -/
def MapSt.deadIn (m : MapSt) (g : Nat) : List Pos := m.deadC.filter (fun p => p.grp == g)

/-- The hole groups: two or more dead Compute tiles (R19). -/
def MapSt.isHole (m : MapSt) (g : Nat) : Bool := decide (2 ≤ (m.deadIn g).length)

/-- The spare table as a map build makes it: the named one, with the dead C of every group that has exactly one (R19,
R379). A hole has no spare; its entry stays, since no address reads it. -/
def MapSt.rebuilt (m : MapSt) : Tab Nat :=
  m.deadC.foldl (fun (t : Tab Nat) p =>
    Tab.set t p.grp (if (m.deadIn p.grp).length = 1 then cIndex (p.px % 16) else m.spares.get 12 p.grp)) m.named

/-- The hole groups of a map. -/
def MapSt.holeGroups (m : MapSt) : List Nat := ((m.deadC.map Pos.grp).eraseDups).filter m.isHole

/-- The spare table as a generation and MAP_READ show it: 15 marks a hole (R22, R379). -/
def MapSt.shown (m : MapSt) : Tab Nat := m.holeGroups.foldl (fun (t : Tab Nat) g => Tab.set t g 15) m.rebuilt

/-- The refinement record's entry of a dead tile: one for a tile, with the flag of a failed router when any finding
set it (R380, R382). -/
def addDeadEntry (p : Pos) (bad : Bool) (l : List DefEntry) : List DefEntry :=
  if l.any (fun e => e.ty == 1 && e.pos == p) then
    l.map (fun e => if e.ty = 1 ∧ e.pos = p then { e with flag := e.flag || bad } else e)
  else l ++ [{ ty := 1, pos := p, flag := bad, detail := 0 }]

/-- An entry merged into a list: a dead tile has one, with the flag of a failed router where either sets it; any other stands
once. -/
def mergeEntry (l : List DefEntry) (e : DefEntry) : List DefEntry :=
  if e.ty = 1 then addDeadEntry e.pos e.flag l else if l.contains e then l else l ++ [e]

/-- Entries merged into others. -/
def mergeEntries (l m : List DefEntry) : List DefEntry := m.foldl mergeEntry l

/-- The live entries in the order found: those of the newest generation with those added since (R382). -/
def MapSt.live (m : MapSt) : List DefEntry := mergeEntries m.base m.added

/-- A position the map marks dead. -/
def MapSt.isDead (m : MapSt) (p : Pos) : Bool := m.dead.any (fun e => e.1 = p)

/-- A position whose router failed (R27). -/
def MapSt.routerDead (m : MapSt) (p : Pos) : Bool := m.dead.any (fun e => e.1 = p && e.2)

/-- The spare C-index of a group in the live map (R19). -/
def MapSt.spare (m : MapSt) (g : Nat) : Nat := m.spares.get 12 g

/-- The physical position of a logical Compute position under a spare index (R20). -/
def slotPos (g j sp py : Nat) : Pos := ⟨16 * g + cPos (if j < sp then j else j + 1), py⟩

/-- physical_of of R20. -/
def MapSt.physicalOf (m : MapSt) (lx ly : Nat) : Option Pos :=
  let g := grp (lx / 12) ly
  if m.isHole g then none else some (slotPos (lx / 12) (lx % 12) (m.spare g) ly)

/-- logical_of of R20. -/
def MapSt.logicalOf (m : MapSt) (p : Pos) : Option (Nat × Nat) :=
  if p.kind ≠ 0 ∨ m.isHole p.grp then none
  else
    let ci := cIndex (p.px % 16)
    let sp := m.spare p.grp
    if ci = sp then none
    else some (12 * (p.px / 16) + (if ci < sp then ci else ci - 1), p.py)

/-- A position that does no work: a spare, a dead tile, a Compute tile of a hole (R34, R242). -/
def MapSt.idlePos (m : MapSt) (p : Pos) : Bool :=
  m.isDead p || (p.kind = 0 && (m.isHole p.grp || cIndex (p.px % 16) = m.spare p.grp))

/-! ## Regions -/

/-- The kind a region column holds (R305). -/
def rcKind (rx : Nat) : Nat :=
  let k := rx % 15
  if k = 3 ∨ k = 11 then 2 else if k = 7 then 1 else 0

/-- The Compute slot of a region column (R305). -/
def rcSlot (k : Nat) : Nat := if k < 3 then k else if k < 7 then k - 1 else if k < 11 then k - 2 else k - 3

/-- The position in a group of a Store or Function region column (R305). -/
def rcPos (k : Nat) : Nat := k

/-- The wafer group that serves region group `i` of a row: the i-th footprint group that is no hole (R306). -/
def nthGroup (holes : List Nat) (py : Nat) : Nat → Nat → Nat → Option Nat
  | 0, _, _ => none
  | n + 1, g, i =>
    if holes.contains (grp g py) then nthGroup holes py n (g + 1) i
    else if i = 0 then some g else nthGroup holes py n (g + 1) (i - 1)

/-- The physical position of a region coordinate: holes at placement, live spares (R306). -/
def regionPos (holes : List Nat) (m : MapSt) (w skip h g0 py0 : Nat) (c : RC) : Option Pos :=
  if c.rx < 15 * w ∧ c.ry < h then
    match nthGroup holes (py0 + c.ry) (w + skip) g0 (c.rx / 15) with
    | none => none
    | some g =>
      let k := c.rx % 15
      if rcKind c.rx = 0 then some (slotPos g (rcSlot k) (m.spare (grp g (py0 + c.ry))) (py0 + c.ry))
      else some ⟨16 * g + rcPos k, py0 + c.ry⟩
  else none

/-- The physical position of a region coordinate of a placed job. -/
def Job.posOf (j : Job) (m : MapSt) (c : RC) : Option Pos :=
  match j.origin with
  | none => none
  | some (g0, py0) => regionPos j.holes m j.img.w j.img.skip j.img.h g0 py0 c

/-- Whether a position lies in a footprint (R306). -/
def inFootprint (img : Image) (o : Nat × Nat) (p : Pos) : Bool :=
  decide (o.1 ≤ p.px / 16 ∧ p.px / 16 < o.1 + img.w + img.skip ∧ o.2 ≤ p.py ∧ p.py < o.2 + img.h)

/-- A position of a footprint that serves no region group (R307). -/
def unserved (holes : List Nat) (img : Image) (o : Nat × Nat) (p : Pos) : Bool :=
  !(List.range img.w).any (fun i => nthGroup holes p.py (img.w + img.skip) o.1 i == some (p.px / 16))

/-- The groups of a footprint stand in the tables as the map has them: none has a dead Compute tile that is not its
spare (R19). -/
def mapFits (m : MapSt) (img : Image) (o : Nat × Nat) : Bool :=
  (m.deadC.filter (inFootprint img o)).all (fun p => m.isHole p.grp || cIndex (p.px % 16) == m.spare p.grp)

/-- A tile marked dead, with the flag of a failed router: one entry for a tile (R27, R380). -/
def addDead (p : Pos) (bad : Bool) (l : List (Pos × Bool)) : List (Pos × Bool) :=
  if l.any (fun e => e.1 == p) then l.map (fun e => if e.1 = p then (p, e.2 || bad) else e) else l ++ [(p, bad)]

/-- Whether two footprints share a group of a row (R308). -/
def footprintsMeet (a : Image) (oa : Nat × Nat) (b : Image) (ob : Nat × Nat) : Bool :=
  decide (oa.1 < ob.1 + b.w + b.skip ∧ ob.1 < oa.1 + a.w + a.skip ∧ oa.2 < ob.2 + b.h ∧ ob.2 < oa.2 + a.h)

/-! ## Port tiles (R30, R31, R240) -/

/-- The sides of the square: 0 north, 1 south, 2 east, 3 west; with the coordinate of link 0. -/
def portSide (id : Nat) : Option (Nat × Nat) :=
  if id < 96 then
    let s := id / 4
    let o := 24 + 8 * (id % 4)
    if s < 6 then some (0, 16 + 80 * s + o)
    else if s < 12 then some (2, 80 * (s - 6) + o)
    else if s < 18 then some (1, 16 + 80 * (17 - s) + o)
    else some (3, 80 * (23 - s) + o)
  else if id < 144 then
    let n := id - 96
    if n < 12 then some (0, 16 + 80 * (n / 2) + (if n % 2 = 0 then 16 else 56))
    else if n < 24 then some (2, 80 * ((n - 12) / 2) + (if n % 2 = 0 then 16 else 56))
    else if n < 36 then some (1, 16 + 80 * ((35 - n) / 2) + (if n % 2 = 1 then 16 else 56))
    else some (3, 80 * ((47 - n) / 2) + (if n % 2 = 1 then 16 else 56))
  else if id = 144 then some (3, 232)
  else if id = 145 then some (3, 240)
  else if id = 146 then some (1, 0)
  else none

/-- The edge router of link `c` of a port tile (R31). -/
def portRouter (id c : Nat) : Option Pos :=
  match portSide id with
  | some (0, b) => some ⟨b + c, 0⟩
  | some (1, b) => some ⟨b + c, 479⟩
  | some (2, b) => some ⟨511, b + c⟩
  | some (_, b) => some ⟨0, b + c⟩
  | none => none

/-- The link a position uses toward a port tile (R31). -/
def portLink (id : Nat) (p : Pos) : Nat :=
  match portSide id with
  | some (s, _) => if s < 2 then p.px % 8 else p.py % 8
  | none => 0

/-! ## Tile resources (R75, R155, R184, R217) -/

/-- Thread slots of a kind. -/
def kindSlots (k : Nat) : Nat := if k = 0 then 32 else if k = 1 then 16 else 4

/-- First offset and size of the data memory of a kind (R184). -/
def kindMem (k : Nat) : Nat × Nat :=
  if k = 0 then (0, 0x40000) else if k = 1 then (0x20000, 0x20000) else (0, 0x100000)

/-- Program words of a kind (R185). -/
def kindProg (k : Nat) : Nat := if k = 2 then 4096 else 8192

/-- Sync queues of a kind (R217). -/
def kindSqs (k : Nat) : Nat := if k = 0 then 64 else if k = 1 then 32 else 16

/-- Tasks, match-store entries, steering units and output ports of a kind (R155). -/
def kindTasks (k : Nat) : Nat := if k = 2 then 16 else 64
def kindMatch (k : Nat) : Nat := if k = 0 then 256 else if k = 1 then 128 else 32
def kindSteers (k : Nat) : Nat := if k = 2 then 0 else 16
def kindPorts (k : Nat) : Nat := if k = 2 then 8 else 32

/-- Whether a range of `n` bytes lies in the data memory of a kind (R184). -/
def inMem (k a n : Nat) : Bool := decide ((kindMem k).1 ≤ a ∧ a + n ≤ (kindMem k).1 + (kindMem k).2)

end Sys2Proof.Machine
end

