-- ==== Sys2Proof/Machine/Mem.lean ====
section
/-! DEFINITION. Byte memories: an unlisted address reads 0 (logs 6 and 7), a write keeps the canonical form. -/

namespace Sys2Proof.Machine

/-- What an unlisted address reads as. -/
def Mem.blank : Byte := 0

/-- One byte of a memory. -/
def Mem.read : Mem → Nat → Byte
  | [], _ => Mem.blank
  | (k, v) :: r, a => if k = a then v else Mem.read r a

/-- A memory with one byte written; writing the blank value removes the cell. -/
def Mem.write : Mem → Nat → Byte → Mem
  | [], a, b => if b = Mem.blank then [] else [(a, b)]
  | (k, v) :: r, a, b =>
    if a < k then (if b = Mem.blank then (k, v) :: r else (a, b) :: (k, v) :: r)
    else if a = k then (if b = Mem.blank then r else (a, b) :: r)
    else (k, v) :: Mem.write r a b

/-- A run of bytes. -/
def Mem.readN (m : Mem) (a n : Nat) : List Byte := (List.range n).map (fun i => m.read (a + i))

/-- A run of bytes written from an address upward. -/
def Mem.writeN : Mem → Nat → List Byte → Mem
  | m, _, [] => m
  | m, a, b :: bs => Mem.writeN (m.write a b) (a + 1) bs

/-- A little-endian number of `n` bytes. -/
def Mem.readLe (m : Mem) (a n : Nat) : Nat := ofLe (m.readN a n)

/-- A little-endian number of `n` bytes written. -/
def Mem.writeLe (m : Mem) (a n v : Nat) : Mem := m.writeN a (le n v)

/-- A memory with every byte of a range made blank. -/
def Mem.clear (m : Mem) (a n : Nat) : Mem := m.filter (fun c => decide (c.1 < a ∨ a + n ≤ c.1))

/-- The bytes of a range alone. -/
def Mem.window (m : Mem) (a n : Nat) : Mem := m.filter (fun c => decide (a ≤ c.1 ∧ c.1 < a + n))

/-- The canonical form: addresses strictly rise and no cell holds the blank value. -/
def Mem.wf : Mem → Bool
  | [] => true
  | [(_, v)] => v != Mem.blank
  | (k, v) :: (k', v') :: r => v != Mem.blank && decide (k < k') && Mem.wf ((k', v') :: r)

end Sys2Proof.Machine
end

