-- ==== Sys2Proof/Machine/Num.lean ====
section
/-! DEFINITION. Number formats, exact values, rounding, conversion, the random-bit generator and long sums
(03_number_formats.md, 05_reference_order.md). -/

namespace Sys2Proof.Machine

/-! ## Exact values -/

/-- A rational number, the denominator positive. -/
structure Q where
  n : Int
  d : Nat
  deriving DecidableEq, Repr

/-- The value of an element: NaN, an infinity, a signed zero, or a non-zero exact number. -/
inductive Val where
  | nan
  | inf (neg : Bool)
  | zero (neg : Bool)
  | num (q : Q)
  deriving DecidableEq, Repr

/-- An integer power of two as a rational. -/
def Q.pow2 (e : Int) : Q := if e ≥ 0 then ⟨2 ^ e.toNat, 1⟩ else ⟨1, 2 ^ (-e).toNat⟩

def Q.mul (a b : Q) : Q := ⟨a.n * b.n, a.d * b.d⟩

def Q.add (a b : Q) : Q :=
  let l := Nat.lcm a.d b.d
  ⟨a.n * (l / a.d : Nat) + b.n * (l / b.d : Nat), l⟩

def Q.neg (a : Q) : Q := ⟨-a.n, a.d⟩

def Q.le (a b : Q) : Bool := decide (a.n * b.d ≤ b.n * a.d)

def Q.lt (a b : Q) : Bool := decide (a.n * b.d < b.n * a.d)

def Q.abs (a : Q) : Q := ⟨a.n.natAbs, a.d⟩

/-- The quotient, for a non-zero divisor. -/
def Q.div (a b : Q) : Q := ⟨a.n * b.n.sign * b.d, a.d * b.n.natAbs⟩

/-- The floor of a rational. -/
def Q.floor (a : Q) : Int := Int.fdiv a.n a.d

/-- The value of an exact result; an exact zero is +0 (R58). -/
def Val.ofQ (q : Q) : Val := if q.n = 0 then .zero false else .num q

/-- The sign bit of a value; NaN counts as clear. -/
def Val.neg : Val → Bool
  | .nan => false
  | .inf s => s
  | .zero s => s
  | .num q => decide (q.n < 0)

def Val.isNan : Val → Bool
  | .nan => true
  | _ => false

def Val.isZero : Val → Bool
  | .zero _ => true
  | _ => false

/-- The value with its sign turned. -/
def Val.negate : Val → Val
  | .nan => .nan
  | .inf s => .inf !s
  | .zero s => .zero !s
  | .num q => .num q.neg

/-- The exact sum (R58): two zeros of one sign keep it, every other zero sum is +0. -/
def Val.add : Val → Val → Val
  | .nan, _ => .nan
  | _, .nan => .nan
  | .inf a, .inf b => if a = b then .inf a else .nan
  | .inf a, _ => .inf a
  | _, .inf b => .inf b
  | .zero a, .zero b => .zero (a && b)
  | .zero _, .num q => .num q
  | .num q, .zero _ => .num q
  | .num p, .num q => Val.ofQ (p.add q)

/-- The exact product (R58, R63). -/
def Val.mul : Val → Val → Val
  | .nan, _ => .nan
  | _, .nan => .nan
  | .inf _, .zero _ => .nan
  | .zero _, .inf _ => .nan
  | .inf a, b => .inf (a != b.neg)
  | a, .inf b => .inf (a.neg != b)
  | .zero a, b => .zero (a != b.neg)
  | a, .zero b => .zero (a.neg != b)
  | .num p, .num q => .num (p.mul q)

/-- The value times a power of two. -/
def Val.scale (v : Val) (e : Int) : Val :=
  match v with
  | .num q => .num (q.mul (Q.pow2 e))
  | v => v

/-- Order of two values that are not NaN: −inf, numbers, +inf; the zeros are equal. -/
def Val.lt (a b : Val) : Bool :=
  let q : Val → Q := fun v => match v with
    | .num q => q
    | _ => ⟨0, 1⟩
  match a, b with
  | .nan, _ => false
  | _, .nan => false
  | .inf x, .inf y => x && !y
  | .inf x, _ => x
  | _, .inf y => !y
  | a, b => (q a).lt (q b)

/-! ## Formats (R52, R55, R56, R59) -/

/-- The format codes of R52. -/
def fF8a : Nat := 0
def fF8b : Nat := 1
def fBF16 : Nat := 2
def fFP16 : Nat := 3
def fFP32 : Nat := 4
def fINT8 : Nat := 5
def fINT32 : Nat := 6

/-- A code that names a format (R52); the others are reserved. -/
def fmtOk (f : Nat) : Bool := decide (f ≤ 6)

/-- The bytes of an element. -/
def fmtSize (f : Nat) : Nat :=
  if f = 0 ∨ f = 1 ∨ f = 5 then 1 else if f = 2 ∨ f = 3 then 2 else 4

/-- Mantissa bits, smallest normal exponent and bias of a floating format. -/
def fmtShape (f : Nat) : Nat × Int × Nat :=
  if f = 0 then (3, -6, 7)
  else if f = 1 then (2, -14, 15)
  else if f = 2 then (7, -126, 127)
  else if f = 3 then (10, -14, 15)
  else (23, -126, 127)

/-- A floating format. -/
def fmtFloat (f : Nat) : Bool := decide (f ≤ 4)

/-- A sign and magnitude as a value; zero keeps the sign. -/
def signed (neg : Bool) (q : Q) : Val :=
  if q.n = 0 then .zero neg else .num (if neg then q.neg else q)

/-- The value of an F8a or F8b code (R55). -/
def decodeF8 (f c : Nat) : Val :=
  let (m, emin, bias) := fmtShape f
  if c = 0x80 then .nan
  else
    let s := bit c 7
    let e := bits c m (7 - m)
    let f := bits c 0 m
    if c % 128 = 0 then .zero false
    else if e = 0 then signed s (Q.mul ⟨f, 1⟩ (Q.pow2 (emin - m)))
    else signed s (Q.mul ⟨2 ^ m + f, 1⟩ (Q.pow2 ((e : Int) - bias - m)))

/-- The value of a BF16, FP16 or FP32 code (R56, R57). -/
def decodeIeee (f c : Nat) : Val :=
  let (m, emin, bias) := fmtShape f
  let eb := fmtSize f * 8 - 1 - m
  let s := bit c (m + eb)
  let e := bits c m eb
  let g := bits c 0 m
  if e = 2 ^ eb - 1 then (if g = 0 then .inf s else .nan)
  else if e = 0 then signed s (Q.mul ⟨g, 1⟩ (Q.pow2 (emin - m)))
  else signed s (Q.mul ⟨2 ^ m + g, 1⟩ (Q.pow2 ((e : Int) - bias - m)))

/-- A two's complement code of `n` bits. -/
def twos (n c : Nat) : Int := if bit c (n - 1) then (c : Int) - 2 ^ n else c

/-- The value of an element code in a format. -/
def decodeFmt (f c : Nat) : Val :=
  if f ≤ 1 then decodeF8 f c
  else if f ≤ 4 then decodeIeee f c
  else if f = 5 then Val.ofQ ⟨twos 8 c, 1⟩
  else Val.ofQ ⟨twos 32 c, 1⟩

/-! ## Rounding (R65, R66) -/

/-- Rounding modes: 0 RNE, 1 RTZ, 2 SR; 3 is reserved (R65). -/
def rndOk (m : Nat) : Bool := decide (m ≤ 2)

/-- floor(log2 (n/d)) for positive n and d. -/
def ilog2 (n d : Nat) : Int :=
  let l : Int := (Nat.log2 n : Int) - Nat.log2 d
  let ge := if l ≥ 0 then decide (d * 2 ^ l.toNat ≤ n) else decide (d ≤ n * 2 ^ (-l).toNat)
  if ge then l else l - 1

/-- The rounding of R66 on the grid with step 2^s: the multiple of the step, from a positive magnitude n/d. -/
def roundStep (mode r12 : Nat) (s : Int) (n d : Nat) : Nat :=
  let nn := if s ≥ 0 then n else n * 2 ^ (-s).toNat
  let dd := if s ≥ 0 then d * 2 ^ s.toNat else d
  let k := nn / dd
  let r := nn % dd
  if r = 0 then k
  else if mode = 0 then
    (if 2 * r > dd then k + 1 else if 2 * r < dd then k else if k % 2 = 0 then k else k + 1)
  else if mode = 1 then k
  else if r12 + r * 4096 / dd ≥ 4096 then k + 1 else k

/-- A rounded magnitude on the grid of a floating format (mantissa bits, smallest exponent), with no upper limit:
the multiple and the exponent of the step. -/
def roundFloat (m : Nat) (emin : Int) (mode r12 n d : Nat) : Nat × Int :=
  let e := max (ilog2 n d) emin
  let s := e - m
  let k := roundStep mode r12 s n d
  if k = 2 ^ (m + 1) then (2 ^ m, s + 1) else (k, s)

/-- The code of a rounded magnitude k·2^s in a floating format without regard to overflow. -/
def packFloat (m bias : Nat) (k : Nat) (s : Int) : Nat :=
  if k < 2 ^ m then k else (s + m + bias).toNat * 2 ^ m + (k - 2 ^ m)

/-- The canonical NaN of a format (R55, R56); 0 for an integer destination (R68). -/
def nanCode (f : Nat) : Nat :=
  if f ≤ 1 then 0x80 else if f = 2 then 0x7FC0 else if f = 3 then 0x7E00 else if f = 4 then 0x7FC00000 else 0

/-- The code of +inf (R56). -/
def infCode (f : Nat) : Nat := if f = 2 then 0x7F80 else if f = 3 then 0x7C00 else 0x7F800000

/-- The code of the largest finite magnitude (R55, R56). -/
def maxCode (f : Nat) : Nat :=
  if f ≤ 1 then 0x7F else if f = 2 then 0x7F7F else if f = 3 then 0x7BFF else 0x7F7FFFFF

/-- The sign bit of a format. -/
def signCode (f : Nat) : Nat := 2 ^ (fmtSize f * 8 - 1)

/-- A magnitude code with a sign. -/
def withSign (f : Nat) (neg : Bool) (c : Nat) : Nat := if neg then c + signCode f else c

/-- A signed integer as a two's complement code of a format. -/
def intCode (f : Nat) (i : Int) : Nat := (i % (2 ^ (fmtSize f * 8) : Nat)).toNat

/-- The limits of an integer format. -/
def intMax (f : Nat) : Int := if f = 5 then 127 else 2147483647
def intMin (f : Nat) : Int := if f = 5 then -128 else -2147483648

/-- The conversion of a value into a format (R67, R68), with whether it overflowed (R107: a finite value whose
rounded magnitude lies beyond the destination's range). -/
def convert (f mode r12 : Nat) (v : Val) : Nat × Bool :=
  match v with
  | .nan => (nanCode f, false)
  | .inf s =>
    if f ≤ 1 then (0x80, false)
    else if f ≤ 4 then (withSign f s (infCode f), false)
    else (intCode f (if s then intMin f else intMax f), false)
  | .zero s => if 2 ≤ f ∧ f ≤ 4 then (withSign f s 0, false) else (0, false)
  | .num q =>
    let neg := decide (q.n < 0)
    if f ≤ 4 then
      let (m, emin, bias) := fmtShape f
      let (k, s) := roundFloat m emin mode r12 q.n.natAbs q.d
      let c := packFloat m bias k s
      if f ≤ 1 then
        if c > maxCode f then (withSign f neg (maxCode f), true)
        else if c = 0 then (0, false)
        else (withSign f neg c, false)
      else if c > maxCode f then
        (withSign f neg (if mode = 1 then maxCode f else infCode f), true)
      else (withSign f neg c, false)
    else
      let k : Int := roundStep mode r12 0 q.n.natAbs q.d
      let i := if neg then -k else k
      if i > intMax f then (intCode f (intMax f), true)
      else if i < intMin f then (intCode f (intMin f), true)
      else (intCode f i, false)

/-- The mode in force for a rounding by a Compute tile or a reduction node (R125): in the narrow regime every
rounding into BF16 or FP16 is stochastic. -/
def regimeMode (narrow : Bool) (f mode : Nat) : Nat := if narrow ∧ (f = 2 ∨ f = 3) then 2 else mode

/-- The conversion between two formats along the paths of R69, with whether it overflowed. `narrow` is the
narrow regime of a Compute tile. -/
def cvtElem (narrow : Bool) (src dst mode r12 c : Nat) : Nat × Bool :=
  if src = dst then (c, false)
  else
    let mode := if src = 6 ∧ 2 ≤ dst ∧ dst ≤ 4 then 0 else mode
    convert dst (regimeMode narrow dst mode) r12 (decodeFmt src c)

/-- The value of an element with its block scale byte applied (R60, R63). -/
def scaledVal (f : Nat) (sc : Option Nat) (c : Nat) : Val :=
  match sc with
  | none => decodeFmt f c
  | some e => if e = 0xFF then .nan else (decodeFmt f c).scale ((e : Int) - 127)

/-- An FP32 operation's result: the exact value rounded once. -/
def toF32 (mode : Nat) (v : Val) : Word := BitVec.ofNat 32 (convert fFP32 mode 0 v).1

/-- The value of an FP32 word. -/
def ofF32 (w : Word) : Val := decodeFmt fFP32 w.toNat

/-- FP32 addition and multiplication in RNE. -/
def addF32 (a b : Word) : Word := toF32 0 ((ofF32 a).add (ofF32 b))
def mulF32 (a b : Word) : Word := toF32 0 ((ofF32 a).mul (ofF32 b))

/-- A sum of INT32 values clamped to the limits (R95), and whether it was clamped. -/
def satAdd (a b : Int) : Int × Bool :=
  let s := a + b
  if s > 2147483647 then (2147483647, true)
  else if s < -2147483648 then (-2147483648, true) else (s, false)

/-! ## The random-bit generator (R70-R72) -/

/-- One round of Philox4x32. -/
def philoxRound (c : Nat × Nat × Nat × Nat) (k0 k1 : Nat) : Nat × Nat × Nat × Nat :=
  let p0 := 0xD2511F53 * c.1
  let p1 := 0xCD9E8D57 * c.2.2.1
  (p1 / 2 ^ 32 ^^^ c.2.1 ^^^ k0, p1 % 2 ^ 32, p0 / 2 ^ 32 ^^^ c.2.2.2 ^^^ k1, p0 % 2 ^ 32)

/-- The rounds that are left, with the key raised before each but the first. -/
def philoxGo : Nat → Nat × Nat × Nat × Nat → Nat → Nat → Nat × Nat × Nat × Nat
  | 0, c, _, _ => c
  | n + 1, c, k0, k1 =>
    philoxGo n (philoxRound c k0 k1) ((k0 + 0x9E3779B9) % 2 ^ 32) ((k1 + 0xBB67AE85) % 2 ^ 32)

/-- Philox4x32-10 (R72). -/
def philox (c0 c1 c2 c3 k0 k1 : Nat) : Nat × Nat × Nat × Nat := philoxGo 10 (c0, c1, c2, c3) k0 k1

/-- Where a rounding of a tile draws its bits (R70): seed, stream, device rank, region position, step. -/
structure Draw where
  seed : Nat
  stream : Nat
  rank : Nat
  rc : RC
  step : Nat
  deriving DecidableEq, Repr

/-- The first output word for an element, a lane and a domain (R70, R72). -/
def drawWord (w : Draw) (domain element lane : Nat) : Nat :=
  (philox (element % 2 ^ 24 + w.stream * 2 ^ 24) (lane + w.rank * 2 ^ 10 + domain * 2 ^ 27)
    (w.rc.rx + w.rc.ry * 2 ^ 9) w.step (w.seed % 2 ^ 32) (w.seed / 2 ^ 32)).1

/-- The 12 bits of one stochastic rounding in a tile (domain 0). -/
def srBits (w : Draw) (element lane : Nat) : Nat := drawWord w 0 element lane % 4096

/-- The 12 bits of a long sum at a reduction node (R123). -/
def redBits (seed tag level j element step : Nat) : Nat :=
  (philox (element % 2 ^ 24 + tag % 256 * 2 ^ 24)
    (level + tag / 256 % 256 * 2 ^ 6 + j / 2 ^ 22 * 2 ^ 14 + 2 ^ 27)
    (j % 2 ^ 22) step (seed % 2 ^ 32) (seed / 2 ^ 32)).1 % 4096

/-! ## Lane blocks, long sums, reductions -/

/-- The FP32 value of a lane block from its exact products (R115). -/
def laneBlock (ps : List Val) : Word :=
  if ps.any Val.isNan then 0x7FC00000
  else
    let pos := ps.any (fun v => v == .inf false)
    let neg := ps.any (fun v => v == .inf true)
    if pos && neg then 0x7FC00000
    else if pos then 0x7F800000
    else if neg then 0xFF800000
    else
      let s := ps.foldl (fun a v => match v with
        | .num q => a.add q
        | _ => a) (⟨0, 1⟩ : Q)
      if s.n = 0 then 0 else toF32 0 (.num s)

/-- The exact integer sum of a lane block of an INT32 accord (R115). -/
def laneBlockInt (ps : List Val) : Int :=
  ps.foldl (fun a v => match v with
    | .num q => a + q.n
    | _ => a) 0

/-- A long sum into a format (R118): exact sum, rounded once; an INT32 sum saturates. -/
def longSum (f mode r12 : Nat) (a : Val) (b : Val) : Nat :=
  if f = 6 then
    let i : Val → Int := fun v => match v with
      | .num q => q.n
      | _ => 0
    intCode 6 (satAdd (i a) (i b)).1
  else (convert f mode r12 (a.add b)).1

/-- The formats a long sum may write (R118, R199). -/
def longFmt (f : Nat) : Bool := decide (f = 2 ∨ f = 3 ∨ f = 4 ∨ f = 6)

/-- A reduction node's exact maximum or minimum of two codes (R121). -/
def redMinMax (isMax : Bool) (f a b : Nat) : Nat :=
  let va := decodeFmt f a
  let vb := decodeFmt f b
  if va.isNan ∨ vb.isNan then nanCode f
  else if va.isZero ∧ vb.isZero then
    (if f = 6 then 0 else if isMax then (if va.neg ∧ vb.neg then a else 0)
      else if va.neg ∨ vb.neg then signCode f else 0)
  else if va.lt vb then (if isMax then b else a) else (if isMax then a else b)

/-- A reduction node's result for one element (R120-R123). -/
def redNode (seed : Nat) (narrow : Bool) (op : Nat) (long : Bool) (f tag level j element step a b : Nat) : Nat :=
  if op = 0 then
    longSum f (regimeMode narrow f (if long then 2 else 0)) (redBits seed tag level j element step)
      (decodeFmt f a) (decodeFmt f b)
  else redMinMax (op == 1) f a b

/-- A run of bytes as element codes of a format. -/
def elems (f : Nat) (bs : List Byte) : List Nat :=
  (List.range (bs.length / fmtSize f)).map (fun i => fieldLe bs (i * fmtSize f) (fmtSize f))

/-- Element codes as a run of bytes. -/
def unelems (f : Nat) (cs : List Nat) : List Byte := (cs.map (le (fmtSize f))).flatten

end Sys2Proof.Machine
end

