-- ==== Sys2Proof/Machine/Ops.lean ====
section
/-! DEFINITION. The named operations the commands share: tiles, slots and jobs, the event log and responses, the
stop of a job, tile memory, sync queues, counters and held signals, packets, channels and their credits. -/

namespace Sys2Proof.Machine

/-! ## Lifting -/

/-- The outcome of a command: the next state, a fault or a refusal. -/
abbrev Out_ := Host.Outcome State Fault Refusal

/-- A command that acts on the device alone: fuses, flash and the queue stay as they are. -/
def lift (f : Dev → Dev) (s : State) : Out_ := .next { s with dev := f s.dev }

/-- A command on the device whose operands must name something that exists. -/
def liftAt (ok : Bool) (f : Dev → Dev) (s : State) : Out_ :=
  if ok then lift f s else .fault .noSuchPlace

/-- A command on the device and on fuses and flash. -/
def liftBoot (f : Boot → Dev → Boot × Dev) (s : State) : Out_ :=
  .next { s with boot := (f s.boot s.dev).1, dev := (f s.boot s.dev).2 }

/-- Run one change after another over a list. -/
def Dev.each {α : Type} (l : List α) (f : α → Dev → Dev) (d : Dev) : Dev := l.foldl (fun d a => f a d) d

/-! ## Tiles, slots, jobs -/

def Dev.tile (d : Dev) (p : Pos) : Tile := d.wafer.tiles.get {} p.ix

def Dev.setTile (d : Dev) (p : Pos) (t : Tile) : Dev :=
  { d with wafer := { d.wafer with tiles := d.wafer.tiles.set p.ix t } }

def Dev.onTile (p : Pos) (f : Tile → Tile) (d : Dev) : Dev := d.setTile p (f (d.tile p))

def Tile.slot (t : Tile) (n : Nat) : Slot := t.slots.get {} n

def Tile.setSlot (t : Tile) (n : Nat) (s : Slot) : Tile := { t with slots := t.slots.set n s }

def Tile.onSlot (n : Nat) (f : Slot → Slot) (t : Tile) : Tile := t.setSlot n (f (t.slot n))

/-- A general register; g0 reads 0 (R75, R188). -/
def Slot.g (s : Slot) (r : Reg) : Word := if r.val = 0 then 0 else s.regs.get 0 r.val

/-- A general register written; a write to g0 is discarded (R188). -/
def Slot.setG (s : Slot) (r : Reg) (v : Word) : Slot :=
  if r.val = 0 then s else { s with regs := s.regs.set r.val v }

/-- The job in a job slot. -/
def Dev.job? (d : Dev) (k : Nat) : Option Job := d.jobs.find? (fun j => j.slot == k)

/-- A job changed. -/
def Dev.onJob (k : Nat) (f : Job → Job) (d : Dev) : Dev :=
  { d with jobs := d.jobs.map (fun j => if j.slot = k then f j else j) }

/-- The job a tile belongs to. -/
def Dev.jobAt (d : Dev) (p : Pos) : Option Job :=
  match (d.tile p).net.jslot with
  | some k => d.job? k
  | none => none

/-- The image of the job a tile belongs to names its TILES record (R300). -/
def Job.rec? (j : Job) (c : RC) : Option TileRec := j.img.tiles.find? (fun r => r.rc == c)

/-- The tiles of a job: those with a TILES record and the hosts of channels, queues and copies (R204, R308). -/
def Image.members (i : Image) : List RC :=
  (i.tiles.map (·.rc) ++ (i.chans.filter (fun c => c.depth > 64)).map (·.host) ++ i.dmaqs.map (·.host)
    ++ i.rets.map (·.host)).eraseDups

/-- A region coordinate that is a tile of the job (R204). -/
def Image.isMember (i : Image) (c : RC) : Bool := i.members.contains c

/-- The entry that holds a tile's boundary slots (R333). -/
def boundEntry (i : Image) (c : RC) : Option RetRec := i.rets.find? (fun r => r.rc == c && r.bndLen != 0)

/-- The record of a tile for a step. -/
def Job.snap? (j : Job) (c : RC) (s : Nat) : Option Snap := j.bounds.find? (fun b => b.rc == c && b.step == s)

/-- The positions of a placed job's tiles. -/
def Job.places (j : Job) (m : MapSt) : List Pos := j.img.members.filterMap (j.posOf m)

/-- Order of region coordinates: increasing ry, then rx (R237). -/
def rcLe (a b : RC) : Bool := decide (a.ry < b.ry ∨ (a.ry = b.ry ∧ a.rx ≤ b.rx))

/-- The free value of the moment and the counter moved on (log 10). -/
def Dev.free (d : Dev) : Word × Dev := (Config.freeWord d.freeCtr, { d with freeCtr := d.freeCtr + 1 })

/-- The tiles of a field are suspended: they complete no beats and no work, while their routers forward (R364). -/
def Dev.suspended (d : Dev) (p : Pos) : Bool := (d.energy.fields.get {} p.field).suspendedNow

/-- A tile that may fire and issue: its job runs, is not stopped and not in a phase that stops its tiles, the tile
writes no boundary record (R334) and its field is powered and not suspended (R364). -/
def Dev.live (d : Dev) (p : Pos) : Bool :=
  match d.jobAt p with
  | some j =>
    j.st == .running && j.stop == .none && (j.phase == .idle || j.phase == .pauseBoundary)
      && !(d.tile p).check.recording && !d.map.isDead p && (d.energy.fields.get {} p.field).powered
      && !d.suspended p
  | none => false

/-! ## Management time, event log, ring, responses -/

/-- Management time never repeats a value: each stamp is the next microsecond (R49, log 4). -/
def Dev.stamp (d : Dev) : Dev := { d with mod := { d.mod with mgmtTime := (d.mod.mgmtTime + 1) % 2 ^ 64 } }

def Dev.now (d : Dev) : Nat := d.mod.mgmtTime

/-- Something sent out of the block. -/
def Dev.emit (e : Emit) (d : Dev) : Dev := { d with brim := { d.brim with emitted := d.brim.emitted ++ [e] } }

/-- An event-log record as 32 bytes (R422). -/
def LogRec.toBytes (r : LogRec) : List Byte :=
  le 4 r.seq ++ le 2 r.code ++ le 1 r.origin ++ le 1 (flagAt r.stopped 0) ++ le 8 r.tMgmt ++ le 4 r.job
    ++ le 4 r.loc ++ le 4 r.detail ++ le 4 r.count

/-- The record put into the event ring, or counted lost (R423). -/
def ringPut (r : LogRec) (d : Dev) : Dev :=
  let h := d.host
  if !h.evrEnable then d
  else
    let n := 2 ^ (6 + h.evrSize)
    if (h.evrProd + 1) % n = h.evrCons then
      { d with host := { h with evrOvf := true, evrLost := (h.evrLost + 1) % 2 ^ 32 } }
    else
      { d with host := { h with evrProd := (h.evrProd + 1) % n } }.emit
        (.hostw h.evrPort (h.evrBase.toNat + 32 * h.evrProd) r.toBytes)

/-- A frame of the device as bytes (R405). -/
def frameBytes (major minor opcode seq session flags status refusal job tMgmt logSeq : Nat) (payload : List Byte) :
    List Byte :=
  let h (crc : Nat) : List Byte :=
    [0x4C, 0x4E, 0x4D, 0x42] ++ le 1 major ++ le 1 minor ++ le 2 opcode ++ le 4 seq ++ le 4 session
      ++ le 2 flags ++ le 1 status ++ le 1 0 ++ le 2 refusal ++ le 2 0 ++ le 4 payload.length ++ le 4 job
      ++ le 8 tMgmt ++ le 4 logSeq ++ List.replicate 16 0 ++ le 4 crc
  h (crc32c (h 0 ++ payload)) ++ payload

/-- The unsolicited frame that carries a record to a session: flag 2 alone, opcode READ_EVENTS; the header fields that R405
defines for an answer to a request have no stated value here and are free (R424, log 188). -/
def pushFrame (r : LogRec) (s : Session) : List Byte :=
  let v := Config.pushField r.seq
  frameBytes s.major s.minor 0x51 (v 0) s.id 4 (v 1) (v 2) (v 3) (v 4) (v 5) r.toBytes

/-- The record pushed to every session that asked for events (R424). -/
def pushOut (r : LogRec) (d : Dev) : Dev :=
  d.each (d.host.sessions.filter (·.push)) (fun s d => d.emit (.push s.id (pushFrame r s)))

/-- A record appended to the event log of 4,096 records, to the ring and to the pushing sessions (R422-R424). -/
def appendLog (code origin : Nat) (stopped : Bool) (job loc detail count : Nat) (d : Dev) : Dev :=
  let d := d.stamp
  let r : LogRec := { seq := d.host.nextSeq, code := code, origin := origin, stopped := stopped, tMgmt := d.now,
                      job := job, loc := loc, detail := detail, count := count }
  pushOut r (ringPut r
    { d with host := { d.host with log := keepLast 4096 (d.host.log ++ [r])
                                   nextSeq := (d.host.nextSeq + 1) % 2 ^ 32 } })

/-- The `where` word of a tile: rx [8:0], ry [17:9] (R422). -/
def rcWord (c : RC) : Nat := c.rx % 512 + 512 * (c.ry % 512)

/-- The `where` word of a field: fx [2:0], fy [5:3] (R422). -/
def fieldWord (f : Nat) : Nat := f % 8 + 8 * (f / 8)

/-- The transport codes of R422. -/
def trCode : Transport → Nat
  | .tether => 0
  | .mgmtPort => 1
  | .uart => 2

/-- Response statuses (R409). -/
def stOK : Nat := 0
def stBusy : Nat := 1
def stBadVersion : Nat := 2
def stBadArg : Nat := 3
def stRefused : Nat := 4
def stNotPermitted : Nat := 5
def stBadSignature : Nat := 6
def stOtp : Nat := 7

def Dev.session? (d : Dev) (tr : Transport) (id : Nat) : Option Session :=
  d.host.sessions.find? (fun s => s.tr == tr && s.id == id)

/-- A session changed. -/
def Dev.onSession (tr : Transport) (id : Nat) (f : Session → Session) (d : Dev) : Dev :=
  { d with host := { d.host with sessions := d.host.sessions.map (fun s =>
      if s.tr = tr ∧ s.id = id then f s else s) } }

/-- A response: stamped, sent, kept on a datagram transport (R411), written into the response area of a mailbox,
whose doorbell shows done (R404). A session of major 2 sees t_mgmt and log_seq as 0 (R408). -/
def respond (r : Req) (opcode flags status refusal logSeq : Nat) (payload : List Byte) (d : Dev) : Dev :=
  let d := d.stamp
  let (mj, mi) := match d.session? r.tr r.session with
    | some s => (s.major, s.minor)
    | none => (r.major, 1)
  let t := if mj = 2 then 0 else d.now
  let l := if mj = 2 then 0 else logSeq
  let e : Emit := .response r.tr r.box r.session r.seq opcode flags status refusal t l payload
  let d := d.emit e
  match r.tr with
  | .tether =>
    { d with host := { d.host with
        doorbells := d.host.doorbells.set r.box 2
        areas := d.host.areas.writeN (0x11000 + 0x2000 * r.box)
          (frameBytes mj mi opcode r.seq r.session (flags + 1) status refusal r.job t l payload) } }
  | _ =>
    d.onSession r.tr r.session (fun s =>
      { s with kept := keepLast 64 (s.kept ++ [(r.seq, e)]), running := s.running.filter (· != r.seq) })

/-- The command record of R422, for a command that the Logged column marks, except with BUSY and BAD_VERSION. -/
def cmdRecord (origin opcode status refusal job : Nat) (d : Dev) : Dev :=
  if status = stBusy ∨ status = stBadVersion then d
  else appendLog 0 2 false job (opcode + 2 ^ 16 * status + 2 ^ 24 * origin) refusal 1 d

/-- A logged command completes: its record, then its response with the record's seq (R405, R422). -/
def finishCmd (r : Req) (opcode status refusal : Nat) (payload : List Byte) (d : Dev) : Dev :=
  let seq := if status = stBusy ∨ status = stBadVersion then 0xFFFFFFFF else d.host.nextSeq
  respond r opcode 0 status refusal seq payload (cmdRecord (trCode r.tr) opcode status refusal r.job d)

/-- A command that is not logged completes. -/
def answerCmd (r : Req) (opcode status : Nat) (payload : List Byte) (d : Dev) : Dev :=
  respond r opcode 0 status 0 0xFFFFFFFF payload d

/-- A SET_RANK_TABLE whose job has changed epoch completes (R267, R420). -/
def answerChange (slot : Nat) (d : Dev) : Dev :=
  match d.map.change with
  | none => d
  | some c =>
    match c.req with
    | some r =>
      if c.ranks.any (fun x => x.1 == slot) then
        finishCmd r 0x62 stOK 0 (le 1 (flagAt d.map.epoch 0))
          { d with map := { d.map with change := some { c with req := none } } }
      else d
    | none => d

/-- The egress port tile of a region row (R441). -/
def egressOf (j : Job) (ry : Nat) : Nat :=
  match j.ranks with
  | some t => 96 + t.rows.getD ry t.egressDefault
  | none => 0

/-- The device rank of a job's tiles (R70, R440). -/
def ownRank (j : Job) : Nat := match j.ranks with
  | some t => t.own
  | none => 0

/-- A tile takes over what the rank table in force says of it (R440, R441). -/
def Tile.reRank (j : Job) (t : Tile) : Tile :=
  { t with rank := ownRank j, net := { t.net with egress := egressOf j t.rc.ry } }

/-! ## The stop of a job, faults and events -/

/-- The gates as they stand, by local line: true when open (R228). -/
def Job.gateList (j : Job) : List Bool :=
  (List.range j.img.nLines).map (fun k => if k = 0 then j.gate0
    else j.gates && j.img.tiles.any (fun r => bit r.enrol k))

/-- Order 1 of R235: the job is halted, its gates close, the trigger is kept; a pause in progress and what it named are
forgotten (R316). -/
def Job.stopped (j : Job) (code : Nat) (c : RC) (step t : Nat) (isFault : Bool) : Job :=
  { j with st := .halted, phase := .idle, stop := .accepting, trigger := code, trigTile := c, trigStep := step,
           tTrigger := t, preGates := j.gateList, gate0 := false, gates := false, late := 0, hostDump := false, afterHalt := false,
           lastFault := if isFault then code else j.lastFault, faultTile := if isFault then c else j.faultTile,
           tChange := t, req := none, succ := [], outcomes := [], pauseAfter := false
           energy := { j.energy with ledgerWait := false } }

/-- A job whose tiles still work on its behalf: it runs and is not stopped. A pause that has passed order 3 and a
recovery take no further fault of their tiles. -/
def Job.running (j : Job) : Bool :=
  j.st == .running && j.stop == .none
    && (j.phase == .idle || j.phase == .pauseBoundary || j.phase == .pauseQuiesce || j.phase == .starting)

/-- A job that a PAUSE_JOB still works on: in the pause itself, or in a recovery that the pause goes on after (R316). -/
def Job.pausing (j : Job) : Bool :=
  j.pauseAfter || j.phase == .pauseBoundary || j.phase == .pauseQuiesce || j.phase == .pauseScanOut

/-- A job whose tiles can still raise a fault: it runs, or it finishes its beats in the quiesce of a rollback. -/
def Job.faults (j : Job) : Bool := j.running || (j.st == .running && j.stop == .none && j.phase == .rbQuiesce)

/-- The stop of a job by a trigger (R191, R234, R235). A pause in progress is abandoned with
NOT_PERMITTED_IN_STATE (R316). -/
def stopJob (k code : Nat) (c : RC) (step : Nat) (isFault : Bool) (d : Dev) : Dev :=
  match d.job? k with
  | none => d
  | some j =>
    let d' := d.onJob k (fun j => j.stopped code c step d.now isFault)
    match j.req with
    | some r => if j.pausing then finishCmd r 0x42 stNotPermitted 0 [] d' else d'
    | none => d'

/-- What FAULT_INFO, FAULT_PC and FAULT_INSN take from a fault: slot, pc, tag, instruction word. -/
structure FaultAt where
  slot : Nat := 0
  pc : Nat := 0
  tag : Nat := 0
  insn : Word := 0
  deriving DecidableEq, Repr

/-- The fault registers of a tile; the first fault of the tile stays (FAULT_INFO). -/
def Tile.recordFault (t : Tile) (code : Nat) (a : FaultAt) : Tile :=
  if t.faultInfo.getLsbD 31 then t
  else
    { t with faultInfo := BitVec.ofNat 32 (code + 2 ^ 16 * a.slot + 2 ^ 31)
             faultPc := BitVec.ofNat 32 (a.pc + 2 ^ 16 * a.tag)
             faultInsn := a.insn }

/-- A fault of a tile (R191): recorded in the tile, logged, and the job stops. A fault of a job that is already
stopped is logged with flags [0] clear and recorded nowhere else (R234). -/
def faultTile (p : Pos) (code detail : Nat) (a : FaultAt) (d : Dev) : Dev :=
  let t := d.tile p
  match d.jobAt p with
  | none => d
  | some j =>
    if j.faults then
      stopJob j.slot code t.rc t.step true
        (appendLog code 1 true j.id (rcWord t.rc) detail 1 (d.onTile p (fun t => t.recordFault code a)))
    else appendLog code 1 false j.id (rcWord t.rc) detail 1 d

/-- An event of a tile: logged, the job goes on (R193). -/
def eventTile (p : Pos) (code detail : Nat) (d : Dev) : Dev :=
  let j := match d.jobAt p with
    | some j => j.id
    | none => 0
  appendLog code 1 false j (rcWord (d.tile p).rc) detail 1 d

/-- An event that is logged for its first occurrence in a step. -/
def eventOnce (p : Pos) (code detail : Nat) (d : Dev) : Dev :=
  if (d.tile p).once.contains code then d
  else eventTile p code detail (d.onTile p (fun t => { t with once := code :: t.once }))

/-! ## Tile memory (R76) -/

/-- The 64-bit words a byte range touches. -/
def wordsOf (a n : Nat) : List Nat := if n = 0 then [] else (List.range ((a + n - 1) / 8 - a / 8 + 1)).map (· + a / 8)

/-- A saturating count. -/
def satInc (lim n k : Nat) : Nat := min lim (n + k)

/-- Statistics counter i, 64 bits, stops at its maximum (R109). -/
def Tile.count (i n : Nat) (t : Tile) : Tile :=
  { t with stats := t.stats.set i (satInc (2 ^ 64 - 1) (t.stats.get 0 i) n) }

/-- Network counter i, stops at 0xFFFFFFFF. -/
def Tile.netCount (i : Nat) (t : Tile) : Tile :=
  { t with net := { t.net with stat := t.net.stat.set i (satInc 0xFFFFFFFF (t.net.stat.get 0 i) 1) } }

/-- Single-bit errors of the words read are corrected and counted (R76). -/
def Tile.scrub (ws : List Nat) (t : Tile) : Tile :=
  let hit := t.weak.filter ws.contains
  if hit.isEmpty then t
  else { t.count 9 hit.length with weak := t.weak.filter (fun w => !ws.contains w) }

/-- A read of a range; none when a word of it holds a double-bit error (0x0401). -/
def Tile.load (t : Tile) (a n : Nat) : Option (List Byte × Tile) :=
  if (wordsOf a n).any t.bad.contains then none
  else some (t.mem.readN a n, t.scrub (wordsOf a n))

/-- The words of a range that a write covers only in part. -/
def partWords (a n : Nat) : List Nat := (wordsOf a n).filter (fun w => decide (8 * w < a ∨ a + n < 8 * w + 8))

/-- The rows of the running operation's mask that a write touches, noted (R154). -/
def Tile.noteMask (t : Tile) (a n : Nat) : Tile :=
  match t.maskWatch with
  | none => t
  | some (b, ld, rows) =>
    { t with maskHit := (t.maskHit ++ (List.range rows).filter (fun r => decide (a < b + (r + 1) * ld ∧ b + r * ld < a + n))).eraseDups }

/-- A range written whatever its words hold: the words it covers whole lose their errors (R76). -/
def Tile.overwrite (t : Tile) (a : Nat) (bs : List Byte) : Tile :=
  let whole := (wordsOf a bs.length).filter (fun w => !(partWords a bs.length).contains w)
  { t.noteMask a bs.length with
    mem := t.mem.writeN a bs
    bad := t.bad.filter (fun w => !whole.contains w)
    weak := t.weak.filter (fun w => !whole.contains w) }

/-- A write of a range: a whole word clears its error, a part of a word with a double-bit error writes nothing
(R76). -/
def Tile.store (t : Tile) (a : Nat) (bs : List Byte) : Option Tile :=
  let n := bs.length
  if (partWords a n).any t.bad.contains then none
  else
    let ws := wordsOf a n
    let t := (t.scrub (partWords a n)).noteMask a n
    some { t with mem := t.mem.writeN a bs
                  bad := t.bad.filter (fun w => !ws.contains w)
                  weak := t.weak.filter (fun w => !ws.contains w) }

/-- Threads that wait to try again with a wait cause run again (log 3). -/
def wakeCause (cause : Nat) (t : Tile) : Tile :=
  { t with slots := t.slots.map (fun (n, s) => match s.wait with
      | some (.retry c _) => (n, if c = cause then { s with st := .running, wait := none } else s)
      | _ => (n, s)) }

/-- Threads that wait for sequence numbers run again. -/
def wakeCause9 (t : Tile) : Tile := wakeCause 9 t

/-! ## Packets -/

/-- The VL of a packet type (R241). -/
def vlOf : PType → Nat
  | .put | .getReq | .radd | .signal | .token | .reserved _ => 0
  | .ack | .getResp | .signalResp | .notice | .credit | .nack => 1
  | .mcast | .red => 2
  | .mgmt | .scan => 3

/-- The code of a packet type (R241). -/
def codeOf : PType → Nat
  | .put => 1 | .getReq => 2 | .radd => 3 | .signal => 4 | .token => 5 | .ack => 6 | .getResp => 7
  | .signalResp => 8 | .notice => 9 | .credit => 10 | .nack => 11 | .mcast => 12 | .red => 13 | .mgmt => 14
  | .scan => 15 | .reserved c => c

/-- A header that no destination interface takes: another version, or a reserved type (R242). -/
def malformed (k : Packet) : Bool :=
  k.ver != 1 || (match k.ty with
    | .reserved _ => true
    | _ => false)

/-- A position address as 20 bits (R240). -/
def addrWord : Addr → Nat
  | .phys p => p.px % 512 + 2 ^ 9 * (p.py % 512)
  | .logical lx ly => lx % 512 + 2 ^ 9 * (ly % 512) + 2 ^ 18
  | .port id => id % 256 + 2 ^ 19
  | .region c => c.rx % 512 + 2 ^ 9 * (c.ry % 512) + 2 ^ 18 + 2 ^ 19

/-- The 16 bytes of a packet's header (R239). -/
def headerBytes (k : Packet) : List Byte :=
  le 16 (k.ver % 2 ^ 4 + 2 ^ 4 * (k.vl % 4) + 2 ^ 6 * (codeOf k.ty % 32) + flagAt k.epoch 11 + flagAt k.sbit 12
    + flagAt k.xdev 13 + 2 ^ 14 * min 1023 k.hops + 2 ^ 24 * (k.jslot % 32) + flagAt k.long 29 + 2 ^ 30 * (k.attempt % 4)
    + 2 ^ 32 * addrWord k.dst + 2 ^ 52 * addrWord k.src + 2 ^ 72 * (k.seq % 4096) + 2 ^ 84 * (k.len % 32) + 2 ^ 89 * (k.rank % 2 ^ 17)
    + 2 ^ 106 * (k.red % 64) + 2 ^ 112 * (k.tag % 2 ^ 16))

/-- The payload of a packet in whole units: route prefix, sub-header or RADD prefix, data (R239, R250). -/
def payloadImage (k : Packet) : List Byte :=
  let bs := (match k.pfx with
    | some a => le 16 (addrWord a)
    | none => []) ++ k.sub ++ k.data
  padTo (roundUp bs.length 16) bs

/-- A packet as bytes: header, payload, CRC-32C trailer over both (R239). -/
def packetBytes (k : Packet) : List Byte :=
  let bs := headerBytes k ++ payloadImage k
  bs ++ le 4 (crc32c bs)

/-- The step bit of a tile (R231, R335). -/
def Tile.sbit (t : Tile) : Bool := t.step % 2 == 1

/-- A packet of a tile with the header fields its interface fills (R239, R251). -/
def Tile.packet (t : Tile) (p : Pos) (ty : PType) (dst : Addr) (data : List Byte) : Packet :=
  { ty := ty, vl := vlOf ty, epoch := t.net.epoch, sbit := t.sbit, xdev := false, hops := 0
    jslot := t.net.jslot.getD 0, long := false, attempt := 0, dst := dst, src := .phys p, seq := 0
    len := (data.length + 15) / 16, rank := 0, red := 0, tag := 0, sub := [], data := data, pfx := none }

/-- A packet put on the mesh at a place. -/
def Dev.inject (pl : Place) (k : Packet) (d : Dev) : Dev :=
  let f : Flight := { id := d.wafer.nextId, pkt := k, place := pl, retargeted := false }
  { d with wafer := { d.wafer with flights := d.wafer.flights ++ [f], nextId := d.wafer.nextId + 1 } }

/-- The local port of a router as an arrival side. -/
def localSide : Nat := 4

/-- A packet sent by a tile: it enters the tile's own router. -/
def Dev.send (p : Pos) (k : Packet) (d : Dev) : Dev := d.inject (.router p localSide) k

/-- The packet turned toward another device: egress port tile, rank and route prefix (R250, order 1). -/
def abroad (k : Packet) (egress rank : Nat) (target : Addr) : Packet :=
  { k with xdev := true, dst := .port egress, rank := rank, pfx := some target, len := k.len + 1 }

/-- The answer of a tile to a packet (R241, R471): it echoes seq, attempt and step bit, and goes back over the
fabric when the packet came from there (R250). -/
def Tile.answer (t : Tile) (p : Pos) (k : Packet) (ty : PType) (tag : Nat) (data : List Byte) : Packet :=
  let a := { t.packet p ty k.src data with seq := k.seq, attempt := k.attempt, sbit := k.sbit, tag := tag, jslot := k.jslot }
  if k.xdev then abroad a t.net.egress k.rank k.src else a

/-- The answer of a port tile (R281, R471). -/
def portAnswer (id : Nat) (k : Packet) (ty : PType) (tag : Nat) (data : List Byte) : Packet :=
  { ty := ty, vl := vlOf ty, epoch := k.epoch, sbit := k.sbit, xdev := false, hops := 0, jslot := k.jslot
    long := false, attempt := k.attempt, dst := k.src, src := .port id, seq := k.seq
    len := (data.length + 15) / 16, rank := 0, red := 0, tag := tag, sub := [], data := data, pfx := none }

/-- A packet injected by a port tile toward a position or another port tile: link c mod 8 of R31, link 0 between
port tiles (R244, R245). A packet to the port tile itself is already there. -/
def Dev.portSend (id : Nat) (k : Packet) (d : Dev) : Dev :=
  match k.dst with
  | .port o =>
    if o = id then d.inject (.port id) k
    else match portRouter id 0 with
      | some r => d.inject (.router r localSide) k
      | none => d
  | .phys q =>
    match portRouter id (portLink id q) with
    | some r => d.inject (.router r localSide) k
    | none => d
  | .logical lx ly =>
    match d.map.physicalOf lx ly with
    | some q =>
      match portRouter id (portLink id q) with
      | some r => d.inject (.router r localSide) { k with dst := .phys q }
      | none => d
    | none => d
  | .region _ => d

/-- A sequence number that is free: no packet but a TOKEN holds it and it is in no quarantine (R251, R257). -/
def Net.seqFree (n : Net) (q : Nat) : Bool :=
  !(n.outs.any (fun o => o.pkt.ty != .token && o.pkt.seq == q)) && !n.quarantine.contains q

/-- Whether the next `k` sequence numbers are free (R210, R251). -/
def Net.room (n : Net) (k : Nat) : Bool :=
  decide (k ≤ 4096) && (List.range k).all (fun i => n.seqFree ((n.seqNext + i) % 4096))

/-- A packet that takes acknowledgement leaves a tile with the next sequence number, timer started (R251, R256). -/
def launch (p : Pos) (o : Out) (d : Dev) : Dev :=
  let n := (d.tile p).net
  let k := { o.pkt with seq := n.seqNext, epoch := n.epoch }
  (d.onTile p (fun t => { t with net := { t.net with seqNext := (n.seqNext + 1) % 4096,
                                                      outs := t.net.outs ++ [{ o with pkt := k }] } })).send p k

/-- A packet that takes acknowledgement is issued: it takes the next number when that is free and waits otherwise
(R251). -/
def sendNumbered (p : Pos) (k : Packet) (lcc : Option Nat) (units loc target op : Nat) (d : Dev) : Dev :=
  let n := (d.tile p).net
  let o : Out := { pkt := k, timer := true, reissued := false, lcc := lcc, units := units, local_ := loc,
                   target := target, op := op }
  if n.unsent.isEmpty && n.seqFree n.seqNext then launch p o d
  else d.onTile p (fun t => { t with net := { t.net with unsent := t.net.unsent ++ [o], windowWait := true } })

/-- Packets that wait for a number go as far as numbers are free, oldest first; waiting threads try again (R251). -/
def drainUnsent (p : Pos) (d : Dev) : Dev :=
  let go := (d.tile p).net.unsent
  let d := go.foldl (fun d o =>
    let n := (d.tile p).net
    if n.seqFree n.seqNext then
      launch p o (d.onTile p (fun t => { t with net := { t.net with unsent := t.net.unsent.drop 1 } }))
    else d) d
  d.onTile p (fun t => wakeCause9 { t with net := { t.net with windowWait := !t.net.unsent.isEmpty } })

/-- The address of a tile in packets from tiles: a Compute position by its logical coordinates (R249). -/
def Dev.addrOf (d : Dev) (p : Pos) : Addr :=
  match d.map.logicalOf p with
  | some (lx, ly) => .logical lx ly
  | none => .phys p

/-- The region coordinate of a job that lies at a position. -/
def Job.regionOf (j : Job) (m : MapSt) (p : Pos) : Option RC := j.img.members.find? (fun c => j.posOf m c == some p)

/-- An address of one of the job's tiles in region form, which no placement changes (R249, R321). -/
def Job.unplaced (j : Job) (m : MapSt) : Addr → Addr
  | .phys p => (j.regionOf m p).elim (.phys p) .region
  | .logical lx ly => ((m.physicalOf lx ly).bind (j.regionOf m)).elim (.logical lx ly) .region
  | a => a

/-- A source back in physical form, a destination back in the form that packets of tiles use (R239, R249). -/
def Job.placedSrc (j : Job) (d : Dev) : Addr → Addr
  | .region c => (j.posOf d.map c).elim (.region c) .phys
  | a => a
def Job.placedDst (j : Job) (d : Dev) : Addr → Addr
  | .region c => (j.posOf d.map c).elim (.region c) d.addrOf
  | a => a

/-- The addresses of this device that a tile keeps, rewritten: in the packets that wait for an answer or a number, in held
signals and in the duplicate filter; what came from another device stays. A tree router's nodes are no tile state
(R318). -/
def Tile.mapAddrs (src dst : Addr → Addr) (t : Tile) : Tile :=
  let out := fun (o : Out) => { o with pkt := { o.pkt with src := src o.pkt.src, dst := dst o.pkt.dst } }
  { t with net := { t.net with
      outs := t.net.outs.map out
      unsent := t.net.unsent.map out
      sigs := t.net.sigs.map (fun h => if h.pkt.xdev then h else { h with pkt := { h.pkt with src := src h.pkt.src } })
      filter := t.net.filter.map (fun e => if e.2.2 then e else (src e.1, e.2))
      mc := [] } }

/-- A tile of a job with its addresses in region form, and back on a placement. -/
def Tile.unplaced (j : Job) (m : MapSt) (t : Tile) : Tile := t.mapAddrs (j.unplaced m) (j.unplaced m)
def Tile.replaced (j : Job) (d : Dev) (t : Tile) : Tile := t.mapAddrs (j.placedSrc d) (j.placedDst d)

/-- A value that a node of a reduction would have to hold: its sibling is not here and it is no repeat (R263, R265). -/
def Tile.redNew (t : Tile) (entry tag element level j : Nat) (right : Bool) : Bool :=
  !t.net.red.any (fun c => c.entry == entry && c.tag == tag && c.element == element && c.level == level && c.j == j)
    && !t.net.redSeen.any (fun s => s.entry == entry && s.tag == tag && s.element == element && s.level == level
      && s.j == j && s.right == right)

/-- A RED packet waits at a tile's router for room (R263, RED_STATUS.full). -/
def Dev.redWaits (d : Dev) (p : Pos) : Bool :=
  let t := d.tile p
  decide (32 ≤ t.net.red.length) && d.wafer.flights.any (fun f =>
    let h := fieldLe f.pkt.sub 0 4
    f.place == .dest p && f.pkt.ty == .red && some f.pkt.jslot == t.net.jslot && !bit h 30
      && t.redNew f.pkt.red f.pkt.tag (bits h 0 24) (bits h 24 6) (bits (fieldLe f.pkt.sub 8 8) 0 35) true)

/-! ## Sync queues, counters and held signals -/

def Tile.sq (t : Tile) (q : Nat) : SQ := t.sync.sqs.get {} q

def Tile.setSq (t : Tile) (q : Nat) (s : SQ) : Tile := { t with sync := { t.sync with sqs := t.sync.sqs.set q s } }

/-- The next word of the program, modulo its size (R185). -/
def nextPc (kind pc : Nat) : Nat := (pc + 1) % kindProg kind

/-- A thread whose wait has ended goes on after its instruction. -/
def Slot.resume (s : Slot) (kind : Nat) : Slot := { s with st := .running, wait := none, pc := nextPc kind s.pc }

/-- A token appended to a sync queue: the head waiter takes it (R219); counts as in R223. -/
def sqAppend (p : Pos) (q : Nat) (v : Word) (t : Tile) : Tile :=
  let s := t.sq q
  let puts := satInc 0xFFFF s.puts 1
  match s.waiters with
  | [] => t.setSq q { s with toks := s.toks ++ [v], puts := puts }
  | (n, rd) :: r =>
    (t.setSq q { s with waiters := r, puts := puts, gets := satInc 0xFFFF s.gets 1 }).onSlot n
      (fun x => (x.setG rd v).resume p.kind)

/-- Puts already at the declared count (R223). -/
def SQ.overPut (s : SQ) : Bool := s.nPut != 0xFFFF && decide (s.nPut ≤ s.puts)

/-- Gets already at the declared count (R223). -/
def SQ.overGet (s : SQ) : Bool := s.nGet != 0xFFFF && decide (s.nGet ≤ s.gets)

/-- A queue that holds 64 tokens (R217). -/
def SQ.full (s : SQ) : Bool := decide (64 ≤ s.toks.length)

/-- A queue that takes no released signal: full with no waiter, or at its declared count (R220, R223). -/
def SQ.refuses (s : SQ) : Bool := s.overPut || (s.full && s.waiters.isEmpty)

/-- A held signal whose step bit and counter condition are met (R208, R231). -/
def HeldSig.ready (h : HeldSig) (t : Tile) : Bool :=
  h.sbit == t.sbit && (h.count == 0 || decide (h.count ≤ (t.net.cc.get 0 h.counter).toNat))

/-- A released signal enters its queue: appended, or 0x0202 when the queue is full or its count is reached
(R220, R223). -/
def signalAppend (p : Pos) (q : Nat) (v : Word) (d : Dev) : Dev :=
  if ((d.tile p).sq q).refuses then faultTile p 0x0202 0 {} d
  else d.onTile p (sqAppend p q v)

/-- A held signal released: appended, and a NOTICE to its issuer (R254); one that its queue refuses is a fault. -/
def releaseSig (p : Pos) (h : HeldSig) (d : Dev) : Dev :=
  let bad := ((d.tile p).sq h.queue).refuses
  let d := signalAppend p h.queue h.value d
  let t := d.tile p
  let k := { t.packet p .notice h.pkt.src [] with tag := h.pkt.seq }
  let k := if h.pkt.xdev then abroad k t.net.egress h.pkt.rank h.pkt.src else k
  if bad then d else sendNumbered p k none 0 0 0 0x09 d

/-- Every held signal whose conditions are met is released in the order of arrival (R208, R231). -/
def releaseSignals (p : Pos) (d : Dev) : Dev :=
  let t := d.tile p
  let go := t.net.sigs.filter (fun h => h.ready t)
  let stay := t.net.sigs.filter (fun h => !h.ready t)
  (d.onTile p (fun t => { t with net := { t.net with sigs := stay } })).each go (releaseSig p)

/-- A completion counter set; held signals are tested against the result (R209). -/
def setCc (p : Pos) (n : Nat) (v : Nat) (d : Dev) : Dev :=
  releaseSignals p (d.onTile p (fun t => { t with net := { t.net with
    cc := t.net.cc.set n (BitVec.ofNat 32 (min v 0xFFFFFFFF)) } }))

/-- A completion counter gains units, saturating (R209). -/
def addCc (p : Pos) (n : Nat) (u : Nat) (d : Dev) : Dev := setCc p n (((d.tile p).net.cc.get 0 n).toNat + u) d

/-! ## Channels (R165-R167) -/

/-- The path of a channel (R166). -/
inductive ChPath where
  | loc | neighbour | mesh | deep
  deriving DecidableEq, Repr

def Job.chan (j : Job) (ci : Nat) : Option ChanRec := j.img.chans[ci]?

/-- Logical neighbours of the wafer, both Compute (R24, R25, R166). -/
def MapSt.neighbours (m : MapSt) (a b : Pos) : Bool :=
  match m.logicalOf a, m.logicalOf b with
  | some (x, y), some (u, v) =>
    decide ((y = v ∧ (x + 1 = u ∨ u + 1 = x)) ∨ (x = u ∧ (y + 1 = v ∨ v + 1 = y)))
  | _, _ => false

/-- The path of a channel after placement (R166, R309). -/
def chanPath (m : MapSt) (j : Job) (c : ChanRec) : ChPath :=
  if c.depth > 64 then .deep
  else if c.prod = c.cons then .loc
  else match j.posOf m c.prod, j.posOf m c.cons with
    | some a, some b => if m.neighbours a b then .neighbour else .mesh
    | _, _ => .mesh

def Tile.chan (t : Tile) (n : Nat) : Chan := t.flow.chans.get {} n
def Tile.setChan (t : Tile) (n : Nat) (c : Chan) : Tile := { t with flow := { t.flow with chans := t.flow.chans.set n c } }
def Tile.port (t : Tile) (n : Nat) : OPort := t.flow.ports.get {} n
def Tile.setPort (t : Tile) (n : Nat) (c : OPort) : Tile := { t with flow := { t.flow with ports := t.flow.ports.set n c } }

/-- Credit added to an output port (at most 16 bits), and its waiting threads try again. -/
def portGain (n k : Nat) (t : Tile) : Tile :=
  wakeCause 2 (t.setPort n { t.port n with credit := min 0xFFFF ((t.port n).credit + k), waiting := false })

/-- A CREDIT packet with the cumulative count of a channel (R241, R259). -/
def creditPacket (t : Tile) (p : Pos) (dst : Addr) (port count : Nat) : Packet :=
  { t.packet p .credit dst [] with tag := count % 65536, red := port }

/-- `k` tokens have left input channel `n` of a tile: the credits go back to the producer, at once over a local
channel or a neighbour link, by CREDIT over the mesh, with two repeats to come (R167, R259). A deep channel's
consumer returns them to the host, whose engine uses output port 8 + f for its FIFO f. -/
def returnCredit (p : Pos) (n k : Nat) (d : Dev) : Dev :=
  let t := d.tile p
  let c := t.chan n
  match c.ci, d.jobAt p with
  | some ci, some j =>
    match j.chan ci with
    | none => d
    | some r =>
      let upd := fun (t : Tile) => t.setChan n { t.chan n with returned := ((t.chan n).returned + k) % 65536, reps := 2 }
      match chanPath d.map j r with
      | .loc => d.onTile p (portGain r.port k)
      | .neighbour =>
        match j.posOf d.map r.prod with
        | some q => d.onTile q (portGain r.port k)
        | none => d
      | .mesh =>
        match j.posOf d.map r.prod with
        | some q =>
          let d := d.onTile p upd
          d.send p (creditPacket (d.tile p) p (d.addrOf q) r.port ((d.tile p).chan n).returned)
        | none => d
      | .deep =>
        match j.posOf d.map r.host with
        | some q =>
          let f := ((d.tile q).deeps.findIdx? (fun x => x.ci == ci)).getD 0
          let d := d.onTile p upd
          d.send p (creditPacket (d.tile p) p (d.addrOf q) (8 + f) ((d.tile p).chan n).returned)
        | none => d
  | _, _ => d

/-- A TOKEN packet: the token of R163 in its data, the producer's port in tag, the number in seq (R241, R259). -/
def tokenBytes (k : Token) (ch : Nat) : List Byte :=
  let h := k.tag + 2 ^ 16 * k.data.length + flagAt k.ref 23 + (match k.prov with
    | some s => 2 ^ 24 + 2 ^ 25 * s
    | none => 0) + 2 ^ 32 * ch
  padTo (roundUp (8 + k.data.length) 16) (le 8 h ++ k.data)

/-- The token that a TOKEN packet carries. -/
def tokenOf (bs : List Byte) : Token :=
  let h := fieldLe bs 0 8
  { tag := bits h 0 16, ref := bit h 23, prov := if bit h 24 then some (bits h 25 3) else none
    data := slice bs 8 (bits h 16 7) }

/-- A token leaves on an output port whose credit has been taken: into the local channel, onto the neighbour link,
or as a numbered TOKEN kept in the send buffer (R166). -/
def putToken (p : Pos) (n : Nat) (k : Token) (d : Dev) : Dev :=
  let t := d.tile p
  match (t.port n).ci, d.jobAt p with
  | some ci, some j =>
    match j.chan ci with
    | none => d
    | some r =>
      match chanPath d.map j r with
      | .loc => d.onTile p (fun t => t.setChan r.ch { t.chan r.ch with toks := (t.chan r.ch).toks ++ [k] })
      | .neighbour =>
        let l : NTok := { j := j.slot, ci := ci, tok := k, num := (t.port n).num, sbit := t.sbit, fails := 0 }
        ({ d with wafer := { d.wafer with links := d.wafer.links ++ [l] } } : Dev).onTile p (fun t =>
          t.setPort n { t.port n with num := ((t.port n).num + 1) % 4096 })
      | path =>
        match j.posOf d.map (if path = .deep then r.host else r.cons) with
        | none => d
        | some q =>
          let num := (t.port n).num
          let pk := { t.packet p .token (d.addrOf q) (tokenBytes k r.ch) with seq := num, tag := n }
          let o : Out := { pkt := pk, timer := true, reissued := false, lcc := none, units := 0, local_ := 0,
                           target := 0, op := 0 }
          (d.onTile p (fun t =>
            let t := t.setPort n { t.port n with num := (num + 1) % 4096 }
            { t with net := { t.net with outs := t.net.outs ++ [o] } })).send p pk
  | _, _ => d

/-- Whether an output port's channel stays in its tile (R174, R175). -/
def portLocal (d : Dev) (p : Pos) (n : Nat) : Bool :=
  match ((d.tile p).port n).ci, d.jobAt p with
  | some ci, some j =>
    match j.chan ci with
    | some r => chanPath d.map j r == .loc
    | none => false
  | _, _ => false

/-- Whether an output port's channel crosses the mesh and so needs the send buffer (R166, R167). -/
def portMesh (d : Dev) (p : Pos) (n : Nat) : Bool :=
  match ((d.tile p).port n).ci, d.jobAt p with
  | some ci, some j =>
    match j.chan ci with
    | some r => let x := chanPath d.map j r; x == .mesh || x == .deep
    | none => false
  | _, _ => false

/-- A number that the next TOKEN of a port may take: no TOKEN of the port awaits an acknowledgement under it and no quarantine
keeps it (R251, R257, R259). A deep FIFO f sends as port 8 + f. -/
def Tile.tokenFree (t : Tile) (n num : Nat) : Bool :=
  !t.net.outs.any (fun o => o.pkt.ty == .token && o.pkt.tag == n && o.pkt.seq == num) && !(t.port n).quarantine.contains num

end Sys2Proof.Machine
end

