-- ==== Sys2Proof/Machine/Operands.lean ====
section
/-! DEFINITION. Operand forms: the instruction formats of R187 with their unused fields (R188), immediates,
endpoints (R204), remote operands (R205-R208), the tensor descriptor (R92), DMA descriptors (R280). -/

namespace Sys2Proof.Machine

/-! ## Formats (R187) -/

/-- Format A. -/
def encA (op : Nat) (rd rs1 rs2 : Reg) (imm : BitVec 10) : Word :=
  BitVec.ofNat 32 (op * 2 ^ 25 + rd.val * 2 ^ 20 + rs1.val * 2 ^ 15 + rs2.val * 2 ^ 10 + imm.toNat)

/-- Format I. -/
def encI (op : Nat) (rd rs1 : Reg) (imm : BitVec 15) : Word :=
  BitVec.ofNat 32 (op * 2 ^ 25 + rd.val * 2 ^ 20 + rs1.val * 2 ^ 15 + imm.toNat)

/-- LUI: a 20-bit immediate in [19:0] (R188). -/
def encU (op : Nat) (rd : Reg) (imm : BitVec 20) : Word :=
  BitVec.ofNat 32 (op * 2 ^ 25 + rd.val * 2 ^ 20 + imm.toNat)

/-- Format Q. -/
def encQ (op : Nat) (rd rs1 rs2 : Reg) (qf : BitVec 4) (qid : BitVec 6) : Word :=
  BitVec.ofNat 32 (op * 2 ^ 25 + rd.val * 2 ^ 20 + rs1.val * 2 ^ 15 + rs2.val * 2 ^ 10 + qf.toNat * 64 + qid.toNat)

/-- The opcode of a word. -/
def opOf (w : Word) : Nat := bits w.toNat 25 7

/-- The fields an opcode's entry uses (R187, R188). -/
inductive Fmt where
  /-- rd, rs1, rs2 used or not; bits used of [9:6] and of [5:0]. -/
  | regs (rd rs1 rs2 : Bool) (hi lo : Nat)
  /-- rd, rs1 or not, imm15. -/
  | imm (rs1 : Bool)
  /-- rd, imm20. -/
  | upper
  deriving DecidableEq, Repr

/-- The fields of each opcode; none for a reserved one and for SCAN, which no job's program may use (R194-R216). -/
def fmtOf (op : Nat) : Option Fmt :=
  if 0x01 ≤ op ∧ op ≤ 0x0E then some (.regs true true true 0 0)
  else if op = 0x14 then some (.regs true true false 1 6)
  else if 0x10 ≤ op ∧ op ≤ 0x15 then some (.imm true)
  else if op = 0x16 then some .upper
  else if 0x18 ≤ op ∧ op ≤ 0x1D then some (.imm true)
  else if op = 0x1E then some (.imm false)
  else if 0x1F ≤ op ∧ op ≤ 0x27 then some (.imm true)
  else if op = 0x28 then some (.regs true true true 0 0)
  else if op = 0x29 then some (.regs true true true 4 6)
  else if op = 0x2A then some (.regs true true true 0 6)
  else if op = 0x2B then some (.regs true true true 0 5)
  else if op = 0x2C then some (.regs true true true 3 6)
  else if op = 0x30 ∨ op = 0x31 then some (.regs true true false 0 2)
  else if op = 0x32 then some (.regs false true true 0 5)
  else if op = 0x33 then some (.regs false true true 2 5)
  else if op = 0x34 then some (.regs false false false 2 4)
  else if op = 0x40 then some (.regs false true false 0 6)
  else if op = 0x41 ∨ op = 0x42 then some (.regs true false false 0 6)
  else if 0x43 ≤ op ∧ op ≤ 0x45 then some (.regs false false false 0 5)
  else if 0x50 ≤ op ∧ op ≤ 0x54 then some (.regs true true true 4 6)
  else if op = 0x55 then some (.regs true true true 0 5)
  else if op = 0x56 then some (.regs false true false 0 0)
  else if op = 0x57 then some (.regs true false false 0 4)
  else if 0x58 ≤ op ∧ op ≤ 0x5A then some (.regs false true false 0 4)
  else if op = 0x60 then some (.regs false true false 0 0)
  else if op = 0x61 then some (.regs true true true 0 5)
  else if op = 0x62 then some (.regs false false false 0 3)
  else if op = 0x63 then some (.regs false false false 0 4)
  else if op = 0x70 ∨ op = 0x72 then some (.regs false false false 0 0)
  else if op = 0x71 then some (.regs false true false 0 6)
  else if op = 0x73 then some (.regs false true false 0 1)
  else if op = 0x74 then some (.regs true false false 0 4)
  else none

/-- The unused fields of a word are 0 (R188). -/
def Fmt.unusedZero (f : Fmt) (w : Nat) : Bool :=
  match f with
  | .regs d a b hi lo =>
    (d || bits w 20 5 == 0) && (a || bits w 15 5 == 0) && (b || bits w 10 5 == 0)
      && decide (bits w 6 4 < 2 ^ hi) && decide (bits w 0 6 < 2 ^ lo)
  | .imm a => a || bits w 15 5 == 0
  | .upper => true

/-- The instructions a tile kind has (08 head, R199, R210): no arithmetic, accords or steering on a Store tile; no
arrays and no accumulating stores on a Function tile. -/
def kindHas (kind op : Nat) : Bool :=
  if kind = 0 then true
  else if kind = 1 then !(op == 0x2B || op == 0x2C || op == 0x61 || op == 0x62 || op == 0x63)
  else !(op == 0x29 || op == 0x2A || op == 0x2B || op == 0x2C || op == 0x34
    || op == 0x60 || op == 0x61 || op == 0x62 || op == 0x63)

/-- A word that a job's program may run on a tile kind: a known opcode, its unused fields 0, the kind has it
(R188). SCAN belongs to tile firmware and faults in a program. -/
def wordLegal (kind : Nat) (w : Word) : Bool :=
  match fmtOf (opOf w) with
  | none => false
  | some f => f.unusedZero w.toNat && kindHas kind (opOf w)

/-- How a thread under a speculative tag is treated (R190): the instructions that stall until the tag resolves. -/
def stallsUnderTag (op : Nat) : Bool :=
  decide (0x40 ≤ op ∧ op < 0x60) || op == 0x34 || op == 0x71 || op == 0x73

/-- A sign-extended imm15 (R188). -/
def simm (i : BitVec 15) : Int := i.toInt

/-- The address rs1 + imm15 (R195): 32-bit arithmetic. -/
def addrOf (a : Word) (i : BitVec 15) : Nat := (a + i.signExtend 32).toNat

/-! ## Remote operands (R204-R208) -/

/-- The region coordinate of an endpoint register. -/
def epRc (w : Word) : RC := ⟨bits w.toNat 0 9, bits w.toNat 9 9⟩

/-- off of an endpoint register: the target is on another device. -/
def epOff (w : Word) : Bool := w.getLsbD 18

/-- Bits [31:19] of an endpoint register are 0. -/
def epOk (w : Word) : Bool := bits w.toNat 19 13 == 0

/-- The operands of PUT, GET, RADD and MCAST: remote offset, units, dcc, dce, lcc, lce (R205). -/
structure Remote where
  off : Nat
  units : Nat
  dcc : Nat
  dce : Bool
  lcc : Nat
  lce : Bool
  deriving DecidableEq, Repr

def remoteOf (r2 : Word) (imm : BitVec 10) : Remote :=
  { off := bits r2.toNat 0 21, units := bits r2.toNat 21 11
    dcc := bits imm.toNat 0 4, dce := imm.getLsbD 4, lcc := bits imm.toNat 5 4, lce := imm.getLsbD 9 }

/-- REMOTE_CTX (R206). -/
def ctxRank (c : Word) : Nat := bits c.toNat 0 17
def ctxFmt (c : Word) : Nat := bits c.toNat 17 4
def ctxLong (c : Word) : Bool := c.getLsbD 21
def ctxStream (c : Word) : Nat := bits c.toNat 22 8

/-- tag and red of a PUT, GET_REQ or RADD packet (R241). -/
def putTag (off : Nat) : Nat := bits off 4 16
def putRed (off dcc : Nat) (dce : Bool) : Nat := bits off 20 1 + 2 * dcc + flagAt dce 5

/-- The target offset, counter and enable that tag and red carry (R241). -/
def putOff (k : Packet) : Nat := 16 * k.tag + 2 ^ 20 * bits k.red 0 1
def putDcc (k : Packet) : Nat := bits k.red 1 4
def putDce (k : Packet) : Bool := bit k.red 5

/-! ## The tensor descriptor (R92) -/

/-- The fields of a tensor descriptor; M, N, K and the accord count are given whole. -/
structure TDesc where
  aAddr : Nat
  bAddr : Nat
  aFmt : Nat
  asAddr : Nat
  bsAddr : Nat
  bFmt : Nat
  metaAddr : Nat
  maskAddr : Nat
  aSc : Nat
  bSc : Nat
  dstAddr : Nat
  dstLd : Nat
  finSel : Nat
  aSrc : Bool
  bSrc : Bool
  m : Nat
  n : Nat
  k : Nat
  aLd : Nat
  bLd : Nat
  accId : Nat
  cnt : Nat
  mode : Nat
  sparse : Nat
  sparseB : Bool
  prov : Bool
  init : Bool
  drain : Bool
  useMask : Bool
  scoutK : Nat
  scoutThr : Nat
  scoutSel : Bool
  deriving DecidableEq, Repr

def wordAt (ws : List Word) (i : Nat) : Nat := (ws.getD i 0).toNat

/-- The descriptor in eight words. -/
def tdesc (ws : List Word) : TDesc :=
  let w := wordAt ws
  { aAddr := bits (w 0) 0 14, bAddr := bits (w 0) 14 14, aFmt := bits (w 0) 28 4
    asAddr := bits (w 1) 0 14, bsAddr := bits (w 1) 14 14, bFmt := bits (w 1) 28 4
    metaAddr := bits (w 2) 0 14, maskAddr := bits (w 2) 14 14, aSc := bits (w 2) 28 2, bSc := bits (w 2) 30 2
    dstAddr := bits (w 3) 0 14, dstLd := bits (w 3) 14 12, finSel := bits (w 3) 26 2
    aSrc := bit (w 3) 28, bSrc := bit (w 3) 29
    m := bits (w 4) 0 12 + 1, n := bits (w 4) 12 12 + 1, k := bits (w 5) 0 16 + 1, aLd := bits (w 5) 16 14
    bLd := bits (w 6) 0 14, accId := bits (w 6) 14 3, cnt := bits (w 6) 17 3 + 1, mode := bits (w 6) 20 2
    sparse := bits (w 6) 22 2, sparseB := bit (w 6) 24, prov := bit (w 6) 25, init := bit (w 6) 26
    drain := bit (w 6) 27, useMask := bit (w 6) 28
    scoutK := bits (w 7) 0 9, scoutThr := bits (w 7) 9 8, scoutSel := bit (w 7) 17 }

/-- The words of a run of bytes. -/
def wordsLe (bs : List Byte) : List Word :=
  (List.range (bs.length / 4)).map (fun i => BitVec.ofNat 32 (fieldLe bs (4 * i) 4))

/-! ## DMA descriptors (R280) -/

/-- The fields of a DMA descriptor. -/
structure DDesc where
  op : Nat
  ccc : Nat
  statusOff : Nat
  src : Nat
  dst : Nat
  len : Nat
  nlines : Nat
  kb0 : Nat
  nkb : Nat
  cap : Nat
  reservedOk : Bool
  deriving DecidableEq, Repr

def ddesc (ws : List Word) : DDesc :=
  let w := wordAt ws
  { op := bits (w 0) 0 4, ccc := bits (w 0) 4 4, statusOff := 16 * bits (w 0) 8 17
    src := w 1 + 2 ^ 32 * bits (w 2) 0 16, dst := w 3 + 2 ^ 32 * bits (w 4) 0 16, len := w 5
    nlines := bits (w 6) 0 16, kb0 := bits (w 6) 16 16, nkb := bits (w 7) 0 16, cap := bits (w 7) 16 16
    reservedOk := bits (w 0) 25 7 == 0 && bits (w 2) 16 16 == 0 && bits (w 4) 16 16 == 0
      && (bits (w 0) 0 4 == 2 || (w 6 == 0 && w 7 == 0)) }

/-! ## Device addresses (R271, R272) -/

/-- What a device address names. -/
inductive DevAddr where
  | hbm (stack loc : Nat)
  | tile (px py off : Nat)
  | unmapped
  deriving DecidableEq, Repr

/-- Bytes of a stack that are backed. -/
def stackBytes : Nat := 96000000000

/-- stack_local_of of R272. -/
def interleaved (off : Nat) : Nat × Nat :=
  (off / 4096 % 24, off / 4096 / 24 * 4096 + off % 4096)

/-- A 48-bit device address decoded (R271). -/
def devAddr (a : Nat) : DevAddr :=
  if a ≥ 2 ^ 48 then .unmapped
  else if bit a 47 then
    (if bits a 39 8 = 0 then .tile (bits a 21 9) (bits a 30 9) (bits a 0 21) else .unmapped)
  else if bit a 46 then
    (if bits a 0 46 < 24 * stackBytes then .hbm (interleaved (bits a 0 46)).1 (interleaved (bits a 0 46)).2
     else .unmapped)
  else if bits a 42 4 = 0 ∧ bits a 37 5 < 24 ∧ bits a 0 37 < stackBytes then .hbm (bits a 37 5) (bits a 0 37)
  else .unmapped

/-- The key of an HBM byte: its stack-local device address. -/
def hbmKey (a : Nat) : Option Nat :=
  match devAddr a with
  | .hbm s l => some (s * 2 ^ 37 + l)
  | _ => none

/-- An address in interleaved form. -/
def isInterleaved (a : Nat) : Bool := decide (a < 2 ^ 48) && !bit a 47 && bit a 46

/-- Whether a whole HBM range is backed and stays in one form (R271). -/
def hbmRangeOk (a n : Nat) : Bool :=
  n == 0 || ((hbmKey a).isSome && (hbmKey (a + n - 1)).isSome
    && (bit a 46 || bits a 37 5 == bits (a + n - 1) 37 5) && bit a 46 == bit (a + n - 1) 46)

/-- The port tile that serves an HBM key (R272, R273). -/
def servingPort (key : Nat) : Nat := 4 * (key / 2 ^ 37) + key % 2 ^ 37 / 1024 % 4

/-- The interleaved offset of a byte of stack `s` (R272). -/
def offOf (s l : Nat) : Nat := (l / 4096 * 24 + s) * 4096 + l % 4096

/-- The first stack-local offset of stack `s` at or past an interleaved offset. -/
def firstLocal (s off : Nat) : Nat :=
  let p := off / 4096
  if p % 24 = s then p / 24 * 4096 + off % 4096 else if p % 24 < s then p / 24 * 4096 else (p / 24 + 1) * 4096

/-- A stack-local range and an interleaved range address a common byte. -/
def mixedMeet (local_ n off m : Nat) : Bool :=
  let s := bits local_ 37 5
  let l := bits local_ 0 37
  let x := max l (firstLocal s off)
  decide (x < l + n ∧ offOf s x < off + m)

/-- Two HBM ranges address a common byte (R274). -/
def hbmMeet (a n b m : Nat) : Bool :=
  if n = 0 ∨ m = 0 then false
  else match bit a 46, bit b 46 with
    | true, true => decide (bits a 0 46 < bits b 0 46 + m ∧ bits b 0 46 < bits a 0 46 + n)
    | false, false => decide (a < b + m ∧ b < a + n)
    | false, true => mixedMeet a n (bits b 0 46) m
    | true, false => mixedMeet b m (bits a 0 46) n

/-- Bytes of HBM read by device address. -/
def Brim.hbmRead (b : Brim) (a n : Nat) : List Byte :=
  (List.range n).map (fun i => match hbmKey (a + i) with
    | some k => b.hbm.read k
    | none => 0)

/-- Bytes of HBM written by device address; a write that covers a whole line clears its poison (R276). -/
def Brim.hbmWrite (b : Brim) (a : Nat) (bs : List Byte) : Brim :=
  let keys := (List.range bs.length).map (fun i => hbmKey (a + i))
  let hbm := (keys.zip bs).foldl (fun m (k, v) => match k with
    | some k => m.write k v
    | none => m) b.hbm
  let whole : Nat → Bool := fun l => decide ((keys.filter (fun k => k.map (· / 64) = some l)).length = 64)
  { b with hbm := hbm, poisoned := if b.poisoned.isEmpty then [] else b.poisoned.filter (fun l => !whole l) }

end Sys2Proof.Machine
end

