-- ==== Sys2Proof/Machine/Flags.lean ====
section
/-! DEFINITION. The tile control window: every register as a view of the state, and writes to it (R186). -/

namespace Sys2Proof.Machine

/-- The code of an accord state (R96). -/
def AccSt.code : AccSt → Nat
  | .free => 0
  | .opened => 1
  | .openProv => 2
  | .drainPending => 3
  | .draining => 4

def Tile.acc (t : Tile) (n : Nat) : Accord := t.tensor.accs.get {} n
def Tile.setAcc (t : Tile) (n : Nat) (a : Accord) : Tile :=
  { t with tensor := { t.tensor with accs := t.tensor.accs.set n a } }

/-- A sum of fields over an index. -/
def sumOver (n : Nat) (f : Nat → Nat) : Nat := (List.range n).foldl (fun a i => a + f i) 0

/-- ACC_STATE. -/
def accStateReg (t : Tile) : Nat := sumOver 8 (fun n => 16 ^ n * (t.acc n).st.code)

/-- ACC_FLAGS. -/
def accFlagsReg (t : Tile) : Nat :=
  sumOver 8 (fun n => 16 ^ n * (flagAt (t.acc n).int 0 + flagAt (t.acc n).sat 1
    + flagAt ((t.acc n).st == .openProv || (t.acc n).st == .drainPending) 2))

/-- TQ_STATUS: entries queued, running, mode of the running operation. -/
def tqStatusReg (t : Tile) : Nat :=
  match t.tensor.queue with
  | [] => 0
  | e :: _ =>
    let mode := match e.work with
      | .tensor ws _ => if e.running then (tdesc ws).mode else 0
      | _ => 0
    t.tensor.queue.length + flagAt e.running 3 + 16 * mode

/-- SPEC_STATUS. -/
def specStatusReg (t : Tile) : Nat :=
  let tags := t.flow.specTags.map Prod.fst
  sumOver 8 (fun i => flagAt (tags.contains i) i) + 2 ^ 8 * t.flow.specTags.length + flagAt t.flow.tagWait 12

/-- The admission rule of R157 for a token that serves operand `i` of a task. -/
def admissible (t : Tile) (ts : TaskSt) (i : Nat) (k : Token) : Bool :=
  decide ((k.tag + 65536 - ts.base) % 65536 < ts.decl.window)
    && !t.flow.store.any (fun e => e.task == ts.decl.id && e.op == i && e.tok.tag == k.tag)

/-- The task and operand that a channel serves (R155). -/
def servesOp (t : Tile) (ch : Nat) : Option (TaskSt × Nat) :=
  t.flow.tasks.findSome? (fun ts =>
    ((List.range ts.decl.nOps).find? (fun i => ts.decl.ops.getD i 99 == ch)).map (fun i => (ts, i)))

/-- The hold of a steering unit for the channel is full (R171): kept data tokens count as unpaired. -/
def holdFull (t : Tile) (ch : Nat) : Bool :=
  t.flow.steers.any (fun u =>
    (!u.decl.merge && u.decl.in0 == some ch && decide (8 ≤ u.data.length + u.kept.length))
      || (u.decl.ctl == some ch && decide (8 ≤ u.ctl.length)))

/-- CH_STATE_n. -/
def chStateReg (t : Tile) (n : Nat) : Nat :=
  let c := t.chan n
  match c.toks with
  | [] => 2 ^ 8 * c.kind
  | k :: _ =>
    let w := if c.kind = 1 then (match servesOp t n with
        | some (ts, i) => !admissible t ts i k
        | none => false)
      else if c.kind = 2 then holdFull t n else false
    min 64 c.toks.length + flagAt w 7 + 2 ^ 8 * c.kind + 2 ^ 16 * k.tag

/-- OPORT_n. -/
def oportReg (d : Dev) (p : Pos) (n : Nat) : Nat :=
  let o := (d.tile p).port n
  let deep := match o.ci, d.jobAt p with
    | some ci, some j => match j.chan ci with
      | some r => decide (r.depth > 64)
      | none => false
    | _, _ => false
  o.credit % 65536 + flagAt o.waiting 16 + flagAt deep 17

/-- TASK_STATE_t: base and instances admitted and not ended. -/
def taskStateReg (t : Tile) (id : Nat) : Nat :=
  match t.flow.tasks.find? (fun s => s.decl.id == id) with
  | none => 0
  | some s =>
    let tags := ((t.flow.store.filter (fun e => e.task == id)).map (·.tok.tag)
      ++ (t.slots.filter (fun x => x.2.st != .free && x.2.task == id)).map (·.2.tag)).eraseDups
    s.base + 2 ^ 16 * min 64 tags.length

/-- The wait cause codes of SLOT_STATE_n. -/
def WaitOn.cause : WaitOn → Nat
  | .retry c _ => c
  | .sqHead _ _ => 6
  | .line _ _ => 7
  | .vector => 12

def SlotSt.code : SlotSt → Nat
  | .free => 0
  | .running => 1
  | .waiting => 2
  | .halted => 3

/-- SLOT_STATE_n. -/
def slotStateReg (s : Slot) : Nat :=
  s.st.code + 2 ^ 3 * (match s.wait with
    | some w => w.cause
    | none => 0) + 2 ^ 8 * s.task + 2 ^ 16 * s.tag

/-- TILE_INFO. -/
def tileInfoReg (t : Tile) (kind : Nat) : Nat := rcWord t.rc + 2 ^ 18 * kind

/-- SQ_STATE_n. -/
def sqStateReg (s : SQ) : Nat :=
  min 64 s.toks.length + flagAt (!s.waiters.isEmpty) 7 + 2 ^ 8 * s.waiters.length + flagAt (!s.putWait.isEmpty) 14

/-- HB_GATE: the lines whose gate is held, as the job's gates stand (R228). -/
def hbGateReg (d : Dev) (p : Pos) : Nat :=
  match d.jobAt p with
  | some j => sumOver 32 (fun k => flagAt (decide (k < j.img.nLines) && !(j.gateList.getD k false)) k)
  | none => 0

/-- HB_MAP_k. -/
def hbMapReg (t : Tile) (k : Nat) : Nat :=
  match t.sync.map.get none k with
  | some ph => ph % 32 + 2 ^ 31
  | none => 0

/-- NET_CFG. -/
def netCfgReg (t : Tile) : Nat :=
  t.net.rto % 32 + 2 ^ 5 * (t.net.egress % 256) + flagAt t.net.epoch 13 + 2 ^ 14 * (t.net.jslot.getD 0)

/-- Packets of remote operations that await acknowledgement (R212). -/
def Net.inflight (n : Net) : Nat := (n.outs.filter (fun o => o.pkt.ty != .token)).length

/-- NET_STATUS. -/
def netStatusReg (t : Tile) : Nat := t.net.inflight + 2 ^ 13 * t.net.seqNext + flagAt t.net.windowWait 25

/-- RED_STATUS. -/
def redStatusReg (d : Dev) (p : Pos) : Nat := (d.tile p).net.red.length + flagAt (d.redWaits p) 6

/-- The reset value of a writable register of the window (FIN and FUL sets). -/
def ctlReset (off : Nat) : Word :=
  if 0x100 ≤ off ∧ off < 0x200 then
    let r := off % 0x40
    if r = 0x00 then 0x4
    else if r = 0x04 ∨ r = 0x20 then 0x3F800000
    else if r = 0x10 then 0xFF800000
    else if r = 0x14 then 0x7F800000
    else 0
  else 0

/-- The writable bits of a register of the finishing and fulling sets; none elsewhere. -/
def ctlMask (off : Nat) : Option Nat :=
  if 0x100 ≤ off ∧ off < 0x200 then
    let r := off % 0x40
    if r = 0x00 ∨ r = 0x0C then some 0x0FFFFFFF
    else if r = 0x04 ∨ r = 0x10 ∨ r = 0x14 ∨ r = 0x1C ∨ r = 0x20 then some 0xFFFFFFFF
    else if r = 0x08 ∨ r = 0x18 then some 0x3FFF3FFF
    else none
  else if 0x310 ≤ off ∧ off < 0x340 then
    let r := off % 0x10
    if r = 0 then some 0x3FFFFFFF else if r = 4 then some 0xFFFFFFFF else if r = 8 then some 0x8FFFFFFF else none
  else none

/-- A writable register of the window. -/
def Tile.ctlReg (t : Tile) (off : Nat) : Word := t.ctl.get (ctlReset off) off

/-- A 32-bit half of a 64-bit counter. -/
def half (v off : Nat) : Nat := if off % 8 = 0 then v % 2 ^ 32 else v / 2 ^ 32

/-- The registers of the control window (R186). `hist` is kept by window offset; `stats` holds the running counter i
at i and its last-step copy at 16 + i. An unlisted offset and a register of a resource the kind lacks read 0. -/
def ctlRead (d : Dev) (p : Pos) (off : Nat) : Word :=
  let t := d.tile p
  let kind := p.kind
  let c := kind == 0
  let v : Nat :=
    if off = 0 then accStateReg t
    else if off = 4 then accFlagsReg t
    else if off = 8 then (if c then flagAt t.granted 0 else 0)
    else if off = 0xC then tqStatusReg t
    else if (ctlMask off).isSome then (if c then (t.ctlReg off).toNat else 0)
    else if 0x200 ≤ off ∧ off < 0x250 then half (t.stats.get 0 ((off - 0x200) / 8)) off
    else if 0x280 ≤ off ∧ off < 0x2D0 then half (t.stats.get 0 (16 + (off - 0x280) / 8)) off
    else if 0x400 ≤ off ∧ off < 0x1400 then (if off % 0x200 < 0x110 then t.hist.get 0 off else 0)
    else if off = 0x2000 then specStatusReg t
    else if 0x2100 ≤ off ∧ off < 0x2180 then chStateReg t ((off - 0x2100) / 4)
    else if 0x2200 ≤ off ∧ off < 0x2280 then oportReg d p ((off - 0x2200) / 4)
    else if 0x2300 ≤ off ∧ off < 0x2400 then taskStateReg t ((off - 0x2300) / 4)
    else if off = 0x3000 then tileInfoReg t kind
    else if off = 0x3004 then t.step
    else if off = 0x3008 then t.faultInfo.toNat
    else if off = 0x300C then t.faultPc.toNat
    else if off = 0x3010 then t.faultInsn.toNat
    else if off = 0x3014 then t.rank
    else if 0x3080 ≤ off ∧ off < 0x3100 then slotStateReg (t.slot ((off - 0x3080) / 4))
    else if 0x3100 ≤ off ∧ off < 0x3180 then (t.slot ((off - 0x3100) / 4)).ctx.toNat
    else if 0x4000 ≤ off ∧ off < 0x4100 then sqStateReg (t.sq ((off - 0x4000) / 4))
    else if 0x4100 ≤ off ∧ off < 0x4200 then
      (let s := t.sq ((off - 0x4100) / 4); s.puts % 65536 + 65536 * s.gets)
    else if 0x4200 ≤ off ∧ off < 0x4300 then
      (if (off - 0x4200) / 4 < kindSqs kind then
        (let s := t.sq ((off - 0x4200) / 4); s.nPut % 65536 + 65536 * s.nGet) else 0)
    else if off = 0x4400 then t.sync.nLines + 2 ^ 6 * t.sync.sqExp + 2 ^ 12 * t.sync.hbExp
    else if off = 0x4404 then t.sync.enrol.toNat
    else if off = 0x4408 then t.sync.pending.toNat
    else if off = 0x440C then hbGateReg d p
    else if 0x4480 ≤ off ∧ off < 0x4500 then hbMapReg t ((off - 0x4480) / 4)
    else if 0x4500 ≤ off ∧ off < 0x4580 then t.sync.cross.get 0 ((off - 0x4500) / 4)
    else if 0x5000 ≤ off ∧ off < 0x5040 then (t.net.cc.get 0 ((off - 0x5000) / 4)).toNat
    else if off = 0x5040 then netCfgReg t
    else if off = 0x5044 then netStatusReg t
    else if off = 0x5048 then redStatusReg d p
    else if 0x5080 ≤ off ∧ off < 0x50A0 then t.net.stat.get 0 ((off - 0x5080) / 4)
    else 0
  BitVec.ofNat 32 v

/-- The bits of the window that belong to a field; the others are reserved (R12, R186). -/
def ctlFields (off : Nat) : Nat :=
  let all := 0xFFFFFFFF
  match ctlMask off with
  | some m => m
  | none =>
    if off = 0 then all
    else if off = 4 then 0x77777777
    else if off = 8 then 1
    else if off = 0xC then 0x3F
    else if (0x200 ≤ off ∧ off < 0x250) ∨ (0x280 ≤ off ∧ off < 0x2D0) then all
    else if 0x400 ≤ off ∧ off < 0x1310 ∧ off % 0x200 < 0x110 then all
    else if off = 0x2000 then 0x1FFF
    else if 0x2100 ≤ off ∧ off < 0x2180 then 0xFFFF03FF
    else if 0x2200 ≤ off ∧ off < 0x2280 then 0x3FFFF
    else if 0x2300 ≤ off ∧ off < 0x2400 then 0x7FFFFF
    else if off = 0x3000 then 0xFFFFF
    else if off = 0x3004 ∨ off = 0x3010 then all
    else if off = 0x3008 then 0xC01FFFFF
    else if off = 0x300C then 0xFFFF1FFF
    else if off = 0x3014 then 0x1FFFF
    else if 0x3080 ≤ off ∧ off < 0x3100 then 0xFFFF3FFF
    else if 0x3100 ≤ off ∧ off < 0x3180 then all
    else if 0x4000 ≤ off ∧ off < 0x4100 then 0x7FFF
    else if 0x4100 ≤ off ∧ off < 0x4300 then all
    else if off = 0x4400 then 0x3FFFF
    else if off = 0x4404 ∨ off = 0x4408 ∨ off = 0x440C then all
    else if 0x4480 ≤ off ∧ off < 0x4500 then 0x8000001F
    else if 0x4500 ≤ off ∧ off < 0x4580 then all
    else if 0x5000 ≤ off ∧ off < 0x5040 then all
    else if off = 0x5040 then 0x7FFFF
    else if off = 0x5044 then 0x3FFFFFF
    else if off = 0x5048 then 0x7F
    else if 0x5080 ≤ off ∧ off < 0x50A0 then all
    else 0

/-- A read of the window: reserved bits to which a 1 was written read free values from then on (R12, log 12). -/
def ctlLoad (d : Dev) (p : Pos) (off : Nat) : Word × Dev :=
  let m := (d.tile p).taint.get 0 off
  if m = 0 then (ctlRead d p off, d)
  else (ctlRead d p off ||| (d.free.1 &&& m), d.free.2)

/-- A write to the window: RW fields take the value, FUL_BLK.ovf clears on a 1, read-only fields ignore it, and a 1
in a reserved field is remembered (R12, R186). -/
def ctlStore (p : Pos) (off : Nat) (v : Word) (t : Tile) : Tile :=
  let extra : Word := v &&& ~~~(BitVec.ofNat 32 (ctlFields off))
  let t := if extra = 0 then t else { t with taint := t.taint.set off (t.taint.get 0 off ||| extra) }
  match (if p.kind = 0 then ctlMask off else none) with
  | some m =>
    let blk := decide (0x310 ≤ off) && off % 0x10 == 8
    let new : Word :=
      if blk then (v &&& 0x0FFFFFFF) ||| (t.ctlReg off &&& 0x80000000 &&& ~~~v) else v &&& BitVec.ofNat 32 m
    { t with ctl := t.ctl.set off new }
  | none => t

end Sys2Proof.Machine
end

