-- ==== Sys2Proof/Machine/Thread.lean ====
section
/-! DEFINITION. How a thread's instruction runs: issue, decode checks, speculation stalls, completion, waits and
faults (R188-R192, R175). Every thread command goes through `runThread`. -/

namespace Sys2Proof.Machine

/-- How an instruction ends. -/
inductive Res where
  /-- It completes and the thread goes on at the next word. -/
  | done (d : Dev)
  /-- It completes and the thread goes on at a word of the program. -/
  | jump (d : Dev) (pc : Nat)
  /-- It has dealt with its slot itself: the thread ended, or waits on an event that completes it. -/
  | stay (d : Dev)
  /-- It waits with a wait cause of SLOT_STATE_n and is tried again (log 3). -/
  | wait (cause : Nat) (d : Dev)
  /-- It faults and has no effect (R191). -/
  | fault (code detail : Nat)

/-- A slot may issue an instruction word: its thread runs, or waits to try that very word again (log 3). -/
def Slot.mayIssue (s : Slot) (w : Word) : Bool :=
  match s.wait with
  | none => s.st == .running
  | some (.retry _ v) => s.st == .waiting && v == w
  | some _ => false

/-- The tile is live and the slot may issue the word. -/
def canIssue (p : Pos) (ts : Nat) (w : Word) (d : Dev) : Bool := d.live p && ((d.tile p).slot ts).mayIssue w

/-- The thread waits and will try the word again. -/
def Slot.retry (cause : Nat) (w : Word) (s : Slot) : Slot := { s with st := .waiting, wait := some (.retry cause w) }

/-- The fault of an instruction: registers of the fault, then the stop of the job (R191). -/
def insnFault (p : Pos) (ts : Nat) (w : Word) (code detail : Nat) (d : Dev) : Dev :=
  let s := (d.tile p).slot ts
  faultTile p code detail { slot := ts, pc := s.pc, tag := s.tag, insn := w } d

/-- The end of an instruction put into the state. -/
def Res.apply (p : Pos) (ts : Nat) (w : Word) (d0 : Dev) : Res → Dev
  | .done d => d.onTile p (fun t => t.onSlot ts (fun s => s.resume p.kind))
  | .jump d pc => d.onTile p (fun t => t.onSlot ts (fun s =>
      { s with st := .running, wait := none, pc := pc % kindProg p.kind }))
  | .stay d => d
  | .wait c d => d.onTile p (fun t => t.onSlot ts (Slot.retry c w))
  | .fault c x => insnFault p ts w c x d0

/-- A thread's instruction: nothing unless it can issue; 0x0104 for a word its tile kind does not allow (R188); a
stall while the thread's tag is open where R190 says so; else its own effect. -/
def runThread (p : Pos) (ts : Nat) (w : Word) (f : Dev → Res) (d : Dev) : Dev :=
  if !canIssue p ts w d then d
  else if !wordLegal p.kind w then insnFault p ts w 0x0104 0 d
  else if ((d.tile p).slot ts).spec.isSome && stallsUnderTag (opOf w) then
    d.onTile p (fun t => t.onSlot ts (Slot.retry 4 w))
  else (f d).apply p ts w d

/-- Register work: rd takes a function of the slot. -/
def regOp (p : Pos) (ts : Nat) (rd : Reg) (f : Slot → Word) (d : Dev) : Res :=
  .done (d.onTile p (fun t => t.onSlot ts (fun s => s.setG rd (f s))))

/-- A conditional branch: offsets count words from the branch itself (R188, R194). -/
def branchOp (p : Pos) (ts : Nat) (imm : BitVec 15) (c : Slot → Bool) (d : Dev) : Res :=
  let s := (d.tile p).slot ts
  if c s then .jump d (((s.pc : Int) + simm imm) % (kindProg p.kind : Nat)).toNat else .done d

end Sys2Proof.Machine
end

