-- ==== Sys2Proof/Machine/Access.lean ====
section
/-! DEFINITION. A thread's accesses to its tile's memory: ranges (R184), scratch-line owners (R175, R176), write
protection of a range being copied (R334), SECDED (R76); and where its roundings draw their bits (R70, R119). -/

namespace Sys2Proof.Machine

/-- The scratch lines of R176 that a byte range touches. -/
def scratchLines (a n : Nat) : List Nat :=
  (List.range 256).filter (fun l => decide (a < 0x3C000 + 64 * l + 64 ∧ 0x3C000 + 64 * l < a + n))

/-- A line owner other than the thread's own tag. -/
def foreignOwner (t : Tile) (own : Option Nat) (l : Nat) : Bool :=
  match t.flow.owners.get none l with
  | none => false
  | some o => own != some o

/-- A range of a tile that speculates touches a line that another tag owns. -/
def rangeForeign (t : Tile) (own : Option Nat) (a n : Nat) : Bool :=
  t.flow.scratch && !t.flow.owners.isEmpty && (scratchLines a n).any (foreignOwner t own)

/-- A range that a retained range still being copied protects (R334). -/
def copyProtected (d : Dev) (p : Pos) (a n : Nat) : Bool :=
  match d.jobAt p with
  | none => false
  | some j => (d.tile p).check.copying.any (fun e => match j.img.rets[e]? with
    | some r => decide (a < r.off + r.len ∧ r.off < a + n)
    | none => false)

/-- A remote write waits: a retained range is being copied (R334), or a scratch line has an owner (R210). -/
def remoteHeld (d : Dev) (p : Pos) (a n : Nat) : Bool := copyProtected d p a n || rangeForeign (d.tile p) none a n

/-- A read of a range by a thread: range, owners, errors; then what follows with the bytes. -/
def withRead (p : Pos) (ts a n : Nat) (d : Dev) (k : List Byte → Dev → Res) : Res :=
  let t := d.tile p
  if n = 0 then k [] d
  else if !inMem p.kind a n then .fault 0x0404 0
  else if rangeForeign t (t.slot ts).spec a n then .wait 11 d
  else match t.load a n with
    | none => .fault 0x0401 0
    | some (bs, t') => k bs (d.setTile p t')

/-- The scratch lines a store under a tag takes become the tag's (R175). -/
def takeLines (own : Option Nat) (a n : Nat) (t : Tile) : Tile :=
  match own with
  | none => t
  | some g => { t with flow := { t.flow with owners := (scratchLines a n).foldl (fun m l => m.set l (some g)) t.flow.owners } }

/-- What keeps a thread from storing a range. Under a tag: inside the scratch window only (0x0602), not on a line of
another tag (0x0604). Under no tag: it waits for owned lines (R175, R176); it waits for a range being copied. -/
def writeStop (p : Pos) (ts a n : Nat) (d : Dev) : Option Res :=
  let t := d.tile p
  let own := (t.slot ts).spec
  if n = 0 then none
  else if !inMem p.kind a n then some (.fault 0x0404 0)
  else if own.isSome && !(t.flow.scratch && decide (0x3C000 ≤ a ∧ a + n ≤ 0x40000)) then some (.fault 0x0602 0)
  else if rangeForeign t own a n then some (if own.isSome then .fault 0x0604 0 else .wait 11 d)
  else if copyProtected d p a n then some (.wait 1 d)
  else none

/-- A store of a range by a thread; then what follows. -/
def withWrite (p : Pos) (ts a : Nat) (bs : List Byte) (d : Dev) (k : Dev → Res) : Res :=
  if bs.isEmpty then k d
  else match writeStop p ts a bs.length d with
    | some r => r
    | none =>
      match (d.tile p).store a bs with
      | none => .fault 0x0401 0
      | some t' => k (d.setTile p (takeLines ((d.tile p).slot ts).spec a bs.length t'))

/-- A range that is read and then stored (an accumulating store): the rules of the store come first. -/
def withUpdate (p : Pos) (ts a n : Nat) (d : Dev) (k : List Byte → Dev → Res) : Res :=
  match writeStop p ts a n d with
  | some r => r
  | none => withRead p ts a n d k

/-- Two ranges that overlap without being identical (R199). -/
def badOverlap (a na b nb : Nat) : Bool :=
  decide (a < b + nb ∧ b < a + na) && !(a == b && na == nb)

/-- Where a rounding of a tile draws its bits (R70). -/
def drawOf (d : Dev) (p : Pos) (stream : Nat) : Draw :=
  let t := d.tile p
  { seed := (match d.jobAt p with
      | some j => j.img.seed
      | none => 0), stream := stream, rank := t.rank, rc := t.rc, step := t.step % 2 ^ 32 }

/-- The narrow regime of a Compute tile's job (R125). -/
def narrowAt (d : Dev) (p : Pos) : Bool :=
  p.kind == 0 && (match d.jobAt p with
    | some j => j.img.narrow
    | none => false)

/-- A long sum at a tile address (R118, R119): the memory value is the left operand. -/
def tileLongSum (d : Dev) (p : Pos) (stream fmt : Nat) (long : Bool) (addr old : Nat) (v : Val) : Nat :=
  let e := addr / fmtSize fmt % 2 ^ 24
  longSum fmt (regimeMode (narrowAt d p) fmt (if long then 2 else 0)) (srBits (drawOf d p stream) e (e % 1024))
    (decodeFmt fmt old) v

/-- A run of long sums from an address on, in increasing address order. -/
def tileLongSums (d : Dev) (p : Pos) (stream fmt : Nat) (long : Bool) (addr : Nat) (olds : List Nat)
    (vs : List Val) : List Nat :=
  ((olds.zip vs).zipIdx).map (fun ((o, v), i) => tileLongSum d p stream fmt long (addr + i * fmtSize fmt) o v)

end Sys2Proof.Machine
end

