-- ==== Sys2Proof/WellFormed.lean ====
section
/-! DEFINITION. Which commands name things that exist on the part: positions, thread slots, units, ports, stacks,
lines, fields, engines, job slots, mailboxes. -/

namespace Sys2Proof

/-- A thread slot of a position: its number is below the slots of the tile's kind (R75, R110, R112, R155). -/
def slotOk (t : Pos) (ts : Nat) : Bool := t.ok && decide (ts < Machine.kindSlots t.kind)

/-- A mailbox of the tether register space; the other transports have none (R403). -/
def boxOk (tr : Transport) (box : Nat) : Bool :=
  match tr with
  | .tether => decide (box < 16)
  | _ => true

/-- A timer's issuer exists (R240, R251). -/
def timerOk : Timer → Bool
  | .tile t seq => t.ok && decide (seq < 4096)
  | .token t port num => t.ok && decide (port < 32) && decide (num < 4096)
  | .port id seq => decide (id < 147) && decide (seq < 4096)

/-- A command whose operands name what exists (R10, R16, R30, R240). -/
def Instr.wf : Instr → Bool
  | .add t ts _ _ _ => slotOk t ts
  | .sub t ts _ _ _ => slotOk t ts
  | .and t ts _ _ _ => slotOk t ts
  | .or t ts _ _ _ => slotOk t ts
  | .xor t ts _ _ _ => slotOk t ts
  | .sll t ts _ _ _ => slotOk t ts
  | .srl t ts _ _ _ => slotOk t ts
  | .sra t ts _ _ _ => slotOk t ts
  | .slt t ts _ _ _ => slotOk t ts
  | .sltu t ts _ _ _ => slotOk t ts
  | .mul t ts _ _ _ => slotOk t ts
  | .mulhu t ts _ _ _ => slotOk t ts
  | .mins t ts _ _ _ => slotOk t ts
  | .maxs t ts _ _ _ => slotOk t ts
  | .addi t ts _ _ _ => slotOk t ts
  | .andi t ts _ _ _ => slotOk t ts
  | .ori t ts _ _ _ => slotOk t ts
  | .xori t ts _ _ _ => slotOk t ts
  | .shi t ts _ _ _ => slotOk t ts
  | .slti t ts _ _ _ => slotOk t ts
  | .lui t ts _ _ => slotOk t ts
  | .beq t ts _ _ _ => slotOk t ts
  | .bne t ts _ _ _ => slotOk t ts
  | .blt t ts _ _ _ => slotOk t ts
  | .bge t ts _ _ _ => slotOk t ts
  | .bltu t ts _ _ _ => slotOk t ts
  | .bgeu t ts _ _ _ => slotOk t ts
  | .jal t ts _ _ => slotOk t ts
  | .jalr t ts _ _ _ => slotOk t ts
  | .reservedOpcode t ts _ => slotOk t ts
  | .lb t ts _ _ _ => slotOk t ts
  | .lbu t ts _ _ _ => slotOk t ts
  | .lh t ts _ _ _ => slotOk t ts
  | .lhu t ts _ _ _ => slotOk t ts
  | .lw t ts _ _ _ => slotOk t ts
  | .sb t ts _ _ _ => slotOk t ts
  | .sh t ts _ _ _ => slotOk t ts
  | .sw t ts _ _ _ => slotOk t ts
  | .mcopy t ts _ _ _ => slotOk t ts
  | .cvt t ts _ _ _ _ => slotOk t ts
  | .cvst t ts _ _ _ _ => slotOk t ts
  | .acc t ts _ _ _ _ => slotOk t ts
  | .accv t ts _ _ _ _ => slotOk t ts
  | .oprd t ts _ _ _ => slotOk t ts
  | .opcp t ts _ _ _ => slotOk t ts
  | .send t ts _ _ _ => slotOk t ts
  | .sendr t ts _ _ _ _ => slotOk t ts
  | .predict t ts _ _ => slotOk t ts
  | .sqput t ts _ _ => slotOk t ts
  | .sqget t ts _ _ => slotOk t ts
  | .sqcnt t ts _ _ => slotOk t ts
  | .hbarr t ts _ => slotOk t ts
  | .hbwait t ts _ => slotOk t ts
  | .hbsync t ts _ => slotOk t ts
  | .put t ts _ _ _ _ => slotOk t ts
  | .get t ts _ _ _ _ => slotOk t ts
  | .radd t ts _ _ _ _ => slotOk t ts
  | .mcast t ts _ _ _ _ => slotOk t ts
  | .signal t ts _ _ _ _ => slotOk t ts
  | .redc t ts _ _ _ _ => slotOk t ts
  | .setrc t ts _ => slotOk t ts
  | .ccrd t ts _ _ => slotOk t ts
  | .ccwait t ts _ _ => slotOk t ts
  | .cctake t ts _ _ => slotOk t ts
  | .ccset t ts _ _ => slotOk t ts
  | .top t ts _ => slotOk t ts
  | .drain t ts _ _ _ _ => slotOk t ts
  | .discard t ts _ => slotOk t ts
  | .twait t ts _ => slotOk t ts
  | .vop t ts _ => slotOk t ts
  | .tend t ts => slotOk t ts
  | .tretire t ts _ _ => slotOk t ts
  | .yield t ts => slotOk t ts
  | .raise t ts _ _ => slotOk t ts
  | .gets t ts _ _ => slotOk t ts
  | .scan t ts => slotOk t ts
  | .issueQueueHead t => t.ok
  | .weightFillComplete t => t.ok
  | .laneBlockComplete t _ _ => t.ok
  | .drainComplete t _ => t.ok
  | .scoutComplete t => t.ok
  | .vopComplete t _ => t.ok
  | .tokenAdmit t ch => t.ok && decide (ch < 32)
  | .instanceFire t => t.ok
  | .steerForward t u => t.ok && decide (u < 16)
  | .steerSpeculate t u => t.ok && decide (u < 16)
  | .mergeForward t u => t.ok && decide (u < 16)
  | .neighbourToken j _ _ _ _ => decide (j < 32)
  | .creditStallTimeout t port => t.ok && decide (port < 32)
  | .consumerStallTimeout t ch => t.ok && decide (ch < 32)
  | .jobStopQuiesceEnd j => decide (j < 32)
  | .drydownComplete j => decide (j < 32)
  | .sqWaitTimeout t ts => slotOk t ts
  | .hbWaitTimeout t ts => slotOk t ts
  | .hatbandCrossing line => decide (line < 32)
  | .crossingSeen t k => t.ok && decide (k < 32)
  | .retentionCopyDone t _ => t.ok
  | .routerForward _ _ => true
  | .egressPortTile _ => true
  | .putPacket _ => true
  | .getReq _ => true
  | .raddPacket _ => true
  | .signalPacket _ => true
  | .tokenPacket _ => true
  | .ack _ => true
  | .getResp _ => true
  | .signalResp _ => true
  | .notice _ => true
  | .creditPacket _ => true
  | .nack _ => true
  | .mcastPacket _ => true
  | .redPacket _ => true
  | .mgmtPacket _ => true
  | .scanPacket _ => true
  | .remoteTimeout tm => timerOk tm
  | .seqQuarantineEnd t seq => timerOk (t.timer seq)
  | .creditRepeat t ch => t.ok && decide (ch < 40)
  | .tableWriteDone _ => true
  | .epochChangeTimer j => decide (j < 32)
  | .epochRelease => true
  | .dmaDescriptorStart t q => t.ok && decide (q < 4)
  | .dmaPieceDone engine _ _ _ _ => decide (engine < 96)
  | .dmaComplete engine _ => decide (engine < 96)
  | .hbmScrubRead stack line _ => decide (stack < 24) && decide (line < 1500000000)
  | .portCommit port j => decide (port < 146) && decide (j < 32)
  | .deepChannelForward t f => t.ok && decide (f < 8)
  | .stepConfirm j => decide (j < 32)
  | .gateOpen j => decide (j < 32)
  | .loadJob r _ _ => boxOk r.tr r.box
  | .startJob r _ => boxOk r.tr r.box
  | .startDeliveryDone j => decide (j < 32)
  | .pauseJob r _ _ => boxOk r.tr r.box
  | .boundaryPauseReady j => decide (j < 32)
  | .boundaryPauseTimeout j => decide (j < 32)
  | .pauseQuiesceDone j => decide (j < 32)
  | .pauseScanOutDone j => decide (j < 32)
  | .resumeJob r _ _ => boxOk r.tr r.box
  | .resumeScanInDone j => decide (j < 32)
  | .unloadJobKeep r => boxOk r.tr r.box
  | .unloadJobDiscard r => boxOk r.tr r.box
  | .jobStatus r => boxOk r.tr r.box
  | .drydown r _ _ => boxOk r.tr r.box
  | .rollbackQuiesceDone j => decide (j < 32)
  | .rollbackRestoreDone j => decide (j < 32)
  | .tilePoll t _ => t.ok
  | .takeoverLoadDone j => decide (j < 32)
  | .fieldShort f => decide (f < 48)
  | .replacementScanOutDone j => decide (j < 32)
  | .replacementResumeDone j => decide (j < 32)
  | .fieldTestStart t => t.ok
  | .fieldTestDone t _ => t.ok
  | .fieldTestRetest t _ => t.ok
  | .ledgerInterval _ => true
  | .suspensionEnd f => decide (f < 48)
  | .regulatorStep f => decide (f < 48)
  | .idleEntry => true
  | .setEnvelope r _ _ _ _ => boxOk r.tr r.box
  | .readLedger r _ _ _ _ => boxOk r.tr r.box
  | .powerState r _ => boxOk r.tr r.box
  | .powerTransitionDone => true
  | .standbyEntry => true
  | .inputApplied => true
  | .inputQualified => true
  | .undervoltage => true
  | .standbyDomainStop => true
  | .coolantEmergency => true
  | .caseOvertemp => true
  | .wakeN => true
  | .startConditionsMet => true
  | .moduleStart => true
  | .flaconVerify => true
  | .hbmTrainingDone rs => rs.all (fun r => decide (r.stack < 24))
  | .opticalTrainingDone rs => rs.all (fun r => decide (r.port < 50))
  | .fieldWavePowered wave _ => decide (wave < 6)
  | .neighbourTestDone dis self routers => (dis.map (·.1) ++ dis.map (·.2) ++ self ++ routers).all Pos.ok
  | .mapBuildDone _ => true
  | .firmwareBroadcastDone lacking _ => lacking.flatten.all (fun x => x.1.ok)
  | .flaconFallback => true
  | .hello tr box _ _ _ _ _ => boxOk tr box
  | .identify r => boxOk r.tr r.box
  | .attest r _ => boxOk r.tr r.box
  | .fwStage r _ => boxOk r.tr r.box
  | .fwCommit r => boxOk r.tr r.box
  | .trainLinks r _ _ _ _ => boxOk r.tr r.box
  | .trainLinksDone ss ps => ss.all (fun r => decide (r.stack < 24)) && ps.all (fun r => decide (r.port < 50))
  | .saveTraining r _ _ _ => boxOk r.tr r.box
  | .readEvents r _ _ => boxOk r.tr r.box
  | .mapRead r _ _ => boxOk r.tr r.box
  | .mapRefineApply r _ => boxOk r.tr r.box
  | .mapRefineCommit r _ => boxOk r.tr r.box
  | .setRankTable r _ => boxOk r.tr r.box
  | .hbmCopy r _ _ _ => boxOk r.tr r.box
  | .hbmCopyWrite r _ _ _ => boxOk r.tr r.box
  | .hbmCopyRead r _ _ => boxOk r.tr r.box
  | .testControl r _ _ => boxOk r.tr r.box
  | .malformedFrame tr box _ => boxOk tr box
  | .snapshotExpiry _ => true
  | .doorbellDone n => decide (n < 16)
  | .evrEnable tport _ => decide (tport < 2)
  | .registerWrite tport _ _ => decide (tport < 2)
  | .linkBlock port _ _ => decide (port < 50)
  | .dataFrame port _ _ _ _ => decide (port < 50)
  | .creditFrame port _ => decide (port < 50)
  | .capFrame port _ => decide (port < 50)
  | .laneFrame port _ _ => decide (port < 50)
  | .memReq port _ _ _ _ _ => decide (port < 50)
  | .laneLoss port lane => decide (port < 50) && decide (lane < 8)
  | .laneRepeat port => decide (port < 50)
  | .linkCreditRepeat port => decide (port < 50)
  | .capRepeat port => decide (port < 50)
  | .linkDown port _ => decide (port < 50)
  | .linkRetrain port => decide (port < 50)
  | .linkRetrainDone res => decide (res.port < 50)
  | .discardSummary => true
  | .boundaryRecordWritten t => t.ok
  | .generationProgrammed => true
  | .hbmOrOpticalSupplyFault side _ => decide (side < 4)
  | .stackReportsAbove85C stack _ => decide (stack < 24)
  | .tapInstruction _ => true

end Sys2Proof
end

