-- ==== Sys2Proof/Machine/Channel.lean ====
section
/-! DEFINITION. Operand reads, sends and PREDICT (R200-R202). -/

namespace Sys2Proof.Machine

/-- The declaration of the task a slot runs. -/
def taskOf (t : Tile) (s : Slot) : Option TaskSt := t.flow.tasks.find? (fun x => x.decl.id == s.task)

/-- The payload of an operand of the running instance; none when the task has no such operand (R200). -/
def operandOf (t : Tile) (s : Slot) (q : Nat) : Option (List Byte) :=
  match taskOf t s with
  | none => none
  | some ts =>
    if q < ts.decl.nOps then
      (t.flow.store.find? (fun e => e.task == s.task && e.op == q && e.tok.tag == s.tag)).map (·.tok.data)
    else none

/-- OPRD: word rs1[3:0] of the operand's payload; bytes beyond it read 0 (R200). -/
def execOprd (t : Pos) (ts : Nat) (rd rs1 : Reg) (qid : BitVec 6) : State → Out_ :=
  liftAt (slotOk t ts) (runThread t ts (encQ 0x30 rd rs1 0 0 qid) (fun d =>
    let s := (d.tile t).slot ts
    match operandOf (d.tile t) s (qid.toNat % 4) with
    | none => .fault 0x0104 0
    | some bs =>
      let v : Word := BitVec.ofNat 32 (fieldLe bs (4 * bits (s.g rs1).toNat 0 4) 4)
      .done (d.onTile t (fun x => x.onSlot ts (fun s => s.setG rd v)))))

/-- OPCP: the whole payload to address rs1, its length to rd (R200). -/
def execOpcp (t : Pos) (ts : Nat) (rd rs1 : Reg) (qid : BitVec 6) : State → Out_ :=
  liftAt (slotOk t ts) (runThread t ts (encQ 0x31 rd rs1 0 0 qid) (fun d =>
    let s := (d.tile t).slot ts
    let a := (s.g rs1).toNat
    match operandOf (d.tile t) s (qid.toNat % 4) with
    | none => .fault 0x0104 0
    | some bs =>
      if a % 4 ≠ 0 then .fault 0x0405 0
      else withWrite t ts a bs d (fun d =>
        .done (d.onTile t (fun x => x.onSlot ts (fun s => s.setG rd (BitVec.ofNat 32 bs.length)))))))

/-- The task's out_mask shuts a port out (R155, R201). -/
def maskedOut (t : Tile) (s : Slot) (n : Nat) : Bool :=
  match taskOf t s with
  | some x => x.decl.outMask != 0 && !bit x.decl.outMask n
  | none => false

/-- Packets in the channel send buffer (R166). -/
def sendBuffered (t : Tile) : Nat := (t.net.outs.filter (fun o => o.pkt.ty == .token)).length

/-- A send on an output port: connection, mask, speculation, send buffer, credit, then the token (R167, R175, R201). Its
number must be free too (R259). -/
def sendToken (p : Pos) (ts n : Nat) (tag : Nat) (ref : Bool) (data : List Byte) (d : Dev) : Res :=
  let t := d.tile p
  let s := t.slot ts
  let mark := fun (t : Tile) => t.setPort n { t.port n with waiting := true }
  if maskedOut t s n then .fault 0x0104 0
  else if (t.port n).ci.isNone then .fault 0x0205 0
  else if s.spec.isSome && !portLocal d p n then .wait 4 d
  else if (t.port n).credit = 0 then .wait 2 (d.onTile p mark)
  else if portMesh d p n && (decide (256 ≤ sendBuffered t) || !t.tokenFree n (t.port n).num) then .wait 3 (d.onTile p mark)
  else
    let d := d.onTile p (fun t => t.setPort n { t.port n with credit := (t.port n).credit - 1, waiting := false })
    .done (putToken p n { tag := tag, ref := ref, prov := s.spec, data := data } d)

/-- SEND: header from rs2, payload from address rs1 (R201). -/
def execSend (t : Pos) (ts : Nat) (rs1 rs2 : Reg) (qid : BitVec 6) : State → Out_ :=
  liftAt (slotOk t ts) (runThread t ts (encQ 0x32 0 rs1 rs2 0 qid) (fun d =>
    let s := (d.tile t).slot ts
    let h := (s.g rs2).toNat
    let len := bits h 16 7
    let ref := bit h 23
    if bits h 24 8 ≠ 0 ∨ len > 64 ∨ (ref ∧ len ≠ 8) then .fault 0x0104 0
    else withRead t ts (s.g rs1).toNat len d (fun bs d =>
      if ref ∧ fieldLe bs 6 2 = 0 then .fault 0x0104 0
      else sendToken t ts (bits qid.toNat 0 5) (bits h 0 16) ref bs d)))

/-- SENDR: 0, 1 or 4 bytes of rs1, tag from rs2 (R201). -/
def execSendr (t : Pos) (ts : Nat) (rs1 rs2 : Reg) (qf : BitVec 4) (qid : BitVec 6) : State → Out_ :=
  liftAt (slotOk t ts) (runThread t ts (encQ 0x33 0 rs1 rs2 qf qid) (fun d =>
    let s := (d.tile t).slot ts
    let v := (s.g rs1).toNat
    let go := fun bs => sendToken t ts (bits qid.toNat 0 5) (bits (s.g rs2).toNat 0 16) false bs d
    match bits qf.toNat 0 2 with
    | 0 => go []
    | 1 => go (le 1 v)
    | 2 => go (le 4 v)
    | _ => .fault 0x0104 0))

/-- PREDICT: the predict field of a declared STEER unit (R170, R176, R202). -/
def execPredict (t : Pos) (ts : Nat) (qf : BitVec 4) (qid : BitVec 6) : State → Out_ :=
  liftAt (slotOk t ts) (runThread t ts (encQ 0x34 0 0 0 qf qid) (fun d =>
    let x := d.tile t
    let u := bits qid.toNat 0 4
    let v := bits qf.toNat 0 2
    match x.flow.steers[u]? with
    | none => .fault 0x0104 0
    | some k =>
      if k.decl.merge ∨ (v ≠ 0 ∧ ¬ x.flow.scratch) then .fault 0x0104 0
      else .done (d.onTile t (fun x => { x with flow := { x.flow with
        steers := x.flow.steers.set u { k with predict := v } } }))))

end Sys2Proof.Machine
end

