-- ==== Sys2Proof/Machine/System.lean ====
section
/-! DEFINITION. System instructions and the life of a task instance (R157-R162, R215, R216). -/

namespace Sys2Proof.Machine

/-! ## Windows and instances -/

/-- The base past every tag that has ended, from the base on (R160); `fuel` is the largest window. -/
def advanceBase : Nat → Nat → List Nat → Nat × List Nat
  | 0, b, e => (b, e)
  | n + 1, b, e => if e.contains b then advanceBase n ((b + 1) % 65536) (e.filter (· != b)) else (b, e)

/-- A tag of a task marked as ended: its entries go, the base advances (R160). -/
def endTag (task tag : Nat) (t : Tile) : Tile :=
  { t with flow := { t.flow with
      store := t.flow.store.filter (fun e => !(e.task == task && e.tok.tag == tag))
      tasks := t.flow.tasks.map (fun s =>
        if s.decl.id = task then
          (let r := advanceBase 65 s.base (if s.ended.contains tag then s.ended else tag :: s.ended)
           { s with base := r.1, ended := r.2 })
        else s) } }

/-- A slot freed. -/
def freeSlot (ts : Nat) (t : Tile) : Tile := { t.setSlot ts {} with order := t.order.filter (· != ts) }

/-- A thread ends: its slot and entries are freed and its tag is recorded as ended (R160). -/
def endThread (ts : Nat) (t : Tile) : Tile :=
  let s := t.slot ts
  endTag s.task s.tag (freeSlot ts t)

/-- Distance of a tag from a task's base. -/
def TaskSt.dist (s : TaskSt) (tag : Nat) : Nat := (tag + 65536 - s.base) % 65536

/-- A thread placed in a slot: g1 the tag, g2 the task, g3-g6 the low words of its operands (R159, R206). -/
def fireSlot (ts : Nat) (k : TaskDecl) (tag : Nat) (spec : Option Nat) (ops : List Nat) (t : Tile) : Tile :=
  let regs := (ops.zipIdx).foldl (fun m x => Tab.set m (3 + x.2) (BitVec.ofNat 32 x.1))
    ([(1, BitVec.ofNat 32 tag), (2, BitVec.ofNat 32 k.id)] : Tab Word)
  { t.setSlot ts { st := .running, wait := none, task := k.id, tag := tag, pc := k.entry, regs := regs, ctx := 0, spec := spec } with
    order := t.order.filter (· != ts) ++ [ts] }

/-- The first slot that a task reserves: tasks reserve runs of slots in table order (log 31). -/
def slotBase : List TaskSt → Nat → Nat
  | [], _ => 0
  | s :: r, id => if s.decl.id = id then 0 else s.decl.slots + slotBase r id

/-- The lowest free slot that a task reserves (R158). -/
def freeSlotOf (t : Tile) (k : TaskDecl) : Option Nat :=
  ((List.range k.slots).map (· + slotBase t.flow.tasks k.id)).find? (fun n => (t.slot n).st == .free)

/-! ## The instructions -/

/-- TEND: under a tag the thread halts in its slot until confirmation; else it ends (R160, R175). -/
def execTend (t : Pos) (ts : Nat) : State → Out_ :=
  liftAt (slotOk t ts) (runThread t ts (encA 0x70 0 0 0 0) (fun d =>
    .stay (d.onTile t (fun x =>
      if (x.slot ts).spec.isSome then x.onSlot ts (fun s => { s with st := .halted, wait := none })
      else endThread ts x))))

/-- TRETIRE (R160, R215). -/
def execTretire (t : Pos) (ts : Nat) (rs1 : Reg) (imm : BitVec 10) : State → Out_ :=
  liftAt (slotOk t ts) (runThread t ts (encA 0x71 0 rs1 0 imm) (fun d =>
    let x := d.tile t
    let tag := bits ((x.slot ts).g rs1).toNat 0 16
    let id := bits imm.toNat 0 6
    match x.flow.tasks.find? (fun s => s.decl.id == id) with
    | none => .fault 0x0104 0
    | some s =>
      if s.decl.window ≤ s.dist tag then .fault 0x0104 0
      else if x.slots.any (fun y => y.2.st != .free && y.2.task == id && y.2.tag == tag) then .fault 0x0104 0
      else if s.ended.contains tag then .done d
      else .done (d.onTile t (endTag id tag))))

/-- YIELD (R162). -/
def execYield (t : Pos) (ts : Nat) : State → Out_ :=
  liftAt (slotOk t ts) (runThread t ts (encA 0x72 0 0 0 0) (fun d =>
    .done (d.onTile t (fun x => { x with order := x.order.filter (· != ts) ++ [ts] }))))

/-- The 0x0108 record of R215. -/
def raiseRecord (p : Pos) (ts : Nat) (v : Word) (stopped : Bool) (d : Dev) : Dev :=
  let t := d.tile p
  match d.jobAt p with
  | none => d
  | some j => appendLog 0x0108 1 stopped j.id (rcWord t.rc + 2 ^ 18 * ts) v.toNat ((t.slot ts).pc % 2 ^ 13) d

/-- RAISE as a fault: its record, the fault registers, the stop of the job (R191, R215). -/
def raiseFault (p : Pos) (ts : Nat) (w v : Word) (d : Dev) : Dev :=
  let t := d.tile p
  let s := t.slot ts
  match d.jobAt p with
  | none => d
  | some j =>
    stopJob j.slot 0x0108 t.rc t.step true (raiseRecord p ts v true
      (d.onTile p (fun t => t.recordFault 0x0108 { slot := ts, pc := s.pc, tag := s.tag, insn := w })))

/-- RAISE (R215). -/
def execRaise (t : Pos) (ts : Nat) (rs1 : Reg) (imm : BitVec 10) : State → Out_ :=
  liftAt (slotOk t ts) (runThread t ts (encA 0x73 0 rs1 0 imm) (fun d =>
    let v := ((d.tile t).slot ts).g rs1
    if imm.getLsbD 0 then .stay (raiseFault t ts (encA 0x73 0 rs1 0 imm) v d) else .done (raiseRecord t ts v false d)))

/-- The items of GETS (R216). -/
def getsItem (d : Dev) (p : Pos) (ts i : Nat) : Option Nat :=
  let t := d.tile p
  let s := t.slot ts
  match i with
  | 0 => some ts
  | 1 => some s.task
  | 2 => some s.ctx.toNat
  | 3 => some t.step
  | 4 => some (rcWord t.rc)
  | 5 => some t.rank
  | 6 => some (match d.jobAt p with
      | some j => 15 * j.img.w % 512 + 512 * j.img.h
      | none => 0)
  | 7 => some p.kind
  | _ => none

/-- GETS (R216). -/
def execGets (t : Pos) (ts : Nat) (rd : Reg) (imm : BitVec 10) : State → Out_ :=
  liftAt (slotOk t ts) (runThread t ts (encA 0x74 rd 0 0 imm) (fun d =>
    match getsItem d t ts (bits imm.toNat 0 4) with
    | none => .fault 0x0104 0
    | some v => regOp t ts rd (fun _ => BitVec.ofNat 32 v) d))

/-- SCAN: tile firmware only; in a job's program it faults (R188). -/
def execScan (t : Pos) (ts : Nat) : State → Out_ :=
  liftAt (slotOk t ts) (runThread t ts (encA 0x75 0 0 0 0) (fun _ => .fault 0x0104 0))

end Sys2Proof.Machine
end

