-- ==== Sys2Proof/Machine/Operand.lean ====
section
/-! DEFINITION. Operands of tensor operations: layouts, extents, sparse forms, channel streams, reads of a segment
(R62, R80, R81, R132-R142). -/

namespace Sys2Proof.Machine

/-- Bytes of a Compute tile's memory. -/
def tileBytes : Nat := 0x40000

/-- The block of a scale code (R61). -/
def sBlock (sc : Nat) : Nat := if sc = 1 then 16 else 32

/-- Scale bytes of a row or column (R62). -/
def sStride (k sc : Nat) : Nat := roundUp (cdiv k (sBlock sc)) 4

/-- Elements and slots of an N:M group, bytes of its metadata: 1 is 2:4, 2 is 4:8 (R132-R134). -/
def nmGroup (code : Nat) : Nat := if code = 1 then 4 else 8
def nmSlots (code : Nat) : Nat := if code = 1 then 2 else 4
def nmMeta (code : Nat) : Nat := if code = 1 then 1 else 2

/-- Compressed row length in elements (R132) and metadata row in bytes (R134). -/
def nmRow (code k : Nat) : Nat := cdiv k (nmGroup code) * nmSlots code
def nmMetaRow (code k : Nat) : Nat := roundUp (cdiv k (nmGroup code) * nmMeta code) 16

/-- Entries of a block line (R138). -/
def lineEntries (k : Nat) : Nat := cdiv (cdiv k 16) 16

/-- One operand of a descriptor: byte addresses, format, scale code, lines (rows of A, columns of B), length along K,
source, sparse code, metadata. -/
structure Opnd where
  base : Nat
  ld : Nat
  sbase : Nat
  fmt : Nat
  sc : Nat
  lines : Nat
  k : Nat
  stream : Bool
  addr : Nat
  sparse : Nat
  info : Nat
  deriving DecidableEq, Repr

def opndA (t : TDesc) : Opnd :=
  { base := 16 * t.aAddr, ld := 16 * t.aLd, sbase := 16 * t.asAddr, fmt := t.aFmt, sc := t.aSc, lines := t.m
    k := t.k, stream := t.aSrc, addr := t.aAddr, sparse := if t.sparseB then 0 else t.sparse, info := 16 * t.metaAddr }

def opndB (t : TDesc) : Opnd :=
  { base := 16 * t.bAddr, ld := 16 * t.bLd, sbase := 16 * t.bsAddr, fmt := t.bFmt, sc := t.bSc, lines := t.n
    k := t.k, stream := t.bSrc, addr := t.bAddr, sparse := if t.sparseB then t.sparse else 0, info := 16 * t.metaAddr }

/-- A stride or a range of the operand fails (R93, R131). A block-sparse operand has no row stride: R93's check of a_ld and b_ld
is not made of it (DESIGN CHOICE, log 179). -/
def Opnd.badExtent (o : Opnd) (nblk : Nat) : Bool :=
  let sz := fmtSize o.fmt
  let row := if o.sparse = 1 ∨ o.sparse = 2 then nmRow o.sparse o.k * sz else o.k * sz
  let values :=
    if o.stream then false
    else if o.sparse = 3 then decide (tileBytes < o.base + nblk * 256 * sz)
    else decide (o.ld < row ∨ tileBytes < o.base + (o.lines - 1) * o.ld + row)
  let metas :=
    if o.sparse = 0 then false
    else if o.sparse = 3 then decide (tileBytes < o.info + 16 + cdiv o.lines 16 * lineEntries o.k * 48)
    else decide (tileBytes < o.info + o.lines * nmMetaRow o.sparse o.k)
  let scales :=
    if o.sc = 0 then false
    else if o.sparse = 3 then decide (tileBytes < o.sbase + nblk * 16)
    else decide (tileBytes < o.sbase + o.lines * sStride o.k o.sc)
  values || metas || scales

/-- The scale byte of an element in the layout of R62. -/
def Opnd.scale (m : Mem) (o : Opnd) (l k : Nat) : Option Nat :=
  if o.sc = 0 then none else some (m.read (o.sbase + l * sStride o.k o.sc + k / sBlock o.sc)).toNat

/-- The scale bytes that `n` elements of a line from index k0 take. -/
def Opnd.scaleRange (o : Opnd) (l k0 n : Nat) : List (Nat × Nat) :=
  if o.sc = 0 ∨ n = 0 then []
  else [(o.sbase + l * sStride o.k o.sc + k0 / sBlock o.sc, (k0 + n - 1) / sBlock o.sc - k0 / sBlock o.sc + 1)]

/-- The metadata word of a group of a line. -/
def Opnd.groupWord (m : Mem) (o : Opnd) (l g : Nat) : Nat :=
  m.readLe (o.info + l * nmMetaRow o.sparse o.k + g * nmMeta o.sparse) (nmMeta o.sparse)

/-- The slots in use of a group with their positions: counts above N count as N (R133-R135, R142). -/
def nmIndices (code w : Nat) : List Nat :=
  if code = 1 then (List.range (min 2 (bits w 4 2))).map (fun s => bits w (2 * s) 2)
  else (List.range (min 4 (bits w 12 3))).map (fun s => bits w (3 * s) 3)

/-- The stored elements of a line of an N:M operand in `n` indices from k0; an index at or beyond K has none
(R135, R142). -/
def Opnd.nmLine (m : Mem) (o : Opnd) (l k0 n : Nat) : Line :=
  let gm := nmGroup o.sparse
  let sz := fmtSize o.fmt
  ((List.range (cdiv n gm)).map (fun i =>
    let g := k0 / gm + i
    ((nmIndices o.sparse (o.groupWord m l g)).zipIdx).filterMap (fun (x, s) =>
      let k := gm * g + x
      if k < o.k then some (k, m.readLe (o.base + l * o.ld + (g * nmSlots o.sparse + s) * sz) sz, o.scale m l k)
      else none))).flatten

/-- The value-block index of a K-block of a line, none when it is absent (R138, R139, R142). -/
def Opnd.block (m : Mem) (o : Opnd) (nblk l kb : Nat) : Option Nat :=
  let e := o.info + 16 + (l / 16 * lineEntries o.k + kb / 16) * 48
  if nblk = 0 ∨ !bit (m.readLe e 2) (kb % 16) then none
  else some (m.readLe (e + 16 + 2 * (kb % 16)) 2 % nblk)

/-- The stored elements of a line of a block-sparse operand in K-block kb (R137, R139). -/
def Opnd.blockLine (m : Mem) (o : Opnd) (nblk l kb : Nat) : Line :=
  match o.block m nblk l kb with
  | none => []
  | some b =>
    let sz := fmtSize o.fmt
    (List.range (min 16 (o.k - 16 * kb))).map (fun i =>
      (16 * kb + i, m.readLe (o.base + b * 256 * sz + (l % 16 * 16 + i) * sz) sz,
        if o.sc = 0 then none else some (m.read (o.sbase + b * 16 + l % 16)).toNat))

/-- The elements of a line of an operand in tile memory, `n` indices from k0. -/
def Opnd.line (m : Mem) (o : Opnd) (nblk l k0 n : Nat) : Line :=
  let sz := fmtSize o.fmt
  if o.sparse = 0 then
    (List.range n).map (fun i => (k0 + i, m.readLe (o.base + l * o.ld + (k0 + i) * sz) sz, o.scale m l (k0 + i)))
  else if o.sparse = 3 then o.blockLine m nblk l (k0 / 16)
  else o.nmLine m l k0 n

/-- The byte ranges that reading those elements touches. Every slot of an N:M group is read, the slots that hold no element too,
so that a double-bit error in one raises 0x0401 (DESIGN CHOICE, log 179). -/
def Opnd.ranges (m : Mem) (o : Opnd) (nblk l k0 n : Nat) : List (Nat × Nat) :=
  let sz := fmtSize o.fmt
  if o.sparse = 0 then (o.base + l * o.ld + k0 * sz, n * sz) :: o.scaleRange l k0 n
  else if o.sparse = 3 then
    let e := o.info + 16 + (l / 16 * lineEntries o.k + k0 / 256) * 48
    (e, 2) :: (match o.block m nblk l (k0 / 16) with
      | none => []
      | some b => [(e + 16 + 2 * (k0 / 16 % 16), 2), (o.base + b * 256 * sz + l % 16 * 16 * sz, 16 * sz)]
          ++ (if o.sc = 0 then [] else [(o.sbase + b * 16 + l % 16, 1)]))
  else
    let gm := nmGroup o.sparse
    [(o.info + l * nmMetaRow o.sparse o.k + k0 / gm * nmMeta o.sparse, cdiv n gm * nmMeta o.sparse),
     (o.base + l * o.ld + k0 / gm * nmSlots o.sparse * sz, cdiv n gm * nmSlots o.sparse * sz)] ++ o.scaleRange l k0 n

/-- Ranges read by a unit of the tile: none on a double-bit error (0x0401), single-bit errors corrected (R76). -/
def Tile.sweep (rs : List (Nat × Nat)) (t : Tile) : Option Tile :=
  let ws := (rs.map (fun r => wordsOf r.1 r.2)).flatten.eraseDups
  if ws.any t.bad.contains then none else some (t.scrub ws)

/-! ## Channel operands (R81) -/

/-- Bytes taken from a channel's stream. -/
inductive Taken where
  /-- Not enough bytes have come, or the next token is provisional under another tag: what could be read. -/
  | short (bs : List Byte) (gone off : Nat)
  /-- A reference token stands in the stream (0x0104). -/
  | reference
  /-- The bytes, the tokens fully read, the bytes read of the next one. -/
  | got (bs : List Byte) (gone off : Nat)
  deriving DecidableEq, Repr

/-- A token that a unit working under a tag (or under none) may consume. -/
def Token.openTo (own : Option Nat) (k : Token) : Bool := k.prov.isNone || k.prov == own

/-- `need` bytes of the stream from byte `off` of the first token (R81). -/
def takeStream (own : Option Nat) : List Token → Nat → Nat → List Byte → Nat → Taken
  | [], off, need, acc, gone => if need = 0 then .got acc gone off else .short acc gone off
  | k :: r, off, need, acc, gone =>
    if need = 0 then .got acc gone off
    else if !k.openTo own then .short acc gone off
    else if k.ref then .reference
    else if need < k.data.length - off then .got (acc ++ slice k.data off need) gone (off + need)
    else takeStream own r 0 (need - (k.data.length - off)) (acc ++ k.data.drop off) (gone + 1)

/-- What reading a segment gives: the bytes read so far of one that is not whole, or its lines. -/
inductive Feed where
  | wait (buf : List Byte) (d : Dev)
  | fault (code : Nat)
  | got (ls : List Line) (d : Dev)

/-- A stream's bytes as lines of `n` elements from index k0, with their scales from tile memory. -/
def streamLines (m : Mem) (o : Opnd) (l0 lines k0 n : Nat) (bs : List Byte) : List Line :=
  let cs := elems o.fmt bs
  (List.range lines).map (fun i =>
    (List.range n).map (fun j => (k0 + j, cs.getD (i * n + j) 0, o.scale m (l0 + i) (k0 + j))))

/-- A feeder has read tokens of a channel: those read in full have left it, and their credits go back (R167). -/
def readOff (p : Pos) (ch gone off : Nat) (d : Dev) : Dev :=
  let d := d.onTile p (fun t => t.setChan ch { t.chan ch with toks := (t.chan ch).toks.drop gone, off := off })
  if gone = 0 then d else returnCredit p ch gone d

/-- A segment of an operand: lines l0 to l0 + lines − 1, `n` indices from k0; `buf` holds what was read of it before (R80,
R81). Ranges in scratch lines of another tag wait until it resolves (R179). -/
def feed (p : Pos) (own : Option Nat) (o : Opnd) (nblk l0 lines k0 n : Nat) (buf : List Byte) (d : Dev) : Feed :=
  let t := d.tile p
  let rs := ((List.range lines).map (fun i =>
    if o.stream then o.scaleRange (l0 + i) k0 n else o.ranges t.mem nblk (l0 + i) k0 n)).flatten
  if rs.any (fun r => rangeForeign t own r.1 r.2) then .wait buf d
  else if o.stream then
    let ch := o.addr % 32
    let c := t.chan ch
    match takeStream own c.toks c.off (lines * n * fmtSize o.fmt - buf.length) buf 0 with
    | .short bs gone off => .wait bs (readOff p ch gone off d)
    | .reference => .fault 0x0104
    | .got bs gone off =>
      match t.sweep rs with
      | none => .fault 0x0401
      | some t' => .got (streamLines t.mem o l0 lines k0 n bs) (readOff p ch gone off (d.setTile p t'))
  else
    match t.sweep rs with
    | none => .fault 0x0401
    | some t' => .got ((List.range lines).map (fun i => o.line t.mem nblk (l0 + i) k0 n)) (d.setTile p t')

end Sys2Proof.Machine
end

