-- ==== Sys2Proof/Machine/Issue.lean ====
section
/-! DEFINITION. The tensor instructions and the checks at issue (R86, R92, R93, R98, R131, R210-R213, R470). -/

namespace Sys2Proof.Machine

/-! ## Finishing sets (FIN_*, FUL_*) -/

/-- A register of a finishing set, read by a drain that is yet to start. -/
def finReg (t : Tile) (fin off : Nat) : Nat := (t.ctlReg (0x100 + 0x40 * fin + off)).toNat

/-- The fields of a control word. -/
structure FinCw where
  fmt : Nat
  sc : Nat
  rnd : Nat
  stream : Nat
  scaleMode : Nat
  bias : Bool
  res : Bool
  act : Nat
  hist : Bool
  bank : Nat
  ful : Nat
  deriving DecidableEq, Repr

def finCw (w : Nat) : FinCw :=
  { fmt := bits w 0 4, sc := bits w 4 2, rnd := bits w 6 2, stream := bits w 8 8, scaleMode := bits w 16 2
    bias := bit w 18, res := bit w 19, act := bits w 20 3, hist := bit w 23, bank := bits w 24 2, ful := bits w 26 2 }

/-- The fulling mode of a set; none when fulling is off (R146). -/
def fulMode (t : Tile) (c : FinCw) : Option Nat :=
  if c.ful = 0 then none else some (bits (t.ctlReg (0x300 + 0x10 * c.ful)).toNat 0 2)

/-- A control word that R106 or R149 calls invalid. -/
def badCw (narrow : Bool) (c : FinCw) (mode : Option Nat) : Bool :=
  !fmtOk c.fmt || c.sc == 3 || c.rnd == 3 || c.scaleMode == 3 || decide (6 ≤ c.act)
    || (c.sc != 0 && !(c.fmt == 0 || c.fmt == 1 || c.fmt == 5)) || (c.res && narrow)
    || (c.sc == 2 && (mode == some 0 || mode == some 1))

/-- The destination ranges of a drain fail (R93, R131, R470): `n` columns to write, layout width `w`, `rows` rows from
output row 0. A reserved destination format has no widths and fails when the drain starts (R106). -/
def badDst (t : Tile) (fin dst ld n w rows : Nat) : Bool :=
  let c := finCw (finReg t fin 0)
  let sz := fmtSize c.fmt
  let mode := fulMode t c
  let ful := (t.ctlReg (0x300 + 0x10 * c.ful)).toNat
  let info := 16 * bits ful 2 14
  let osc := 16 * bits (finReg t fin 0x18) 16 14
  let blocks := mode == some 0 || mode == some 1
  let nm := if mode == some 2 then 1 else 2
  let row := if mode == some 2 || mode == some 3 then nmRow nm n * sz else n * sz
  let cap := bits (t.ctlReg (0x308 + 0x10 * c.ful)).toNat 16 12
  if !fmtOk c.fmt then false
  else
    decide (ld < row) || (!blocks && decide (tileBytes < dst + (rows - 1) * ld + row))
      || (blocks && decide (tileBytes < 16 * bits ful 16 14 + cap * 256 * sz
            ∨ tileBytes < info + 16 + cdiv rows 16 * lineEntries w * 48))
      || ((mode == some 2 || mode == some 3) && decide (tileBytes < info + rows * nmMetaRow nm w))
      || (c.sc != 0 && c.sc != 3 && (if blocks then decide (tileBytes < osc + cap * 16)
            else decide (tileBytes < osc + rows * sStride w c.sc)))

/-! ## TOP (R93, R98, R131) -/

/-- An operand format the multipliers take (R52, R53). -/
def mulFmt (f : Nat) : Bool := decide (f ≤ 3 ∨ f = 5)

/-- INT8 on both operands and no scales: an INT32 accord (R53). -/
def TDesc.int (t : TDesc) : Bool := t.aFmt == 5 && t.bFmt == 5 && t.aSc == 0 && t.bSc == 0

/-- Bytes of a mask row (R152). -/
def maskLd (n : Nat) : Nat := 16 * cdiv n 2048

/-- A check of R93 or R131 that is reported as 0x0104 fails. -/
def badDesc (t : Tile) (e : TDesc) (nblk : Nat) : Bool :=
  let a := opndA e
  let b := opndB e
  let scout := e.mode == 2
  let eight : Nat → Bool := fun f => f == 0 || f == 1 || f == 5
  !fmtOk e.aFmt || !fmtOk e.bFmt || e.aSc == 3 || e.bSc == 3 || e.mode == 3
    || (e.aSc != 0 && !eight e.aFmt) || (e.bSc != 0 && !eight e.bFmt)
    || !mulFmt e.aFmt || !mulFmt e.bFmt || ((e.aFmt == 5) != (e.bFmt == 5))
    || (e.sparse != 0 && e.mode != 0) || (scout && e.useMask)
    || (scout && (!eight e.aFmt || !eight e.bFmt || (e.scoutK == 0 && !e.scoutSel)))
    || (!scout && decide (7 < e.accId + e.cnt - 1))
    || (!scout && decide (32 * e.cnt < e.m ∨ 32 < e.n) && !(e.init && e.drain))
    || (e.aSrc && decide (32 ≤ e.aAddr)) || (e.bSrc && decide (32 ≤ e.bAddr))
    || (e.sparse != 0 && (if e.sparseB then e.bSrc else e.aSrc)) || (scout && (e.aSrc || e.bSrc))
    || (e.sparse == 3 && (if e.sparseB then e.bSc else e.aSc) == 2)
    || a.badExtent nblk || b.badExtent nblk
    || ((e.useMask || scout) && decide (tileBytes < 16 * e.maskAddr + e.m * maskLd e.n))
    || (!scout && e.drain && badDst t e.finSel (16 * e.dstAddr) (16 * e.dstLd) e.n e.n e.m)

/-- A provisional scout whose mask leaves the scratch window (R98). -/
def scoutOutside (e : TDesc) : Bool :=
  e.mode == 2 && decide (16 * e.maskAddr < 0x3C000 ∨ 0x40000 < 16 * e.maskAddr + e.m * maskLd e.n)

/-- An entry at the end of the issue queue. -/
def enqueue (p : Pos) (ts : Nat) (w : QWork) (d : Dev) : Dev :=
  d.onTile p (fun t =>
    let e : QEntry := { work := w, spec := (t.slot ts).spec, step := t.step, running := false, prog := {}, mask := []
                        draining := false }
    { t with tensor := { t.tensor with queue := t.tensor.queue ++ [e] } })

/-- The queue holds four entries (R78). -/
def queueFull (t : Tile) : Bool := decide (4 ≤ t.tensor.queue.length)

/-- The header of a block-sparse operand (R131, R138). -/
def readNblk (p : Pos) (ts : Nat) (e : TDesc) (d : Dev) (k : Nat → Dev → Res) : Res :=
  if e.sparse = 3 ∧ e.mode = 0 then withRead p ts (16 * e.metaAddr) 16 d (fun bs d => k (ofLe (bs.take 2)) d) else k 0 d

/-- TOP on a Compute tile (R78, R93, R98, R131). -/
def topOp (t : Pos) (ts : Nat) (rs1 : Reg) (d : Dev) : Res :=
  let a := (((d.tile t).slot ts).g rs1).toNat
  if a % 16 ≠ 0 then .fault 0x0405 0
  else if queueFull (d.tile t) then .wait 5 d
  else withRead t ts a 32 d (fun bs d =>
    let ws := wordsLe bs
    let e := tdesc ws
    readNblk t ts e d (fun nblk d =>
      if badDesc (d.tile t) e nblk then .fault 0x0104 0
      else if e.mode = 1 ∧ ¬ (d.tile t).granted then .fault 0x0105 0
      else if e.prov != ((d.tile t).slot ts).spec.isSome then .fault 0x0603 0
      else if e.prov ∧ scoutOutside e then .fault 0x0602 0
      else .done (enqueue t ts (.tensor ws nblk) d)))

/-! ## DRAIN, DISCARD, TWAIT (R97, R211, R213, R470) -/

/-- The fields of DRAIN (R211). -/
structure DrainForm where
  acc : Nat
  fin : Nat
  dst : Nat
  rows : Nat
  cols : Nat
  ld : Nat
  m0 : Nat
  n0 : Nat
  deriving DecidableEq, Repr

def drainForm (insn rd rs1 rs2 : Word) : DrainForm :=
  { acc := bits insn.toNat 0 3, fin := bits insn.toNat 3 2, dst := rs1.toNat
    rows := bits rs2.toNat 0 5 + 1, cols := bits rs2.toNat 5 5 + 1, ld := 16 * bits rs2.toNat 10 12
    m0 := bits rd.toNat 0 12, n0 := bits rd.toNat 12 12 }

/-- The row capacity Nr (R470). -/
def rowCapacity (t : Tile) (fin ld : Nat) : Nat :=
  let c := finCw (finReg t fin 0)
  let nr := ld / fmtSize c.fmt
  if fulMode t c == some 2 || fulMode t c == some 3 then 2 * nr else nr

/-- DRAIN (R211, R470). -/
def execDrain (t : Pos) (ts : Nat) (rd rs1 rs2 : Reg) (imm : BitVec 10) : State → Out_ :=
  liftAt (slotOk t ts) (runThread t ts (encA 0x61 rd rs1 rs2 imm) (fun d =>
    let x := d.tile t
    let s := x.slot ts
    let w := encA 0x61 rd rs1 rs2 imm
    let f := drainForm w (s.g rd) (s.g rs1) (s.g rs2)
    if f.dst % 16 ≠ 0 then .fault 0x0405 0
    else if 4096 < f.m0 + f.rows ∨ 4096 < f.n0 + f.cols then .fault 0x0104 0
    else if badDst x f.fin f.dst f.ld (f.n0 + f.cols) (rowCapacity x f.fin f.ld) (f.m0 + f.rows) then .fault 0x0104 0
    else if queueFull x then .wait 5 d
    else .done (enqueue t ts (.drain w (s.g rd) (s.g rs1) (s.g rs2)) d)))

/-- DISCARD (R97). -/
def execDiscard (t : Pos) (ts : Nat) (imm : BitVec 10) : State → Out_ :=
  liftAt (slotOk t ts) (runThread t ts (encA 0x62 0 0 0 imm) (fun d =>
    if queueFull (d.tile t) then .wait 5 d
    else .done (enqueue t ts (.discard (encA 0x62 0 0 0 imm)) d)))

/-- An entry names an accord (R213). -/
def QEntry.names (e : QEntry) (a : Nat) : Bool :=
  match e.work with
  | .tensor ws _ => let x := tdesc ws; decide (x.accId ≤ a ∧ a < x.accId + x.cnt)
  | .drain w _ _ _ => bits w.toNat 0 3 == a
  | .discard w => bits w.toNat 0 3 == a

/-- TWAIT (R213). -/
def execTwait (t : Pos) (ts : Nat) (imm : BitVec 10) : State → Out_ :=
  liftAt (slotOk t ts) (runThread t ts (encA 0x63 0 0 0 imm) (fun d =>
    let x := d.tile t
    let a := bits imm.toNat 0 3
    if imm.getLsbD 3 then
      (if a ≠ 0 then .fault 0x0104 0 else if x.tensor.queue.isEmpty then .done d else .wait 10 d)
    else if x.tensor.queue.any (fun e => e.names a) || (x.acc a).st == .draining || (x.acc a).st == .drainPending then
      .wait 10 d
    else .done d))

end Sys2Proof.Machine
end

