-- ==== Sys2Proof/Machine/Layout.lean ====
section
/-! DEFINITION. Sizes of boundary records and images of a tile (R318, R319, R337, R472), and the bytes of a drydown
(R237, R238). -/

namespace Sys2Proof.Machine

/-! ## Sizes -/

/-- The state-image part of a boundary record with a duplicate filter of `k` entries (R472). -/
def recordSize (i : Image) (r : TileRec) (k : Nat) : Nat :=
  let c := r.kind = 0
  64 + 160 * (r.tasks.map (·.slots)).sum + 272 * r.sqs.length + 16 * i.nLines + 16 * r.tasks.length + 16 * 32 + 16 * 32
    + 8 * (r.tasks.map (fun t => t.window * t.nOps)).sum + 32 * r.steers.length + (if r.spec then 272 else 0)
    + (if c then 256 + 320 + 4 * 544 else 0) + 20 * 8 + 128 + 4 * k + 256

/-- The record of a host that has no TILES record: no tasks, queues or units (R472). -/
def bareRec (c : RC) : TileRec :=
  { rc := c, kind := rcKind c.rx, accords := 0, sqExp := 0, enrol := 0, maxInflight := 4096, blocked := false
    spec := false, prog := [], memUsed := 0, tasks := [], steers := [], sqs := [], segs := [], tables := [] }

/-- The TILES record of a tile of the job, or the bare one. -/
def Job.recOf (j : Job) (c : RC) : TileRec := (j.rec? c).getD (bareRec c)

/-- A bulk record (R319). -/
def bulkSize (t : Tile) : Nat :=
  4104 * ((List.range 8).filter (fun n => (t.acc n).st != .free)).length
    + 72 * (t.flow.store.length + (t.flow.chans.map (fun x => x.2.toks.length)).sum
      + (t.flow.steers.map (fun u => u.data.length + u.ctl.length + u.kept.length)).sum
      + (t.net.outs.filter (fun o => o.pkt.ty == .token)).length)
    + 32 * (t.net.outs.filter (fun o => o.pkt.ty != .token)).length + 16 * t.net.sigs.length + 256 * t.net.red.length

/-- The FIFOs and queues that a Store tile hosts, at their full size: its channel record (R337). -/
def chanRecordSize (i : Image) (c : RC) : Nat :=
  ((i.chans.filter (fun x => decide (64 < x.depth) && x.host == c)).map (fun x => 80 * (x.depth - 64))).sum
    + 32 * 64 * (i.dmaqs.filter (fun q => q.host == c)).length

/-- Bytes that the spec leaves open, the same count as were asked for (R276, log 10). -/
def openBytes (n : Nat) (d : Dev) : List Byte × Dev :=
  (padTo n (Config.freeBytes d.freeCtr), { d with freeCtr := d.freeCtr + 1 })

/-! ## Starved feeders (R81, R183) -/

/-- Segments of an operation along K (R80, R87). -/
def segWidth (e : TDesc) : Nat := if e.mode = 1 then 32 else 16
def segCount (e : TDesc) : Nat := cdiv e.k (segWidth e)

/-- The feeder of B still has a segment to read: none is in the buffer, or a weight register is free. -/
def wantsB (e : TDesc) (g : Progress) : Bool :=
  if e.mode = 1 then decide (g.bSegs.length < 2 ∧ g.ks + g.bSegs.length < segCount e) else g.bSegs.isEmpty

/-- A running operation whose feeder waits on a stream channel that is empty: the tokens that came are read, the segment lacks
bytes (R81, R183). It answers the operation's descriptor word with the mode. -/
def starved (t : Tile) (ch : Nat) : Option Word :=
  match t.tensor.queue with
  | q :: _ =>
    (match q.work with
    | .tensor ws _ =>
      let e := tdesc ws
      if q.running && !q.prog.ended && (t.chan ch).kind == 3 && (t.chan ch).toks.isEmpty
          && ((e.aSrc && e.aAddr == ch) || (e.bSrc && e.bAddr == ch && wantsB e q.prog)) then some (ws.getD 6 0) else none
    | _ => none)
  | [] => none

/-! ## The drydown (R237, R238) -/

/-- A list of free 32-bit values (log 10). -/
def freeNats : Nat → Dev → List Nat × Dev
  | 0, d => ([], d)
  | n + 1, d => let r := freeNats n d.free.2; (d.free.1.toNat :: r.1, r.2)

/-- A count of pacer periods, which the model does not keep: free where a counter runs, 0 where none does (log 11). -/
def counterBytes (on : Bool) (v : Nat) : List Byte := le 4 (if on then v else 0)

/-- The slot section's entry. -/
def drySlot (t : Tile) (n v : Nat) : List Byte :=
  let s := t.slot n
  let timed := match s.wait with
    | some (.sqHead _ _) => true
    | some (.line _ _) => true
    | some (.retry c _) => c == 6 || c == 7
    | _ => false
  le 4 (slotStateReg s) ++ le 2 s.pc ++ le 2 0 ++ counterBytes timed v ++ le 4 s.ctx.toNat

/-- The sync-queue section's entry. -/
def drySq (t : Tile) (kind n : Nat) : List Byte :=
  if n < kindSqs kind then
    let s := t.sq n
    le 4 (sqStateReg s) ++ le 4 (s.puts % 65536 + 65536 * s.gets) ++ le 4 (s.nPut % 65536 + 65536 * s.nGet)
      ++ le 4 ((s.toks.head?.getD 0).toNat)
  else List.replicate 16 0

/-- The region coordinate that an address names, as an endpoint word; the source of a held signal or the target of a
reduction. -/
def Dev.rcAt (d : Dev) (a : Addr) : Nat :=
  match a with
  | .phys p => rcWord (d.tile p).rc
  | .logical lx ly => match d.map.physicalOf lx ly with
    | some p => rcWord (d.tile p).rc
    | none => 0
  | .region c => rcWord c
  | .port _ => 0

/-- The held-signal section's entry: the sender's rank is that of its device (R238). -/
def drySig (d : Dev) (t : Tile) (h : HeldSig) : List Byte :=
  le 4 h.count ++ le 4 h.value.toNat ++ le 4 (d.rcAt h.pkt.src + 2 ^ 18 * (h.queue % 64) + 2 ^ 24 * (h.counter % 16))
    ++ le 4 ((if h.pkt.xdev then h.pkt.rank else t.rank) % 2 ^ 17)

/-- The remote-operation section's entry. -/
def dryOut (t : Tile) (o : Out) (v : Nat) : List Byte :=
  le 2 o.pkt.seq ++ le 1 o.op ++ le 1 (1 + flagAt o.reissued 1) ++ le 4 o.target
    ++ le 4 (if o.pkt.xdev then o.pkt.rank else t.rank) ++ counterBytes o.timer v

/-- A tile record (R238); its counters of pacer periods are free values. -/
def dryRecord (d : Dev) (p : Pos) : List Byte × Dev :=
  let t := d.tile p
  let k := p.kind
  let outs := t.net.outs.filter (fun o => o.pkt.ty != .token)
  let nSlots := kindSlots k
  let (fs, d') := freeNats (nSlots + 65 + outs.length) d
  let f := fun i => fs.getD i 0
  let hbWait := t.slots.any (fun x => match x.2.wait with
    | some (.line _ _) => true
    | some (.retry c _) => c == 7
    | _ => false)
  let head := ([(tileInfoReg t k), t.step, t.faultInfo.toNat, t.faultPc.toNat, t.faultInsn.toNat, tqStatusReg t,
      accStateReg t, specStatusReg t, t.sync.enrol.toNat, t.sync.pending.toNat, hbGateReg d p].flatMap (le 4))
    ++ counterBytes hbWait (f 0) ++ le 2 t.flow.store.length ++ le 1 nSlots ++ le 1 (kindSqs k) ++ le 1 (kindTasks k)
    ++ le 1 0 ++ le 2 t.net.sigs.length ++ le 2 outs.length ++ le 2 t.sync.sigOut ++ le 4 0
  (head ++ ((List.range nSlots).flatMap (fun n => drySlot t n (f (1 + n))))
    ++ ((List.range (kindSqs k)).flatMap (drySq t k))
    ++ ((List.range 16).flatMap (fun c => le 4 (t.net.cc.get 0 c).toNat
        ++ le 4 (t.net.sigs.filter (fun h => h.counter == c && h.count != 0)).length))
    ++ ((List.range 32).flatMap (fun n => le 4 (chStateReg t n)
        ++ counterBytes (starved t n).isSome (f (1 + nSlots + n))))
    ++ ((List.range 32).flatMap (fun n => le 4 (oportReg d p n) ++ counterBytes (t.port n).waiting (f (33 + nSlots + n))))
    ++ ((List.range (kindTasks k)).flatMap (fun n => le 4 (taskStateReg t n)))
    ++ t.net.sigs.flatMap (drySig d t)
    ++ ((outs.zipIdx).flatMap (fun (o, i) => dryOut t o (f (65 + nSlots + i)))), d')

/-- A coordinate put in its place in directory order. -/
def insertRc (c : RC) : List RC → List RC
  | [] => [c]
  | x :: r => if rcLe c x then c :: x :: r else x :: insertRc c r

/-- The tiles of a job in directory order (R237). -/
def Image.ordered (i : Image) : List RC := i.members.foldl (fun l c => insertRc c l) []

/-- Records in directory order as far as they fit: (coordinate, record) or the coordinate alone. -/
def dryRecords : List (RC × Pos) → Nat → Bool → Dev → List (RC × Pos × List Byte) × Dev
  | [], _, _, d => ([], d)
  | (c, p) :: r, room, fits, d =>
    let (bs, d) := dryRecord d p
    let ok := fits && decide (bs.length ≤ room)
    let (l, d) := dryRecords r (if ok then room - bs.length else room) ok d
    ((c, p, if ok then bs else []) :: l, d)

/-- The line section's entry: gates as they stood before the stop (R228, R237). -/
def dryLine (d : Dev) (j : Job) (k : Nat) : List Byte :=
  let ps := j.places d.map
  let en := ps.filter (fun p => decide (k < j.img.nLines) && (d.tile p).sync.enrol.getLsbD k)
  le 1 k ++ le 1 (j.lines.getD k 0) ++ le 1 (if j.preGates.getD k false then 0 else 1) ++ le 1 0 ++ le 4 en.length
    ++ le 4 (en.filter (fun p => (d.tile p).sync.pending.getLsbD k)).length ++ le 4 (j.crossed.get 0 k)

/-- The bytes that the header, the line section and the directory take (R236). -/
def dryFixed (i : Image) : Nat := 128 + 16 * i.nLines + 16 * i.members.length

/-- The header of a drydown (R237). -/
def dryHeader (j : Job) (truncated : Bool) (tDone tiles records total area crc : Nat) : List Byte :=
  [0x44, 0x52, 0x59, 0x44, 1, 0] ++ le 2 (flagAt truncated 0 + flagAt j.hostDump 1 + flagAt j.afterHalt 2) ++ le 4 j.id
    ++ le 2 j.trigger ++ le 2 0 ++ le 4 (rcWord j.trigTile) ++ le 4 j.trigStep ++ le 8 j.tTrigger ++ le 8 tDone
    ++ le 4 tiles ++ le 4 records ++ le 8 (128 + 16 * j.img.nLines) ++ le 8 total ++ le 4 j.late ++ le 4 j.img.nLines
    ++ le 8 128 ++ le 8 area ++ List.replicate 36 0 ++ le 4 crc

/-- A drydown as bytes (R237), for an area of `area` bytes; truncated when a record does not fit or a tile is lost. -/
def dryBytes (j : Job) (area : Nat) (d : Dev) : List Byte × Dev :=
  let cs := j.img.ordered
  let here := cs.filterMap (fun c => match j.posOf d.map c with
    | some p => if d.map.isDead p || j.lost.contains p then none else some (c, p)
    | none => none)
  let fixed := dryFixed j.img
  let (recs, d) := dryRecords here (area - fixed) true d
  let body := recs.flatMap (·.2.2)
  let offs := recs.foldl (fun (l, o) (c, p, bs) => (l ++ [(c, p, o, bs.length)], o + bs.length))
    (([], fixed) : List (RC × Pos × Nat × Nat) × Nat)
  let dir := cs.flatMap (fun c => match offs.1.find? (fun x => x.1 == c) with
    | some (_, p, o, n) => le 4 (tileInfoReg (d.tile p) p.kind) ++ le 8 (if n = 0 then 0 else o) ++ le 4 n
    | none => le 4 (rcWord c + 2 ^ 18 * rcKind c.rx) ++ le 8 0 ++ le 4 0)
  let rest := (List.range j.img.nLines).flatMap (dryLine d j) ++ dir ++ body
  let n := (recs.filter (fun x => !x.2.2.isEmpty)).length
  let total := 128 + rest.length
  let h := dryHeader j (decide (n < cs.length)) d.now cs.length n total area
  (h (crc32c (h 0 ++ rest)) ++ rest, d)

end Sys2Proof.Machine
end

