-- ==== Sys2Proof/Machine/Replay.lean ====
section
/-! DEFINITION. The start of a recovery: condemned tiles and the table change that follows (R267, R348, R382), 0x0101 and
its count (R329, R340, R341), the loss of a tile with takeover or re-placement (R343, R344), joining events (R342). -/

namespace Sys2Proof.Machine

/-! ## The map -/

/-- A table change asked for: it starts, or waits for the one in progress. -/
def startChange (c : Change) (d : Dev) : Dev :=
  if d.map.change.isSome then { d with map := { d.map with waitingChanges := d.map.waitingChanges ++ [c] } }
  else { d with map := { d.map with change := some c } }

/-- A tile condemned: dead in the live map and in the refinement record, with the flag of a failed router; a dead tile's
router that fails later is recorded too (R27, R348, R380, R382, R384). -/
def condemnAs (bad : Bool) (p : Pos) (d : Dev) : Dev :=
  let m := d.map
  if m.isDead p && (!bad || m.routerDead p) then d
  else
    ({ d with map := { m with
        dead := addDead p bad m.dead
        added := addDeadEntry p bad m.added
        condemned := m.condemned + (if m.isDead p then 0 else 1)
        testing := m.testing.filter (· != p)
        retest := m.retest.filter (· != p) } } : Dev).onTile p (fun t => { t with net := { t.net with jslot := none } })

/-- A tile condemned in service: a router that answered neither of two polls has failed. -/
def condemn (p : Pos) (d : Dev) : Dev := condemnAs (decide (2 ≤ d.map.missed.get 0 p.ix)) p d

/-! ## Recoveries -/

/-- A recovery is in progress (R342). -/
def Phase.recovering : Phase → Bool
  | .rbQuiesce | .rbRestore | .tkTable | .tkLoad | .rpTable | .rpScanOut | .rpResume => true
  | _ => false

/-- The tiles of a job take no packet: a recovery discards them (R340), and so does a scan-out (R314 order 3). -/
def Phase.shut (p : Phase) : Bool := p.recovering || p == .pauseScanOut

/-- A job enters a recovery, or an event joins the one in progress: 0 replay, 1 takeover, 2 re-placement. The gates
close and the tiles stop; one rollback goes to the earliest step any event needs (R340 order 1, R342). A pause in
progress restarts after it (R316). -/
def Job.recover (why step : Nat) (lost : List Pos) (j : Job) : Job :=
  let again := j.phase.recovering
  { j with
    phase := if again && why == 0 then j.phase else .rbQuiesce
    rbStep := if again then min j.rbStep step else step
    rbWhy := if again then max j.rbWhy why else why
    pauseAfter := j.pausing
    lost := if again then (j.lost ++ lost).eraseDups else lost
    energy := { j.energy with repeated := some (max (j.crossed.get 0 0) (j.energy.repeated.getD 0)), ledgerWait := false }
    gate0 := false
    gates := false }

/-- A recovery of a job starts or is joined. -/
def startRecovery (k why step : Nat) (lost : List Pos) (d : Dev) : Dev := d.onJob k (Job.recover why step lost)

/-- The spare of a Compute tile's group works (R19, R343). -/
def spareWorks (m : MapSt) (p : Pos) : Bool :=
  p.kind == 0 && !m.isHole p.grp && !m.isDead ⟨16 * (p.px / 16) + cPos (m.spare p.grp), p.py⟩

/-- Every boundary slot and retained copy of a job lies on a tile that works (R344). -/
def hostsWork (m : MapSt) (j : Job) (lost : List Pos) : Bool :=
  j.img.rets.all (fun r => match j.posOf m r.host with
    | some q => !m.isDead q && !lost.contains q && !m.isolated.contains q.field
    | none => false)

/-- Tiles that are lost have written what a rollback needs of them: the record of the first unconfirmed step, and the copies
of its ranges (R334, R344). -/
def recordsKept (d : Dev) (j : Job) (lost : List Pos) : Bool :=
  j.img.members.all (fun c => match j.posOf d.map c with
    | some p =>
      let t := d.tile p
      !lost.contains p || ((boundEntry j.img c).isNone || (j.snap? c j.conf).isSome)
        && !(t.step == j.conf && !t.check.copying.isEmpty)
    | none => true)

/-- A job that a loss stops: halted with the code of the failure; the tiles it lost are condemned and the map follows (R19,
R341, R344). A tile lost with its field is not condemned. -/
def haltLost (j : Job) (lost : List Pos) (p : Pos) (code : Nat) (d : Dev) : Dev :=
  let d := stopJob j.slot code (d.tile p).rc (d.tile p).step true d
  let d := d.each (lost.filter (fun q => !d.map.isolated.contains q.field)) condemn
  startChange {} (d.onJob j.slot (fun x => { x with lost := lost }))

/-- A tile that serves a job is lost: takeover by the group's spare, when no other loss wants it, else re-placement, else the
stop with the code of the failure (R341, R343, R344). -/
def loseTile (j : Job) (p : Pos) (code : Nat) (d : Dev) : Dev :=
  let lost := p :: j.lost.filter (· != p)
  let spare := spareWorks d.map p && !j.lost.any (fun q => q.grp == p.grp && q != p && q.kind == 0)
  let d := if p.kind = 0 ∧ !spare then appendLog 0x0504 0 false j.id (rcWord (d.tile p).rc) 0 1 d else d
  if recordsKept d j [p] && spare then startRecovery j.slot 1 j.conf [p] d
  else if recordsKept d j [p] && hostsWork d.map j lost then startRecovery j.slot 2 j.conf [p] d
  else haltLost j lost p code d

/-- A check of R327 fails on work of a step: 0x0101, counted for slot and step; the second of a step retires the
tile (0x0102), the third halts the job (0x0109) (R329, R340, R341). `array` is told for checkers 0 to 2. -/
def raiseCheck (p : Pos) (checker array step : Nat) (d : Dev) : Dev :=
  match d.jobAt p with
  | none => d
  | some j =>
    let t := d.tile p
    let n := if t.check.failStep = some step then min 3 (t.check.failCnt + 1) else 1
    let loc := rcWord t.rc + 2 ^ 18 * (checker % 8)
      + (if checker ≤ 2 then 2 ^ 21 * (array % 4) else 0) + flagAt (decide (step < t.step)) 23
    let d := appendLog 0x0101 1 false j.id loc step 1 d
    let d := d.onTile p (fun t => { t with check := { t.check with failStep := some step, failCnt := n } })
    if n = 1 then startRecovery j.slot 0 step [] d
    else if n = 2 then loseTile j p 0x0102 (eventTile p 0x0102 0 d)
    else faultTile p 0x0109 0 {} d

end Sys2Proof.Machine
end

