-- ==== Sys2Proof/Machine/Tensor.lean ====
section
/-! DEFINITION. The tensor unit: queue head, weight fill, lane blocks, accords, requests of drains
(R78-R88, R94-R97, R115-R117, R153, R154). -/

namespace Sys2Proof.Machine

/-! ## Requests of drains (R97, R106) -/

/-- The registers a drain reads when it starts (R105). R105 names the finishing set; that FUL_CTL and FUL_THR of the fulling set
are captured with it and FUL_BLK, which the drain itself counts up, is read at each block is the model's (DESIGN CHOICE, log
178). -/
def captureSet (t : Tile) (fin : Nat) : Tab Word :=
  let f := (finCw (finReg t fin 0)).ful
  let offs := [0x00, 0x04, 0x08, 0x0C, 0x10, 0x14, 0x18, 0x1C, 0x20].map (· + 0x100 + 0x40 * fin)
    ++ (if f = 0 then [] else [0x300 + 0x10 * f, 0x304 + 0x10 * f])
  offs.map (fun o => (o, t.ctlReg o))

/-- A drain starts: the control word is checked, the set captured, the accord is DRAINING; none when the word is
invalid (0x0104, the accord stays as it is) (R105, R106). A drain that an instruction asked for takes its layout
width from the set (R470). -/
def startDrain (narrow : Bool) (j : DrainJob) (t : Tile) : Option Tile :=
  let c := finCw (finReg t j.fin 0)
  if badCw narrow c (fulMode t c) then none
  else
    let j := { j with regs := captureSet t j.fin, began := t.step, width := if j.explicit then rowCapacity t j.fin j.ld else j.width }
    let t := t.setAcc j.accord { t.acc j.accord with st := .draining }
    some { t with tensor := { t.tensor with drains := t.tensor.drains ++ [j] } }

/-- What a request of a drain does to an accord (R97). -/
inductive DrainAsk where
  | fault (code : Nat)
  | done (t : Tile)

/-- A drain requested for an accord in a state that accepts it: DRAINING, or DRAIN_PENDING while provisional. -/
def askDrain (narrow : Bool) (j : DrainJob) (t : Tile) : DrainAsk :=
  match (t.acc j.accord).st with
  | .opened =>
    (match startDrain narrow j t with
    | some t => .done t
    | none => .fault 0x0104)
  | .openProv =>
    .done (let t := t.setAcc j.accord { t.acc j.accord with st := .drainPending }
           { t with tensor := { t.tensor with pendingDrains := t.tensor.pendingDrains ++ [j] } })
  | _ => .fault 0x0106

/-! ## The head of the queue (R94, R97) -/

/-- The accord tag of an entry matches. -/
def ownAcc (spec : Option Nat) (a : Accord) : Bool :=
  match spec with
  | some g => (a.st == .openProv || a.st == .drainPending) && a.tag == g
  | none => false

/-- The first row of R97 that an operation start meets on an accord: none when it may start. -/
def startStop (spec : Option Nat) (init int : Bool) (a : Accord) : Option Nat :=
  let prov := a.st == .openProv || a.st == .drainPending
  if spec.isSome && (a.st == .opened || (prov && !ownAcc spec a)) then some 0x0603
  else if spec.isNone && prov then some 0x0603
  else if init then (if a.st = .free then none else some 0x0106)
  else if a.st = .drainPending ∨ a.st = .free ∨ a.int ≠ int then some 0x0106
  else none

/-- An accord opened for an operation (R97). -/
def openAcc (spec : Option Nat) (int : Bool) (a : Accord) : Accord :=
  { a with st := if spec.isSome then .openProv else .opened, int := int, sat := false, tag := spec.getD 0, vals := [] }

/-- The accords of a pass that begins at m-block mb0 (R80, R94). -/
def passAccs (e : TDesc) (mb0 : Nat) : List Nat :=
  (List.range (min e.cnt (cdiv e.m 32 - mb0))).map (· + e.accId)

/-- The mask bits of a row for n-block nb (R152, R153). -/
def maskBits (m : Mem) (e : TDesc) (row nb : Nat) : Bool × Bool :=
  let b := (m.read (16 * e.maskAddr + row * maskLd e.n + nb / 4)).toNat
  (bit b (nb % 4 * 2), bit b (nb % 4 * 2 + 1))

/-- The rows of a pass that begins at m-block mb0. -/
def passRows (e : TDesc) (mb0 : Nat) : List Nat :=
  (List.range (min (32 * e.cnt) (e.m - 32 * mb0))).map (· + 32 * mb0)

/-- The mask that an operation reads is watched from its start to its end (R154). -/
def Tile.watchMask (e : Option TDesc) (t : Tile) : Tile :=
  { t with maskHit := []
           maskWatch := match e with
             | some e => if e.useMask then some (16 * e.maskAddr, maskLd e.n, e.m) else none
             | none => none }

/-- A pass begins: its accords open when init is set, and its mask rows are read (R80, R97, R153); none on a
double-bit error in the mask. -/
def beginPass (q : QEntry) (e : TDesc) (t : Tile) : Option (QEntry × Tile) :=
  let rows := passRows e q.prog.mb0
  match (if e.useMask then t.sweep (rows.map (fun r => (16 * e.maskAddr + r * maskLd e.n + q.prog.nb / 4, 1)))
    else some t) with
  | none => none
  | some t =>
    let mask := if e.useMask then rows.map (fun r => maskBits t.mem e r q.prog.nb) else []
    let t := if e.init then (passAccs e q.prog.mb0).foldl (fun t a =>
        t.setAcc a (openAcc q.spec e.int (t.acc a))) t else t
    some ({ q with running := true, mask := mask, draining := false }, t)

/-- A queue-head fault (FAULT_PC, FAULT_INSN). -/
def queueFault (p : Pos) (q : QEntry) (code : Nat) (d : Dev) : Dev :=
  let insn := match q.work with
    | .tensor ws _ => ws.getD 6 0
    | .drain w _ _ _ => w
    | .discard w => w
  faultTile p code 0 { insn := insn } d

/-- The queue's head replaced. -/
def Tile.setHead (t : Tile) (q : QEntry) : Tile :=
  { t with tensor := { t.tensor with queue := q :: t.tensor.queue.drop 1 } }

/-- The head leaves the queue: threads that wait for room or for the queue try again. -/
def popHead (t : Tile) : Tile :=
  wakeCause 10 (wakeCause 5 { t.watchMask none with tensor := { t.tensor with queue := t.tensor.queue.drop 1 } })

/-- The window of a DRAIN entry. -/
def drainOf (q : QEntry) (w rd rs1 rs2 : Word) : DrainJob :=
  let f := drainForm w rd rs1 rs2
  { accord := f.acc, fin := f.fin, regs := [], dst := f.dst, ld := f.ld, rows := f.rows, cols := f.cols, m0 := f.m0
    n0 := f.n0, width := 0, explicit := true, mask := none, insn := w, step := q.step }

/-- An entry of the queue is at its head. -/
def headStep (p : Pos) (narrow : Bool) (q : QEntry) (d : Dev) : Dev :=
  let t := d.tile p
  match q.work with
  | .tensor ws _ =>
    let e := tdesc ws
    if e.mode = 2 then d.setTile p (t.setHead { q with running := true })
    else
      let accs := passAccs e 0
      if accs.any (fun a => (t.acc a).st == .draining) then d
      else match accs.findSome? (fun a => startStop q.spec e.init e.int (t.acc a)) with
        | some c => queueFault p q c d
        | none =>
          match beginPass q e t with
          | none => queueFault p q 0x0401 d
          | some (q', t') => d.setTile p ((t'.watchMask (some e)).setHead q')
  | .drain w rd rs1 rs2 =>
    let j := drainOf q w rd rs1 rs2
    let a := t.acc j.accord
    if a.st = .draining then d
    else if q.spec.isSome && !ownAcc q.spec a then d
    else if q.spec.isNone && (a.st == .openProv || a.st == .drainPending) then queueFault p q 0x0603 d
    else match askDrain narrow j t with
      | .fault c => queueFault p q c d
      | .done t' => d.setTile p (popHead t')
  | .discard w =>
    let n := bits w.toNat 0 3
    let a := t.acc n
    if a.st = .draining then d
    else if q.spec.isSome && !ownAcc q.spec a then d
    else if q.spec.isNone && a.st != .opened then queueFault p q 0x0106 d
    else
      let t := t.setAcc n { a with st := .free, vals := [] }
      let t := { t with tensor := { t.tensor with pendingDrains := t.tensor.pendingDrains.filter (·.accord != n) } }
      d.setTile p (wakeCause 10 (popHead t))

/-- ISSUE_QUEUE_HEAD (R94, R97): the head is checked and starts, waits or faults. -/
def execIssueQueueHead (t : Pos) : State → Out_ :=
  liftAt t.ok (fun d =>
    match (d.tile t).tensor.queue with
    | q :: _ => if d.live t && !q.running then headStep t (narrowAt d t) q d else d
    | [] => d)

/-! ## Lane work (R80-R88, R115) -/

/-- The elements of segment `ks` along K. -/
def segLen (e : TDesc) (ks : Nat) : Nat := min (segWidth e) (e.k - segWidth e * ks)

/-- The segment of B at step ks of n-block nb. -/
def feedB (p : Pos) (q : QEntry) (e : TDesc) (nblk nb ks : Nat) (d : Dev) : Feed :=
  feed p q.spec (opndB e) nblk (32 * nb) (min 32 (e.n - 32 * nb)) (segWidth e * ks) (segLen e ks) q.prog.bufB d

/-- The segment of A at step ks of m-block mb. -/
def feedA (p : Pos) (q : QEntry) (e : TDesc) (nblk mb ks : Nat) (d : Dev) : Feed :=
  feed p q.spec (opndA e) nblk (32 * mb) (min 32 (e.m - 32 * mb)) (segWidth e * ks) (segLen e ks) q.prog.bufA d

/-- WEIGHT_FILL_COMPLETE (R85, R87): a chunk of weights is in the lanes; two weight registers a lane. Of a chunk whose bytes
have not all come the feeder reads those that have (R81, log 175). -/
def execWeightFillComplete (t : Pos) : State → Out_ :=
  liftAt t.ok (fun d =>
    match (d.tile t).tensor.queue with
    | [] => d
    | q :: _ =>
      match q.work with
      | .tensor ws nblk =>
        let e := tdesc ws
        let g := q.prog
        let ks := g.ks + g.bSegs.length
        if d.live t && q.running && !g.ended && e.mode == 1 && wantsB e g then
          match feedB t q e nblk g.nb ks d with
          | .wait buf d => d.onTile t (fun x => x.setHead { q with prog := { g with bufB := buf } })
          | .fault c => queueFault t q c d
          | .got ls d => d.onTile t (fun x => x.setHead { q with prog := { g with bSegs := g.bSegs ++ [ls], bufB := [] } })
        else d
      | _ => d)

/-- The products of a row of A and a column of B: absent elements form none (R58, R63, R141). -/
def products (fa fb : Nat) (a b : Line) : List (Nat × Val) :=
  a.flatMap (fun (k, c, s) =>
    (b.filter (fun y => y.1 == k)).map (fun (_, c', s') => (k, (scaledVal fa s c).mul (scaledVal fb s' c'))))

/-- The selection of an element by its row's mask bits; all are selected without a mask (R153). -/
def selected (mask : List (Bool × Bool)) (useMask : Bool) (r c : Nat) : Bool :=
  if useMask then (let b := mask.getD r (false, false); if c < 16 then b.1 else b.2) else true

/-- The sum that leaves a lane (R84, R115): exact for an INT32 accord, else rounded once to FP32. -/
def laneSum (int : Bool) (ps : List Val) : Word := if int then BitVec.ofInt 32 (laneBlockInt ps) else laneBlock ps

/-- One lane-block sum added into an accord element, with the bits that turned on its way (R95, R116); nothing for an absent
lane block (R117). -/
def addBlock (slot : Nat) (turned : Word) (ps : List Val) (a : Accord) : Accord :=
  if ps.isEmpty then a
  else
    let v := laneSum a.int ps ^^^ turned
    if a.int then
      let r := satAdd (sgn (a.vals.get 0 slot)) (sgn v)
      { a with vals := a.vals.set slot (BitVec.ofInt 32 r.1), sat := a.sat || r.2 }
    else { a with vals := a.vals.set slot (addF32 (a.vals.get 0 slot) v) }

/-- The products of one lane block of a segment. -/
def kBlock (k0 i : Nat) (ps : List (Nat × Val)) : List Val :=
  (ps.filter (fun x => x.1 / 16 == k0 / 16 + i)).map (·.2)

/-- The lane blocks of one segment in increasing kb order. -/
def addSegment (slot k0 n : Nat) (turned : Nat → Word) (ps : List (Nat × Val)) (a : Accord) : Accord :=
  (List.range (cdiv n 16)).foldl (fun a i => addBlock slot (turned i) (kBlock k0 i ps) a) a

/-! ## The witness columns (R328) -/

/-- A magnitude. -/
def Val.abs : Val → Val
  | .inf _ => .inf false
  | .zero _ => .zero false
  | .num q => .num q.abs
  | .nan => .nan

def Val.finite : Val → Bool
  | .zero _ => true
  | .num _ => true
  | _ => false

/-- What the witness of an array tells of one of its rows in a K-block: the lane-block sums as they leave the lanes, and the
row's W and U. -/
structure Witness where
  sums : List Word
  w : Val
  u : Val
  deriving DecidableEq, Repr

/-- A running sum in FP32 whose terms are exact (R328; in increasing k and in RNE, log 181). -/
def sumF32 (l : List Val) : Val := ofF32 (l.foldl (fun a v => toF32 0 ((ofF32 a).add v)) 0)

/-- The value of B over the columns of an array at one k: their exact sum, rounded to FP32, or exact for an INT32 accord. -/
def colSum (int : Bool) (f : Val → Val) (fb : Nat) (cols : List Line) (k : Nat) : Val :=
  let s := cols.foldl (fun a y => (y.filter (fun x => x.1 == k)).foldl (fun (a : Val) x => a.add (f (scaledVal fb x.2.2 x.2.1))) a) (.zero false)
  if int then s else ofF32 (toF32 0 s)

/-- The witness of a row `x` of A with the columns of an array, in the K-block `kb` (R328). -/
def witness (int : Bool) (fa fb kb : Nat) (x : Line) (cols : List Line) : Witness :=
  let row := x.filter (fun e => e.1 / 16 == kb)
  let terms := fun (f : Val → Val) => row.map (fun e => (f (scaledVal fa e.2.2 e.2.1)).mul (colSum int f fb cols e.1))
  let total := fun l => if int then l.foldl Val.add (.zero false) else sumF32 l
  { sums := cols.map (fun y => laneSum int ((products fa fb row y).map (·.2))), w := total (terms id), u := total (terms Val.abs) }

/-- The tolerance of R328 for an FP32 accord, as the exponent t. -/
def witnessT (fa fb : Nat) : Nat := if fmtSize fa = 1 ∧ fmtSize fb = 1 then 20 else 17

/-- A row fails its check, with the sums `seen` that reached the witness (R328). Of a row whose U or W is not finite the check
is whether the same sums are NaN or infinite; a sum that is not finite fails a row whose U and W are (log 181). -/
def rowFails (int : Bool) (t : Nat) (z : Witness) (seen : List Word) : Bool :=
  if int then decide (seen.foldl (fun a s => a + sgn s) 0 ≠ z.sums.foldl (fun a s => a + sgn s) 0)
  else if !z.u.finite || !z.w.finite then
    (z.sums.zip seen).any (fun (a, b) => (ofF32 a).finite != (ofF32 b).finite || (ofF32 a).isNan != (ofF32 b).isNan)
  else
    match (seen.foldl (fun (a : Val) s => a.add (ofF32 s)) (.zero false)).add z.w.negate with
    | .num q => (match z.u with
      | .num u => (u.mul (Q.pow2 (-(t : Int)))).lt q.abs
      | _ => true)
    | .zero _ => false
    | _ => true

/-- The columns of the array that holds column `col`, with the place of the column among them. -/
def arrayCols (lb : List Line) (col : Nat) : List Line := (lb.drop (16 * (col / 16))).take 16

/-- An altered lane-block sum is found by the witness column of its array; an error in a lane that takes no part alters
nothing (R328, R84). -/
def sumCaught (e : TDesc) (k0 row col kb : Nat) (mask : Word) (la lb : List Line) : Bool :=
  match la[row]?, lb[col]? with
  | some x, some y =>
    if (kBlock k0 kb (products e.aFmt e.bFmt x y)).isEmpty then false
    else
      let z := witness e.int e.aFmt e.bFmt (k0 / 16 + kb) x (arrayCols lb col)
      rowFails e.int (witnessT e.aFmt e.bFmt) z (z.sums.modify (col % 16) (· ^^^ mask))
  | _, _ => false

/-- The array that a lane block leaves (R82, R85). -/
def arrayOf (e : TDesc) (row col kb : Nat) : Nat := if e.mode = 1 then 2 * kb + col / 16 else 2 * (row / 16) + col / 16

/-- What a check of R327 says of a lane block: the checker and the array (R327, R328). -/
def laneCheck (e : TDesc) (mask : List (Bool × Bool)) (row0 k0 : Nat) (la lb : List Line) : Option LaneUpset → Option (Nat × Nat)
  | none => none
  | some (.adder a) => some (1, a)
  | some (.storage a) => some (2, a)
  | some (.sum row col kb m) =>
    if selected mask e.useMask (row0 + row) col && sumCaught e k0 row col kb m la lb then some (0, arrayOf e row col kb) else none

/-- The bits that an error turned in the sum of an element and a K-block. -/
def turnedBits (up : Option LaneUpset) (r c i : Nat) : Word :=
  match up with
  | some (.sum row col kb m) => if row = r ∧ col = c ∧ kb = i then m else 0
  | _ => 0

/-- The mask rows of a pass, with free bits for a row that was written since the operation began (R154, log 10). -/
def maskNow (p : Pos) (q : QEntry) (e : TDesc) (d : Dev) : List (Bool × Bool) × Dev :=
  if e.useMask then
    ((passRows e q.prog.mb0).zip q.mask).foldl (fun (acc, d) (r, b) =>
      if (d.tile p).maskHit.contains r then (acc ++ [(d.free.1.getLsbD 0, d.free.1.getLsbD 1)], d.free.2)
      else (acc ++ [b], d)) ([], d)
  else (q.mask, d)

/-- One m-block of a segment: every selected lane's blocks added; the accord and the products formed. -/
def blockWork (e : TDesc) (mask : List (Bool × Bool)) (row0 k0 n : Nat) (la lb : List Line) (up : Option LaneUpset)
    (a : Accord) : Accord × Nat :=
  (la.zipIdx).foldl (fun (a, m) (x, r) =>
    (lb.zipIdx).foldl (fun (a, m) (y, c) =>
      if selected mask e.useMask (row0 + r) c then
        let ps := products e.aFmt e.bFmt x y
        (addSegment (32 * r + c) k0 n (turnedBits up r c) ps a, m + ps.length)
      else (a, m)) (a, m)) (a, 0)

/-- Halves of a run of at most 32 that are not empty. -/
def halves (n : Nat) : Nat := if n = 0 then 0 else if n ≤ 16 then 1 else 2

/-- Array-beats of lane work of a block (R82, R85, R136, R140, R153): rows by columns of arrays, times beats. -/
def activeBeats (e : TDesc) (mask : List (Bool × Bool)) (row0 rows cols n : Nat) (la lb : List Line) : Nat :=
  let any := !e.useMask || (List.range rows).any (fun r =>
    selected mask true (row0 + r) 0 || selected mask true (row0 + r) 16)
  let absent := e.sparse == 3 && (if e.sparseB then lb.all List.isEmpty else la.all List.isEmpty)
  if !any || absent then 0
  else if e.mode = 1 then rows * halves cols * halves n
  else halves rows * halves cols * (if e.sparse = 1 ∨ e.sparse = 2 then 8 else 16)

/-- The drains of a pass, requested in order (R80, R97); the first that cannot start gives its fault. -/
def drainPass (narrow : Bool) (q : QEntry) (e : TDesc) (insn : Word) : List Nat → Tile → DrainAsk
  | [], t => .done t
  | a :: r, t =>
    let i := a - e.accId
    let mb := q.prog.mb0 + i
    let j : DrainJob :=
      { accord := a, fin := e.finSel, regs := [], dst := 16 * e.dstAddr, ld := 16 * e.dstLd
        rows := min 32 (e.m - 32 * mb), cols := min 32 (e.n - 32 * q.prog.nb), m0 := 32 * mb, n0 := 32 * q.prog.nb
        width := e.n, explicit := false
        mask := if e.useMask then some ((q.mask.drop (32 * i)).take 32) else none, insn := insn, step := q.step }
    match askDrain narrow j t with
    | .fault c => .fault c
    | .done t => drainPass narrow q e insn r t

/-- After a block: the next block of the segment, the next segment, or the end of the pass with its drains; the last
pass ends the operation, which leaves the queue once its last drain is in finishing: one that runs under a tag waits for its tag
(R78, R80, R97). -/
def advance (p : Pos) (narrow : Bool) (q : QEntry) (e : TDesc) (insn : Word) (d : Dev) : Dev :=
  let g := q.prog
  let put := fun (g : Progress) (b : Bool) (d : Dev) =>
    d.onTile p (fun t => t.setHead { q with prog := g, draining := b })
  if g.mb + 1 < g.mb0 + (passAccs e g.mb0).length then put { g with mb := g.mb + 1 } false d
  else if g.ks + 1 < segCount e then put { g with ks := g.ks + 1, mb := g.mb0, bSegs := g.bSegs.drop 1 } false d
  else
    match (if e.drain then drainPass narrow q e insn (passAccs e g.mb0) (d.tile p) else .done (d.tile p)) with
    | .fault c => queueFault p q c d
    | .done t =>
      let d := d.setTile p t
      if g.mb0 + e.cnt < cdiv e.m 32 then
        put { nb := g.nb, mb0 := g.mb0 + e.cnt, ks := 0, mb := g.mb0 + e.cnt, bSegs := g.bSegs.drop 1 } true d
      else if g.nb + 1 < cdiv e.n 32 then
        put { nb := g.nb + 1, mb0 := 0, ks := 0, mb := 0, bSegs := g.bSegs.drop 1 } true d
      else if e.drain && q.spec.isSome then put { g with ended := true } false d
      else d.onTile p popHead

/-- The statistics of a block (R91, R109): the wait for a weight fill is part of the feed freeze. -/
def countBlock (active macs : Nat) (fz : Freezes) (t : Tile) : Tile :=
  ((((t.count 0 active).count 1 (max fz.feed fz.fill)).count 2 fz.drain).count 3 fz.fill).count 4 macs

/-- The accords of the next pass are free (R91). -/
def passReady (t : Tile) (q : QEntry) (e : TDesc) : Bool :=
  !q.draining || (passAccs e q.prog.mb0).all (fun a => (t.acc a).st == .free)

/-- One m-block of the running operation: its segments are there, its sums enter the accord, the loop goes on. -/
def laneStep (p : Pos) (fz : Freezes) (upset : Option LaneUpset) (q : QEntry) (e : TDesc) (ws : List Word) (nblk : Nat)
    (d : Dev) : Dev :=
  match (if q.draining then beginPass q e (d.tile p) else some (q, d.tile p)) with
  | none => queueFault p q 0x0401 d
  | some (q, t) =>
    let d0 := d.setTile p t
    let g := q.prog
    let keep := fun (g : Progress) (d : Dev) => d.onTile p (fun t => t.setHead { q with prog := g })
    match (match g.bSegs with
      | ls :: _ => Feed.got ls d0
      | [] => if e.mode = 1 then .wait g.bufB d0 else feedB p q e nblk g.nb g.ks d0) with
    | .wait buf d => keep { g with bufB := buf } d
    | .fault c => queueFault p q c d
    | .got lb d1 =>
      let g := if g.bSegs.isEmpty then { g with bSegs := [lb], bufB := [] } else g
      match feedA p q e nblk g.mb g.ks d1 with
      | .wait buf d => keep { g with bufA := buf } d
      | .fault c => queueFault p q c d
      | .got la d2 =>
        let (mask, d3) := maskNow p q e d2
        let q := { q with mask := mask, prog := { g with bufA := [] } }
        let a := e.accId + (g.mb - g.mb0)
        let row0 := 32 * (g.mb - g.mb0)
        match laneCheck e mask row0 (segWidth e * g.ks) la lb upset with
        | some (c, array) => raiseCheck p c array q.step d2
        | none =>
          let (acc, macs) := blockWork e mask row0 (segWidth e * g.ks) (segLen e g.ks) la lb upset ((d3.tile p).acc a)
          let active := activeBeats e mask row0 la.length lb.length (segLen e g.ks) la lb
          advance p (narrowAt d3 p) q e (ws.getD 6 0)
            (d3.onTile p (fun t => countBlock active macs fz ((t.setAcc a acc).setHead q)))

/-- LANE_BLOCK_COMPLETE (while a segment lacks bytes of its channel, the feeder reads what has come, R81, log 175; R80, R84, R85,
R115, R116): the 1,024 lane-block sums of the next (nb, mb, kb) enter their
accord, altered where an error turned bits that the witness let pass, or a checker finds the error (R327, R328). -/
def execLaneBlockComplete (t : Pos) (fz : Freezes) (upset : Option LaneUpset) : State → Out_ :=
  liftAt t.ok (fun d =>
    match (d.tile t).tensor.queue with
    | [] => d
    | q :: _ =>
      match q.work with
      | .tensor ws nblk =>
        let e := tdesc ws
        if d.live t && q.running && !q.prog.ended && e.mode != 2 && passReady (d.tile t) q e then laneStep t fz upset q e ws nblk d
        else d
      | _ => d)

end Sys2Proof.Machine
end

