-- ==== Sys2Proof/Machine/Dataflow.lean ====
section
/-! DEFINITION. Admission, firing, steering, speculation and its resolution, neighbour links (R157-R177). -/

namespace Sys2Proof.Machine

/-! ## Admission and firing -/

/-- TOKEN_ADMIT: the head token of a task channel enters the match store and its credit goes back (R157, R167). -/
def execTokenAdmit (t : Pos) (ch : Nat) : State → Out_ :=
  liftAt (t.ok && decide (ch < 32)) (fun d =>
    let x := d.tile t
    let c := x.chan ch
    match c.toks, servesOp x ch with
    | k :: r, some (s, i) =>
      if d.live t && c.kind == 1 && admissible x s i k then
        returnCredit t ch 1 (d.onTile t (fun x =>
          let x := x.setChan ch { x.chan ch with toks := r }
          { x with flow := { x.flow with store := x.flow.store ++ [{ task := s.decl.id, op := i, tok := k }] } }))
      else d
    | _, _ => d)

/-- The entries of an instance. -/
def entriesOf (t : Tile) (id tag : Nat) : List MEntry :=
  t.flow.store.filter (fun e => e.task == id && e.tok.tag == tag)

/-- The tags under which the entries of an instance are provisional. -/
def specsOf (es : List MEntry) : List Nat := (es.filterMap (fun e => e.tok.prov)).eraseDups

/-- A ready instance: all operands held, at most one speculative tag among them, no thread of it yet, and a reserved
slot free (R158). -/
def readyOf (t : Tile) (s : TaskSt) (tag : Nat) : Bool :=
  let es := entriesOf t s.decl.id tag
  decide (0 < s.decl.nOps) && es.length == s.decl.nOps && decide ((specsOf es).length ≤ 1)
    && !t.slots.any (fun y => y.2.st != .free && y.2.task == s.decl.id && y.2.tag == tag)
    && (freeSlotOf t s.decl).isSome

/-- The ready instances of a tile as (distance from the base, task, tag). -/
def readyList (t : Tile) : List (Nat × TaskSt × Nat) :=
  t.flow.tasks.flatMap (fun s =>
    (((t.flow.store.filter (·.task == s.decl.id)).map (·.tok.tag)).eraseDups.filter (readyOf t s)).map
      (fun g => (s.dist g, s, g)))

/-- The one that fires: the smallest distance, then the lower task id (R158). -/
def firstReady (l : List (Nat × TaskSt × Nat)) : Option (TaskSt × Nat) :=
  (l.foldl (fun (b : Option (Nat × TaskSt × Nat)) x => match b with
    | none => some x
    | some y => if x.1 < y.1 ∨ (x.1 = y.1 ∧ x.2.1.decl.id < y.2.1.decl.id) then some x else some y) none).map (·.2)

/-- INSTANCE_FIRE (R158, R159, R175). -/
def execInstanceFire (t : Pos) : State → Out_ :=
  liftAt t.ok (fun d =>
    let x := d.tile t
    if !d.live t then d
    else match firstReady (readyList x) with
      | none => d
      | some (s, g) =>
        match freeSlotOf x s.decl with
        | none => d
        | some n =>
          let es := entriesOf x s.decl.id g
          let ops := (List.range 4).map (fun i => match es.find? (fun e => e.op == i) with
            | some e => fieldLe e.tok.data 0 4
            | none => 0)
          d.onTile t (fireSlot n s.decl g (specsOf es).head? ops))

/-! ## Resolution of a speculative tag (R97, R177) -/

/-- A token of a confirmed tag. -/
def confirmTok (g : Nat) (k : Token) : Token := if k.prov = some g then { k with prov := none } else k

/-- The threads of a tag: on confirmation they go on, a halted end completes. -/
def confirmSlots (g : Nat) (t : Tile) : Tile :=
  let mine := (t.slots.filter (fun x => x.2.spec == some g)).map (·.1)
  let t := mine.foldl (fun t n => t.onSlot n (fun s => { s with spec := none })) t
  mine.foldl (fun t n => if (t.slot n).st = .halted then endThread n t else t) t

/-- The held drains of a confirmed tag go on; a control word that is invalid leaves its accord OPEN and faults. -/
def confirmDrains (p : Pos) (narrow : Bool) (js : List DrainJob) (d : Dev) : Dev :=
  d.each js (fun j d =>
    match startDrain narrow j (d.tile p) with
    | some t => d.setTile p t
    | none => faultTile p 0x0104 0 { insn := j.insn }
        (d.onTile p (fun t => t.setAcc j.accord { t.acc j.accord with st := .opened })))

/-- Tag g confirmed (R177). -/
def confirmTag (p : Pos) (g : Nat) (d : Dev) : Dev :=
  let t := d.tile p
  let mineAcc := fun (n : Nat) => ((t.acc n).st == .openProv || (t.acc n).st == .drainPending) && (t.acc n).tag == g
  let held := t.tensor.pendingDrains.filter (fun j => mineAcc j.accord)
  let d := d.onTile p (fun t =>
    let t := confirmSlots g t
    let t := (List.range 8).foldl (fun t n =>
      if mineAcc n && (t.acc n).st == .openProv then t.setAcc n { t.acc n with st := .opened } else t) t
    let t := { t with
      flow := { t.flow with
        specTags := t.flow.specTags.filter (·.1 != g)
        tagWait := false
        store := t.flow.store.map (fun e => { e with tok := confirmTok g e.tok })
        chans := t.flow.chans.map (fun (n, c) => (n, { c with toks := c.toks.map (confirmTok g) }))
        steers := t.flow.steers.map (fun u => { u with data := u.data.map (confirmTok g), ctl := u.ctl.map (confirmTok g) })
        owners := t.flow.owners.filter (fun o => o.2 != some g) }
      tensor := { t.tensor with
        pendingDrains := t.tensor.pendingDrains.filter (fun j => !mineAcc j.accord)
        queue := t.tensor.queue.map (fun q => if q.spec = some g then { q with spec := none } else q) } }
    wakeCause 4 (wakeCause 11 t))
  let d := confirmDrains p (narrowAt d p) held d
  match (d.tile p).tensor.queue with
  | q :: _ => if q.prog.ended && q.spec.isNone then d.onTile p popHead else d
  | [] => d

/-- A scratch line made zero. -/
def zeroLine (t : Tile) (l : Nat) : Tile :=
  let a := 0x3C000 + 64 * l
  { t with mem := t.mem.clear a 64
           bad := t.bad.filter (fun w => !(wordsOf a 64).contains w)
           weak := t.weak.filter (fun w => !(wordsOf a 64).contains w) }

/-- The record of a squashed instance that TEST_CONTROL asks for; the spec gives no code: a free one (log 32). -/
def logSquash (p : Pos) (s : Slot) (d : Dev) : Dev :=
  if d.map.logSquash then
    (let c := bits d.free.1.toNat 0 16
     eventTile p c (s.task + 2 ^ 16 * s.tag) d.free.2)
  else d

/-- Tag g squashed (R177). A control token already in a unit's hold stays there: the rule deletes the tokens under the tag, and
that one is under none (DEDUCED, log 176). -/
def squashTag (p : Pos) (g : Nat) (d : Dev) : Dev :=
  let t := d.tile p
  let mine := t.slots.filter (fun x => x.2.spec == some g)
  let accs := (List.range 8).filter (fun n =>
    ((t.acc n).st == .openProv || (t.acc n).st == .drainPending) && (t.acc n).tag == g)
  let gone := t.flow.chans.map (fun (n, c) => (n, (c.toks.filter (fun (k : Token) => k.prov == some g)).length))
  let lines := (t.flow.owners.filter (fun o => o.2 == some g)).map (·.1)
  let keep := fun (k : Token) => k.prov != some g
  let d := d.each mine (fun x d => logSquash p x.2 d)
  let d := d.onTile p (fun t =>
    let t := mine.foldl (fun t x => freeSlot x.1 t) t
    let t := accs.foldl (fun t n => (t.setAcc n { t.acc n with st := .free, vals := [] }).count 8 1) t
    let t := lines.foldl zeroLine t
    let t := { t with
      flow := { t.flow with
        specTags := t.flow.specTags.filter (·.1 != g)
        tagWait := false
        store := t.flow.store.filter (fun e => keep e.tok)
        chans := t.flow.chans.map (fun (n, c) => (n, { c with toks := c.toks.filter keep }))
        steers := t.flow.steers.map (fun u => { u with data := u.data.filter keep, ctl := u.ctl.filter keep })
        owners := t.flow.owners.filter (fun o => o.2 != some g) }
      tensor := { t.tensor with
        vop := (match t.tensor.vop with
          | some o => if mine.any (fun x => x.1 == o.slot) then none else some o
          | none => none)
        pendingDrains := t.tensor.pendingDrains.filter (fun j => !accs.contains j.accord)
        queue := t.tensor.queue.filter (fun q => q.spec != some g) } }
    wakeCause 4 (wakeCause 5 (wakeCause 10 (wakeCause 11 t))))
  d.each (gone.filter (fun x => decide (0 < x.2))) (fun x d => returnCredit p x.1 x.2 d)

/-! ## Steering units (R170-R174) -/

/-- The path that a control token selects (R170). -/
def ctlPath (k : Token) : Bool :=
  if k.ref then false
  else match k.data with
    | b :: _ => b.getLsbD 0
    | [] => false

/-- The output port of a path; none is the discard. -/
def SteerDecl.out (s : SteerDecl) (path : Bool) : Option Nat := if path then s.out1 else s.out0

def Tile.steer (t : Tile) (u : Nat) : Option Steer := t.flow.steers[u]?
def Tile.setSteer (t : Tile) (u : Nat) (s : Steer) : Tile :=
  { t with flow := { t.flow with steers := t.flow.steers.set u s } }

/-- Whether a token can leave a unit on a port now: a provisional one only on a local channel or the discard, any one
with credit and, over the mesh, room in the send buffer (R167, R173). -/
def canLeave (d : Dev) (p : Pos) (port : Option Nat) (k : Token) : Bool :=
  match port with
  | none => true
  | some n =>
    let t := d.tile p
    (k.prov.isNone || portLocal d p n) && decide (0 < (t.port n).credit)
      && !(portMesh d p n && (decide (256 ≤ sendBuffered t) || !t.tokenFree n (t.port n).num))

/-- A token leaves a unit on a port, taking its credit; the discard takes it for nothing. -/
def emitToken (p : Pos) (port : Option Nat) (k : Token) (d : Dev) : Dev :=
  match port with
  | none => d
  | some n => putToken p n k (d.onTile p (fun t => t.setPort n { t.port n with credit := (t.port n).credit - 1 }))

/-- The head tokens of a channel that a hold has room for. -/
def roomTake (t : Tile) (ch : Option Nat) (used : Nat) : List Token :=
  match ch with
  | some n => (t.chan n).toks.take (8 - used)
  | none => []

/-- Tokens leave a channel for a steering unit, and their credits go back (R167). -/
def dropHeads (p : Pos) (ch : Option Nat) (k : Nat) (d : Dev) : Dev :=
  match ch with
  | some n =>
    if k = 0 then d
    else returnCredit p n k (d.onTile p (fun t => t.setChan n { t.chan n with toks := (t.chan n).toks.drop k }))
  | none => d

/-- A unit takes what its holds have room for: data for a STEER unit, control for both kinds (R171, R172). -/
def steerFill (p : Pos) (u : Nat) (d : Dev) : Dev :=
  let t := d.tile p
  match t.steer u with
  | none => d
  | some s =>
    let xs := if s.decl.merge then [] else roomTake t s.decl.in0 (s.data.length + s.kept.length)
    let cs := roomTake t s.decl.ctl s.ctl.length
    dropHeads p s.decl.ctl cs.length (dropHeads p (if s.decl.merge then none else s.decl.in0) xs.length
      (d.onTile p (fun t => t.setSteer u { s with data := s.data ++ xs, ctl := s.ctl ++ cs })))

/-- The control token of a tag that counts: the first that is not provisional (R173). -/
def Steer.ctlOf (s : Steer) (tag : Nat) : Option Token := s.ctl.find? (fun c => c.tag == tag && c.prov.isNone)

/-- The unit with a control token consumed: the path is recorded (R170). -/
def Steer.useCtl (s : Steer) (c : Token) : Steer := { s with ctl := s.ctl.erase c, lastPath := ctlPath c }

/-- The first speculation of a unit whose control token is here. -/
def Steer.resolvable (s : Steer) : Option ((Nat × Bool × Token) × Token) :=
  s.kept.findSome? (fun x => (s.ctlOf x.2.2.tag).map (fun c => (x, c)))

/-- A speculation resolves (R177): on a right prediction the kept token is dropped and the control consumed; else the
kept token stands first in the hold again, beside its control token. -/
def steerResolve (p : Pos) (u : Nat) (d : Dev) : Dev :=
  match (d.tile p).steer u with
  | none => d
  | some s =>
    match s.resolvable with
    | none => d
    | some ((g, path, k), c) =>
      let s := { s with kept := s.kept.filter (·.1 != g) }
      if ctlPath c = path then confirmTag p g (d.onTile p (fun t => t.setSteer u (s.useCtl c)))
      else squashTag p g (d.onTile p (fun t => t.setSteer u { s with data := k :: s.data }))

/-- The first data token that can be forwarded, in order of arrival; a token that waits for its port holds the later
ones for that port (R171, R173). -/
def steerPick (d : Dev) (p : Pos) (s : Steer) : List Token → List (Option Nat) → Option (Token × Token)
  | [], _ => none
  | k :: r, held =>
    match s.ctlOf k.tag with
    | none => steerPick d p s r held
    | some c =>
      let port := s.decl.out (ctlPath c)
      if canLeave d p port k && !held.contains port then some (k, c) else steerPick d p s r (port :: held)

/-- A pair forwarded. -/
def steerSend (p : Pos) (u : Nat) (d : Dev) : Dev :=
  match (d.tile p).steer u with
  | none => d
  | some s =>
    match steerPick d p s s.data [] with
    | none => d
    | some (k, c) =>
      emitToken p (s.decl.out (ctlPath c)) k
        (d.onTile p (fun t => t.setSteer u { s.useCtl c with data := s.data.erase k }))

/-- A unit of the kind asked for. -/
def steerIs (t : Tile) (u : Nat) (merge : Bool) : Bool :=
  match t.steer u with
  | some s => s.decl.merge == merge
  | none => false

/-- STEER_FORWARD (R171, R173, R177): the unit takes tokens in, resolves a speculation whose control has come, and
forwards one pair. -/
def execSteerForward (t : Pos) (u : Nat) : State → Out_ :=
  liftAt (t.ok && decide (u < 16)) (fun d =>
    if d.live t && steerIs (d.tile t) u false then steerSend t u (steerResolve t u (steerFill t u d)) else d)

/-- The lowest free speculative tag. -/
def freeTag (t : Tile) : Option Nat := (List.range 8).find? (fun g => !t.flow.specTags.any (·.1 == g))

/-- The predicted path (R170). -/
def Steer.predicted (s : Steer) : Bool := if s.predict = 1 then false else if s.predict = 2 then true else s.lastPath

/-- A copy sent on the predicted path under a new tag, the data token kept (R174). -/
def speculate (p : Pos) (u : Nat) (s : Steer) (k : Token) (d : Dev) : Dev :=
  let port := s.decl.out s.predicted
  let loc := match port with
    | none => true
    | some n => portLocal d p n && decide (0 < ((d.tile p).port n).credit)
  if !loc then d
  else match freeTag (d.tile p) with
    | none => eventOnce p 0x0601 0 (d.onTile p (fun t => { t with flow := { t.flow with tagWait := true } }))
    | some g =>
      emitToken p port { k with prov := some g } (d.onTile p (fun t =>
        let t := t.setSteer u { s with data := s.data.erase k, kept := s.kept ++ [(g, s.predicted, k)] }
        { t with flow := { t.flow with specTags := t.flow.specTags ++ [(g, u)] } }))

/-- STEER_SPECULATE (R174): the oldest data token that is not provisional and has no control token. -/
def execSteerSpeculate (t : Pos) (u : Nat) : State → Out_ :=
  liftAt (t.ok && decide (u < 16)) (fun d =>
    if d.live t && steerIs (d.tile t) u false then
      (let d := steerFill t u d
       match (d.tile t).steer u with
       | none => d
       | some s =>
         match s.data.find? (fun k => k.prov.isNone && (s.ctlOf k.tag).isNone) with
         | some k => if s.predict = 0 ∨ !(d.tile t).flow.scratch then d else speculate t u s k d
         | none => d)
    else d)

/-- The head token of an input channel. -/
def headTok (t : Tile) (ch : Option Nat) : Option Token :=
  match ch with
  | some n => (t.chan n).toks.head?
  | none => none

/-- What a MERGE unit forwards: the control token (none for an uncontrolled unit), the input, the data token (R172). A pair that
waits for its port holds the later ones (R173). An uncontrolled unit takes in1 while the head of in0 is provisional and may not
leave the tile; R172 does not say whether it waits (DESIGN CHOICE, log 176). -/
def mergePick (d : Dev) (p : Pos) (s : Steer) : Option (Option Token × Option Nat × Token) :=
  let t := d.tile p
  let out := s.decl.out0
  let ok := fun (c : Option Token) (ch : Option Nat) (k : Token) =>
    if canLeave d p out k then some (c, ch, k) else none
  match s.decl.ctl with
  | none =>
    (match (headTok t s.decl.in0).bind (ok none s.decl.in0) with
    | some x => some x
    | none => (headTok t s.decl.in1).bind (ok none s.decl.in1))
  | some _ =>
    (s.ctl.findSome? (fun c =>
      let ch := if ctlPath c then s.decl.in1 else s.decl.in0
      match headTok t ch with
      | some k => if c.prov.isNone && k.tag == c.tag then some (c, ch, k) else none
      | none => none)).bind (fun x => ok (some x.1) x.2.1 x.2.2)

/-- MERGE_FORWARD (R172, R173). -/
def execMergeForward (t : Pos) (u : Nat) : State → Out_ :=
  liftAt (t.ok && decide (u < 16)) (fun d =>
    if d.live t && steerIs (d.tile t) u true then
      (let d := steerFill t u d
       match (d.tile t).steer u with
       | none => d
       | some s =>
         match mergePick d t s with
         | none => d
         | some (c, ch, k) =>
           let s' := match c with
             | some c => s.useCtl c
             | none => s
           emitToken t s.decl.out0 k (dropHeads t ch 1 (d.onTile t (fun x => x.setSteer u s'))))
    else d)

/-! ## Neighbour links (R166) -/

/-- A tile takes traffic: its job's interface accepts, it is not suspended, it writes no boundary record and the traffic's step
bit is its own (R235, R335, R364). -/
def takesTraffic (d : Dev) (p : Pos) (sbit : Bool) : Bool :=
  match d.jobAt p with
  | some j => (j.st == .running || (j.st == .halted && j.stop == .accepting)) && !j.phase.shut
      && j.phase != .pauseScanOut && j.phase != .resuming && !(d.tile p).check.recording && (d.tile p).sbit == sbit
      && !d.map.isDead p && !d.suspended p
  | none => false

/-- NEIGHBOUR_TOKEN (R166, R335, R343): the oldest token of a channel crosses its link into the consumer; a frame that
fails its CRC-32C is sent again by the link; one that its consumer already has (after a rollback, R335) is dropped.
When 8 resends in a row have failed, 0x0501 is raised for the end that fails its field test, or, when both pass, for the
one at the east or south of the link. -/
def execNeighbourToken (j ci : Nat) (crcOk prodFailed consFailed : Bool) : State → Out_ :=
  liftAt (decide (j < 32)) (fun d =>
    let mine : NTok → Bool := fun k => k.j == j && k.ci == ci
    match d.wafer.links.find? mine, d.job? j with
    | some k, some jb =>
      match jb.chan ci with
      | none => d
      | some c =>
        match jb.posOf d.map c.prod, jb.posOf d.map c.cons with
        | some a, some b =>
          if !takesTraffic d b k.sbit then d
          else if crcOk then
            let at_ := ((d.tile b).chan c.ch).next
            let gone : Dev := { d with wafer := { d.wafer with links := removeFirst mine d.wafer.links } }
            (if k.num = at_ then gone.onTile b (fun t =>
              t.setChan c.ch { t.chan c.ch with toks := (t.chan c.ch).toks ++ [k.tok], next := (at_ + 1) % 4096 })
            else if (at_ + 4096 - k.num) % 4096 < 2048 then gone else d)
          else
            let d := { d with wafer := { d.wafer with links := modifyFirst mine (fun k => { k with fails := k.fails + 1 }) d.wafer.links } }
            if k.fails < 8 then d
            else
              let qs := if prodFailed || consFailed then (if prodFailed then [a] else []) ++ (if consFailed then [b] else [])
                else [if a.py < b.py ∨ (a.py = b.py ∧ a.px < b.px) then b else a]
              let d := { d with wafer := { d.wafer with links := modifyFirst mine (fun k => { k with fails := 0 }) d.wafer.links } }
              if jb.running then d.each qs (fun q d =>
                let d := eventTile q 0x0501 0 d
                match d.job? j with
                | some jb => if jb.st = .running then loseTile jb q 0x0501 d else d
                | none => d) else d
        | _, _ => d
    | _, _ => d)

end Sys2Proof.Machine
end

