-- ==== Sys2Proof/Machine/Fabric.lean ====
section
/-! DEFINITION. Port tiles toward the fabric and the tether: rank tables, link credits, VL queues, discards, the
confirmation buffer (R285-R288, R435, R439-R445). -/

namespace Sys2Proof.Machine

/-! ## Ports -/

/-- The port-tile id of an optical port: 0-47 FP, 48 TP0, 49 TP1 (R240, R436). -/
def portId (n : Nat) : Nat := 96 + n

/-- The optical port of a port tile. -/
def portNum (id : Nat) : Option Nat := if 96 ≤ id ∧ id < 146 then some (id - 96) else none

def Dev.link (d : Dev) (n : Nat) : Link := d.brim.links.get {} n
def Dev.setLink (n : Nat) (l : Link) (d : Dev) : Dev :=
  { d with brim := { d.brim with links := d.brim.links.set n l } }
def Dev.port (d : Dev) (id : Nat) : PortTile := d.brim.ports.get {} id
def Dev.setPortTile (id : Nat) (x : PortTile) (d : Dev) : Dev :=
  { d with brim := { d.brim with ports := d.brim.ports.set id x } }
def Dev.onPort (id : Nat) (f : PortTile → PortTile) (d : Dev) : Dev := d.setPortTile id (f (d.port id))

/-- A packet goes from one port tile to another over the mesh, on link 0 of each (R244). -/
def Dev.portToPort (a b : Nat) (k : Packet) (transit : Option (Nat × Nat)) (d : Dev) : Dev :=
  match portRouter a 0 with
  | none => d
  | some r =>
    let f : Flight := { id := d.wafer.nextId, pkt := { k with dst := .port b }, place := .router r localSide
                        retargeted := true, transit := transit }
    { d with wafer := { d.wafer with flights := d.wafer.flights ++ [f], nextId := d.wafer.nextId + 1 } }

/-! ## What a port puts on its fibres (R428, R430-R436, R447) -/

/-- Lanes of a mask. -/
def laneCount (m : Nat) : Nat := ((List.range 8).filter m.testBit).length

/-- The newest version and the oldest major of a port: fabric 2.0 from 1, tether 2.1 from 2 (R15). -/
def ownVersion (n : Nat) : Nat × Nat × Nat := if n < 48 then (2, 0, 1) else (2, 1, 2)

/-- The credits of a port's ingress buffers (R435). -/
def ingressCredits (n : Nat) : List Nat := if n < 48 then [16384, 16384, 7168, 1024] else [8192, 8192, 1024, 4096]

/-- The CAP that a port sends (R436). -/
def Dev.ownCap (d : Dev) (n : Nat) : Cap :=
  let (mj, mi, lo) := ownVersion n
  { kind := if n < 48 then 0 else 2, major := mj, minor := mi, minMajor := lo, port := n
    txMask := (d.link n).txMask, rxMask := (d.link n).rxMask, serial := Config.serial.toNat, credits := ingressCredits n }

/-- A port sends CAP (R437). -/
def sendCap (n : Nat) (d : Dev) : Dev := d.emit (.cap n (d.ownCap n))

/-- The body of a CAP frame (R436). -/
def capBytes (c : Cap) : List Byte :=
  le 1 c.kind ++ le 1 c.major ++ le 1 c.minor ++ le 1 c.minMajor ++ le 1 c.port ++ le 1 c.txMask ++ le 1 c.rxMask ++ [0]
    ++ le 8 c.serial ++ padTo 16 (c.credits.flatMap (le 4)) ++ List.replicate 32 0

/-- A frame: its header and its body padded to whole 8-byte words (R432). -/
def frameOf (ftype vl fhops fjob : Nat) (body : List Byte) : List Byte :=
  let w := cdiv body.length 8
  let h := le 7 (ftype + 2 ^ 4 * vl + 2 ^ 6 * fhops + 2 ^ 12 * w + 2 ^ 18 * fjob)
  h ++ le 1 (crc8 h) ++ padTo (8 * w) body

/-- The frame that leaves on a port's fibres as bytes; none for what leaves another way (R433, R447). -/
def Emit.frame : Emit → Option (List Byte)
  | .data _ fjob fhops k => some (frameOf 1 k.vl fhops fjob (packetBytes k))
  | .credit _ counts => some (frameOf 2 0 0 0 (padTo 8 (counts.flatMap (le 2))))
  | .cap _ c => some (frameOf 3 0 0 0 (capBytes c))
  | .lane _ mask seq => some (frameOf 4 0 0 0 (le 1 mask ++ le 1 seq ++ le 6 0))
  | .regResp _ tag bs => some (frameOf 6 0 0 0 (le 2 tag ++ le 6 0 ++ padTo 8 bs))
  | .memResp _ tag bs => some (frameOf 8 0 0 0 (le 2 tag ++ List.replicate 14 0 ++ bs))
  | .hostw _ addr bs => some (frameOf 9 0 0 0 (le 8 addr ++ le 2 bs.length ++ le 6 0 ++ bs))
  | _ => none

/-- The header of a block that a port sends; its number is that of the block in the stream (R431). -/
def Link.outHeader (l : Link) (bseq : Nat) : List Byte :=
  let h := le 2 bseq ++ ([0, 1, 2, 3] : List Nat).flatMap (fun v => le 2 (l.sent.get 0 v)) ++ le 1 l.txMask ++ le 1 l.laneApplied ++ le 3 0
  h ++ le 1 (crc8 h)

/-- The lane of the `w`-th 8-byte word of a block among the lanes of its mask (R430). -/
def laneOfWord (mask w : Nat) : Option Nat :=
  let ls := (List.range 8).filter mask.testBit
  ls[w % max 1 ls.length]?

/-- The lanes of a port (R425). -/
def portLanes (n : Nat) : Nat := if n < 48 then 8 else 4

/-- A laser is on: its lane is in training or in service (R428). -/
def Dev.laserOn (d : Dev) (n lane : Nat) : Bool :=
  let l := d.link n
  match d.mod.st with
  | .off | .standby | .recovery => false
  | _ =>
    match l.st with
    | .training => decide (lane < portLanes n) && !l.fusedTx.testBit lane
    | .aligned | .up | .failed => l.txMask.testBit lane
    | _ => false

/-! ## Rank tables (R440, R441) -/

/-- What a rank table says of a rank: this device, an optical port, or nothing. -/
inductive RankHit where
  | own | port (n : Nat) | missing
  deriving DecidableEq, Repr

def RankTable.find (t : RankTable) (r : Nat) : RankHit :=
  if r = t.own then .own
  else match t.ranges.find? (fun x => decide (x.1 ≤ r ∧ r ≤ x.2.1)) with
    | some (_, _, p, n) => .port (p + r % n)
    | none => .missing

/-- The job's rank table in the copy that an epoch bit names (R267). -/
def Dev.rankTable (d : Dev) (j : Job) (epoch : Bool) : Option RankTable :=
  if epoch = d.map.epoch then j.ranks else j.oldRanks

/-- The port a packet for a host rank takes: the selected one, or the other when that is down and this one up
(R449). -/
def tetherChoice (d : Dev) (n : Nat) : Nat :=
  if n < 48 then n
  else if (d.link n).st = .up ∨ (d.link (97 - n)).st ≠ .up then n else 97 - n

/-! ## Link credits (R435) -/

/-- Payload bytes a packet really carries; the length of a GET_REQ is what it asks for (R239). -/
def payloadBytes (k : Packet) : Nat :=
  roundUp (k.sub.length + k.data.length) 16 + (if k.pfx.isSome then 16 else 0)

/-- Credits of a DATA frame: its body is the packet's header, payload and CRC-32C. -/
def frameCredits (k : Packet) : Nat := cdiv (8 + 8 * cdiv (16 + payloadBytes k + 4) 8) 64

/-- Credits left on a virtual lane. -/
def Link.room (l : Link) (v : Nat) : Nat :=
  l.credits.get 0 v - (l.sent.get 0 v + 65536 - l.peerFreed.get 0 v) % 65536

/-- A DATA frame can go now. -/
def Link.canSend (l : Link) (k : Packet) : Bool := l.st == .up && decide (frameCredits k ≤ l.room k.vl)

/-- A discard counted for the record of its second (R451). -/
def tallyDiscard (n cause fjob : Nat) (d : Dev) : Dev :=
  let mine : Nat × Nat × Nat × Nat → Bool := fun x => x.1 == n && x.2.1 == cause && x.2.2.1 == fjob
  let l := d.brim.discards
  let l := if l.any mine then l.map (fun x => if mine x then (x.1, x.2.1, x.2.2.1, x.2.2.2 + 1) else x)
    else l ++ [(n, cause, fjob, 1)]
  { d with brim := { d.brim with discards := l } }

/-- A DATA frame sent: credits are consumed. A 1.x link carries fjob 0 alone; another job's frame is discarded under
0x0805, whose cause the spec does not give: a free one (R437, log 33). -/
def sendFrame (n fjob fhops : Nat) (k : Packet) (d : Dev) : Dev :=
  let l := d.link n
  if l.major = 1 ∧ fjob ≠ 0 then (let c := bits d.free.1.toNat 0 4
    tallyDiscard n c fjob d.free.2)
  else (d.setLink n { l with sent := l.sent.set k.vl ((l.sent.get 0 k.vl + frameCredits k) % 65536) }).emit
    (.data n fjob fhops k)

/-- The VL queues of a port go as far as credits allow; a lane whose head waits holds its later packets (R435). -/
def drainQueue (n : Nat) : List (Packet × Nat × Nat) → List Nat → Dev → List (Packet × Nat × Nat) × Dev
  | [], _, d => ([], d)
  | (k, j, h) :: r, blocked, d =>
    if (d.link n).canSend k && !blocked.contains k.vl then drainQueue n r blocked (sendFrame n j h k d)
    else
      let (l, d) := drainQueue n r (k.vl :: blocked) d
      ((k, j, h) :: l, d)

/-- A port sends what its credits allow. -/
def pumpPort (n : Nat) (d : Dev) : Dev :=
  let (l, d) := drainQueue n (d.port (portId n)).queue [] d
  d.onPort (portId n) (fun x => { x with queue := l })

/-- A packet enters a port's VL queue (R439). -/
def fabricOut (n fjob fhops : Nat) (k : Packet) (d : Dev) : Dev :=
  pumpPort n (d.onPort (portId n) (fun x => { x with queue := x.queue ++ [(k, fjob, fhops)] }))

/-! ## The confirmation buffer (R285, R288) -/

/-- Bytes of a port tile's confirmation buffer. -/
def bufferBytes (id : Nat) : Nat := if id < 96 then 0x200000 else if id < 144 then 0x400000 else 0x100000

def HeldKind.bytes : HeldKind → Nat
  | .hbm _ bs => bs.length
  | .packet k => 16 + payloadBytes k + 4

/-- Bytes a port tile holds: held writes and, at a fabric port, the ingress log (R339). -/
def PortTile.used (x : PortTile) : Nat :=
  (x.held.map (fun h => h.kind.bytes)).sum + (x.ingress.map (fun e => (HeldKind.packet e.2.1).bytes)).sum

/-- Bytes that pieces under way will bring into a port tile's buffer: data of a WRITE that the port tile has asked for, and
data of a COPY on its way here (R281, R288). -/
def Dev.bufferReserved (d : Dev) (id : Nat) : Nat :=
  16 * ((((d.port id).outs.filter (fun o => o.1.op == 1)).map (·.1.units)).sum
    + ((d.brim.ports.flatMap (fun x => x.2.outs.filter (fun o => o.1.op == 3 && o.1.target == id))).map (·.1.units)).sum)

/-- Room for `n` more bytes beside what has begun to come. -/
def bufferRoom (d : Dev) (id n : Nat) : Bool := decide ((d.port id).used + d.bufferReserved id + n ≤ bufferBytes id)

/-- The unconfirmed step of a job that a step bit names (R285). -/
def Job.stepOf (j : Job) (sbit : Bool) : Nat := if (j.conf % 2 == 1) = sbit then j.conf else j.conf + 1

/-- A write held until its step is confirmed. -/
def holdWrite (id : Nat) (h : HeldWrite) (d : Dev) : Dev := d.onPort id (fun x => { x with held := x.held ++ [h] })

end Sys2Proof.Machine
end

