-- ==== Sys2Proof/Machine/Image.lean ====
section
/-! DEFINITION. The bytes of a tile's state image, section by section (R318, R349), of its boundary record (R472), of bulk
records (R319) and of channel records (R337). The spec gives the sections, their order and sizes and what each holds; the
place of each value within an entry is the model's choice (log 111). -/

namespace Sys2Proof.Machine

/-- An entry of the issue queue whose work is checked: a scout's estimates are not (R326), a DISCARD computes nothing. -/
def QEntry.checked (q : QEntry) : Bool :=
  match q.work with
  | .tensor d _ => (tdesc d).mode != 2
  | .drain _ _ _ _ => true
  | .discard _ => false

/-- An entry of a section: its values, 0 to its size. -/
def entry (n : Nat) (bs : List Byte) : List Byte := padTo n (bs.take n)

/-- What a tile's state image is made of: the counts of a section's entries, and which of them. -/
structure ImageCut where
  slots : Nat
  sqs : List Nat
  lines : Nat
  tasks : List Nat
  store : Nat
  steers : Nat
  spec : Bool
  tensor : Bool
  filter : Nat

/-- The most match-store entries of a kind (R156). -/
def kindStore (k : Nat) : Nat := if k = 0 then 256 else if k = 1 then 128 else 32

/-- The sections of a whole state image: the entries of the tile's kind, none of a resource that it lacks (R318). -/
def ImageCut.whole (k : Nat) : ImageCut :=
  { slots := kindSlots k, sqs := List.range (kindSqs k), lines := 32, tasks := List.range (kindTasks k), store := kindStore k
    steers := kindSteers k, spec := true, tensor := k == 0, filter := 1024 }

/-- The sections of a boundary record (R472). -/
def ImageCut.record (i : Image) (r : TileRec) (filter : Nat) : ImageCut :=
  { slots := (r.tasks.map (·.slots)).sum, sqs := r.sqs.map (·.q), lines := i.nLines, tasks := r.tasks.map (·.id)
    store := (r.tasks.map (fun t => t.window * t.nOps)).sum, steers := r.steers.length, spec := r.spec, tensor := r.kind == 0
    filter := min 1024 filter }

/-- A thread slot. -/
def imgSlot (t : Tile) (n v : Nat) : List Byte :=
  let s := t.slot n
  let timed := match s.wait with
    | some (.sqHead _ _) => true
    | some (.line _ _) => true
    | some (.retry c _) => c == 6 || c == 7
    | _ => false
  entry 160 ((List.range 32).flatMap (fun r => le 4 (if r = 0 then 0 else (s.regs.get 0 r).toNat)) ++ le 4 s.pc ++ le 4 (slotStateReg s)
    ++ le 4 s.ctx.toNat ++ counterBytes timed v)

/-- A sync queue. -/
def imgSq (t : Tile) (v q : Nat) : List Byte :=
  let s := t.sq q
  entry 272 (le 4 (sqStateReg s) ++ le 4 (s.puts % 65536 + 65536 * s.gets) ++ le 4 (s.nPut % 65536 + 65536 * s.nGet)
    ++ counterBytes (!s.waiters.isEmpty || !s.putWait.isEmpty) v ++ s.toks.flatMap (fun x => le 4 x.toNat))

/-- A line. -/
def imgLine (t : Tile) (k : Nat) : List Byte :=
  entry 16 (le 4 (hbMapReg t k) ++ le 4 (flagAt (t.sync.enrol.getLsbD k) 0) ++ le 4 (flagAt (t.sync.pending.getLsbD k) 0)
    ++ le 4 (t.sync.cross.get 0 k))

/-- A task: its state and the bitmap of the ended tags of its window. -/
def imgTask (t : Tile) (id : Nat) : List Byte :=
  let ended := match t.flow.tasks.find? (fun s => s.decl.id == id) with
    | some s => sumOver 64 (fun i => flagAt (s.ended.contains ((s.base + i) % 65536)) i)
    | none => 0
  entry 16 (le 4 (taskStateReg t id) ++ le 8 ended)

/-- An input channel. -/
def imgChan (t : Tile) (n v : Nat) : List Byte :=
  let c := t.chan n
  entry 16 (le 4 (chStateReg t n) ++ counterBytes (starved t n).isSome v ++ le 4 c.next ++ le 4 c.returned)

/-- An output port. -/
def imgPort (d : Dev) (p : Pos) (n v : Nat) : List Byte :=
  let o := (d.tile p).port n
  entry 16 (le 4 (oportReg d p n) ++ counterBytes o.waiting v ++ le 4 o.num ++ le 4 o.lastCredit)

/-- A match-store entry: task, operand, tag, speculative tag, its place among the bulk records of the store. -/
def imgMatch (t : Tile) (i : Nat) : List Byte :=
  match t.flow.store[i]? with
  | none => List.replicate 8 0
  | some e => entry 8 (le 1 e.task ++ le 1 e.op ++ le 2 e.tok.tag ++ le 1 (0x80 + (match e.tok.prov with
      | some s => 0x40 + s
      | none => 0)) ++ le 1 0 ++ le 2 i)

/-- A steering unit: its control holds, its predictor, the speculations it has outstanding. -/
def imgSteer (t : Tile) (i : Nat) : List Byte :=
  match t.flow.steers[i]? with
  | none => List.replicate 32 0
  | some u => entry 32 (padTo 16 (u.ctl.flatMap (fun k => le 2 k.tag))
      ++ le 1 (sumOver 8 (fun n => flagAt (bit (fieldLe ((u.ctl[n]?.map (·.data)).getD []) 0 1) 0) n)) ++ le 1 u.ctl.length
      ++ le 1 u.predict ++ le 1 (flagAt u.lastPath 0) ++ le 1 (sumOver 8 (fun s => flagAt (u.kept.any (fun x => x.1 == s)) s))
      ++ le 1 (sumOver 8 (fun s => flagAt (u.kept.any (fun x => x.1 == s && x.2.1)) s)))

/-- The speculation section: SPEC_STATUS, the unit of each tag, the owners of the scratch lines. -/
def imgSpec (t : Tile) : List Byte :=
  entry 272 (le 4 (specStatusReg t)
    ++ (List.range 8).flatMap (fun s => le 1 (match t.flow.specTags.find? (fun x => x.1 == s) with
      | some (_, u) => 0x80 + u
      | none => 0))
    ++ (List.range 256).flatMap (fun l => le 1 (match t.flow.owners.get none l with
      | some s => 0x80 + s
      | none => 0)))

/-- An entry of the issue queue: its descriptor or its operands, what it is, its tag, step and progress. -/
def imgQueue (t : Tile) (i : Nat) : List Byte :=
  match t.tensor.queue[i]? with
  | none => List.replicate 58 0
  | some q =>
    let (kind, ws) : Nat × List Word := match q.work with
      | .tensor d _ => (1, d)
      | .drain insn a b c => (2, [insn, a, b, c])
      | .discard insn => (3, [insn])
    entry 58 (padTo 32 (ws.flatMap (fun w => le 4 w.toNat)) ++ le 1 kind ++ le 1 (match q.spec with
        | some s => 0x80 + s
        | none => 0) ++ le 4 q.step ++ le 1 (flagAt q.running 0 + flagAt q.draining 1) ++ le 2 q.prog.nb ++ le 2 q.prog.mb0
      ++ le 2 q.prog.ks ++ le 2 q.prog.mb)

/-- Accords and issue queue. -/
def imgTensor (t : Tile) : List Byte :=
  entry 256 (le 4 (accStateReg t) ++ le 4 (accFlagsReg t) ++ (List.range 8).flatMap (fun n => le 2 (t.acc n).tag)
    ++ (List.range 4).flatMap (imgQueue t))

/-- A run of registers of the control window. -/
def imgRegs (d : Dev) (p : Pos) (off n : Nat) : List Byte :=
  (List.range n).flatMap (fun i => le 4 (ctlRead d p (off + 4 * i)).toNat)

/-- The check state (R349): the checks outstanding for the earliest unconfirmed step and the next one, by unit of work. -/
def imgCheck (j : Job) (t : Tile) : List Byte :=
  let pend := fun (s : Nat) => (t.tensor.queue.filter (fun q => q.checked && q.step == s)).length
    + (t.tensor.drains.filter (fun x => x.step == s)).length + (t.tensor.pendingDrains.filter (fun x => x.step == s)).length
    + (match t.tensor.vop with
      | some v => if v.step = s then 1 else 0
      | none => 0)
  entry 256 (le 4 j.conf ++ le 4 (pend j.conf) ++ le 4 (pend (j.conf + 1))
    ++ le 4 (match t.check.failStep with
      | some s => s
      | none => 0xFFFFFFFF) ++ le 1 (min 3 t.check.failCnt) ++ le 3 0 ++ le 4 t.check.bndUsed ++ le 4 t.check.replays)

/-- A state image, cut as told (R318, R472): the counters of pacer periods are free values. -/
def imageBytes (cut : ImageCut) (j : Job) (p : Pos) (d : Dev) : List Byte × Dev :=
  let t := d.tile p
  let (fs, d') := freeNats (cut.slots + cut.sqs.length + 64) d
  let f := fun i => fs.getD i 0
  let n := cut.slots
  let m := cut.slots + cut.sqs.length
  let body :=
    (List.range n).flatMap (fun i => imgSlot t i (f i)) ++ cut.sqs.zipIdx.flatMap (fun x => imgSq t (f (n + x.2)) x.1)
      ++ (List.range cut.lines).flatMap (imgLine t) ++ cut.tasks.flatMap (imgTask t)
      ++ (List.range 32).flatMap (fun i => imgChan t i (f (m + i))) ++ (List.range 32).flatMap (fun i => imgPort d p i (f (m + 32 + i)))
      ++ (List.range cut.store).flatMap (imgMatch t) ++ (List.range cut.steers).flatMap (imgSteer t)
      ++ (if cut.spec then imgSpec t else [])
      ++ (if cut.tensor then imgTensor t ++ entry 320 (imgRegs d p 0x100 64 ++ imgRegs d p 0x310 12)
            ++ (List.range 4).flatMap (fun s => imgRegs d p (0x400 + 0x400 * s) 68 ++ imgRegs d p (0x600 + 0x400 * s) 68)
          else [])
      ++ (List.range 10).flatMap (fun i => le 8 (t.stats.get 0 i)) ++ (List.range 10).flatMap (fun i => le 8 (t.stats.get 0 (16 + i)))
      ++ entry 128 ((List.range 16).flatMap (fun c => le 4 (t.net.cc.get 0 c).toNat) ++ le 4 (netStatusReg t)
          ++ le 4 (redStatusReg d p) ++ (List.range 8).flatMap (fun i => le 4 (t.net.stat.get 0 i)))
      ++ padTo (4 * cut.filter) ((t.net.filter.take cut.filter).flatMap (fun e => le 4 (addrWord e.1 % 2 ^ 20 + 2 ^ 20 * (e.2.1 % 4096))))
      ++ imgCheck j t
  let h := fun crc => entry 64 (le 4 (tileInfoReg t p.kind) ++ le 4 t.step
    ++ le 4 (ctlRead d p 0x4400).toNat ++ le 4 (netCfgReg t) ++ le 4 t.faultInfo.toNat ++ le 4 t.faultPc.toNat
    ++ le 4 t.faultInsn.toNat ++ le 4 (64 + body.length) ++ le 4 crc)
  (h (crc32c (h 0 ++ body)) ++ body, d')

/-! ## Bulk records (R319) -/

/-- An accord. -/
def bulkAcc (t : Tile) (n : Nat) : List Byte :=
  let a := t.acc n
  le 4 (n + flagAt a.int 8 + flagAt a.sat 9) ++ le 4 a.tag ++ (List.range 1024).flatMap (fun i => le 4 (a.vals.get 0 i).toNat)

/-- A token. -/
def bulkToken (n : Nat) (k : Token) : List Byte := entry 72 (tokenBytes k n)

/-- A packet that awaits acknowledgement, with its timer and its attempt. -/
def bulkOut (o : Out) (v : Nat) : List Byte :=
  headerBytes o.pkt ++ le 4 o.local_ ++ le 4 o.target ++ counterBytes o.timer v ++ le 1 o.op ++ le 1 (flagAt o.timer 0 + flagAt o.reissued 1)
    ++ le 1 (o.lcc.getD 0xFF) ++ le 1 o.units

/-- A held signal. -/
def bulkSig (h : HeldSig) : List Byte :=
  le 4 h.count ++ le 4 h.value.toNat
    ++ le 4 (addrWord h.pkt.src % 2 ^ 20 + 2 ^ 20 * (h.queue % 64) + 2 ^ 26 * (h.counter % 16) + flagAt h.sbit 30)
    ++ le 4 (h.pkt.seq % 4096 + 2 ^ 12 * (h.pkt.rank % 2 ^ 17) + flagAt h.pkt.xdev 29)

/-- A reduction child held. -/
def bulkRed (c : RedChild) : List Byte :=
  entry 256 (le 16 (c.entry % 64 + 2 ^ 6 * (c.tag % 2 ^ 16) + 2 ^ 22 * (c.element % 2 ^ 24) + 2 ^ 46 * (c.level % 64)
    + 2 ^ 52 * (c.j % 2 ^ 35) + flagAt c.right 87 + 2 ^ 88 * (c.step % 2 ^ 32)) ++ c.data)

/-- The bulk records of a tile, in the order of R319. -/
def bulkBytes (t : Tile) (d : Dev) : List Byte × Dev :=
  let outs := t.net.outs.filter (fun o => o.pkt.ty != .token)
  let (fs, d) := freeNats outs.length d
  (((List.range 8).filter (fun n => (t.acc n).st != .free)).flatMap (bulkAcc t)
    ++ t.flow.chans.flatMap (fun x => x.2.toks.flatMap (bulkToken x.1))
    ++ t.flow.store.flatMap (fun e => bulkToken e.op e.tok)
    ++ t.flow.steers.zipIdx.flatMap (fun x => (x.1.data ++ x.1.ctl ++ x.1.kept.map (·.2.2)).flatMap (bulkToken x.2))
    ++ (t.net.outs.filter (fun o => o.pkt.ty == .token)).flatMap (fun o => bulkToken (o.pkt.tag) (tokenOf o.pkt.data))
    ++ outs.zipIdx.flatMap (fun x => bulkOut x.1 (fs.getD x.2 0)) ++ t.net.sigs.flatMap bulkSig ++ t.net.red.flatMap bulkRed, d)

/-! ## Boundary and channel records (R334, R337, R472) -/

/-- The boundary record of a tile: the state image as R472 cuts it, and the bulk record. -/
def recordBytes (j : Job) (p : Pos) (d : Dev) : List Byte × Dev :=
  let t := d.tile p
  let (img, d) := imageBytes (.record j.img (j.recOf t.rc) t.net.filter.length) j p d
  let (bulk, d) := bulkBytes t d
  (img ++ bulk, d)

/-- The channel record of a Store tile: the tokens of its FIFOs at 80 bytes, the descriptors of its rings at 32. -/
def chanRecord (t : Tile) : List Byte :=
  t.deeps.flatMap (fun q => q.toks.flatMap (fun k => padTo 80 (tokenBytes k 0)))
    ++ t.dmaqs.flatMap (fun q => q.ring.flatMap (fun e => t.mem.readN (q.area + 32 + 32 * (e.pos % 64)) 32))

end Sys2Proof.Machine
end

