-- ==== Sys2Proof/Machine/SyncInsn.lean ====
section
/-! DEFINITION. Sync-queue and hatband instructions (R203, R217-R232, R332). -/

namespace Sys2Proof.Machine

/-- A thread leaves a queue's list of waiting puts. -/
def leavePut (ts q : Nat) (t : Tile) : Tile :=
  t.setSq q { t.sq q with putWait := (t.sq q).putWait.filter (· != ts) }

/-- SQPUT: waits while the queue is full, overflows past its declared count, else appends (R220, R223). -/
def execSqput (t : Pos) (ts : Nat) (rs1 : Reg) (qid : BitVec 6) : State → Out_ :=
  liftAt (slotOk t ts) (runThread t ts (encQ 0x40 0 rs1 0 0 qid) (fun d =>
    let x := d.tile t
    let q := qid.toNat
    let s := x.sq q
    if kindSqs t.kind ≤ q then .fault 0x0104 0
    else if s.full ∧ s.waiters.isEmpty then
      .wait 6 (d.onTile t (fun x => x.setSq q { s with putWait := s.putWait.filter (· != ts) ++ [ts] }))
    else if s.overPut then .fault 0x0202 0
    else .done (d.onTile t (fun x => sqAppend t q ((x.slot ts).g rs1) (leavePut ts q x)))))

/-- A place is free in a queue: the puts that wait for one run again, and the first to come takes it (R220, R221). -/
def wakePuts (q : Nat) (t : Tile) : Tile :=
  let ws := (t.sq q).putWait
  let t := t.setSq q { t.sq q with putWait := [] }
  { t with slots := t.slots.map (fun (n, s) => match s.wait with
      | some (.retry 6 _) => (n, if ws.contains n then { s with st := .running, wait := none } else s)
      | _ => (n, s)) }

/-- SQGET: underflows past its declared count, takes the head and frees its place, or waits behind the earlier waiters (R219,
R220, R223). -/
def execSqget (t : Pos) (ts : Nat) (rd : Reg) (qid : BitVec 6) : State → Out_ :=
  liftAt (slotOk t ts) (runThread t ts (encQ 0x41 rd 0 0 0 qid) (fun d =>
    let q := qid.toNat
    let s := (d.tile t).sq q
    if kindSqs t.kind ≤ q then .fault 0x0104 0
    else if s.overGet then .fault 0x0201 0
    else match s.toks with
      | v :: r =>
        .done (d.onTile t (fun x => (wakePuts q (x.setSq q { s with toks := r, gets := satInc 0xFFFF s.gets 1 })).onSlot ts
          (fun y => y.setG rd v)))
      | [] =>
        .stay (d.onTile t (fun x => (x.setSq q { s with waiters := s.waiters ++ [(ts, rd)] }).onSlot ts
          (fun y => { y with st := .waiting, wait := some (.sqHead q rd) })))))

/-- SQCNT never waits (R219). -/
def execSqcnt (t : Pos) (ts : Nat) (rd : Reg) (qid : BitVec 6) : State → Out_ :=
  liftAt (slotOk t ts) (runThread t ts (encQ 0x42 rd 0 0 0 qid) (fun d =>
    if kindSqs t.kind ≤ qid.toNat then .fault 0x0104 0
    else regOp t ts rd (fun _ => BitVec.ofNat 32 ((d.tile t).sq qid.toNat).toks.length) d))

/-- Enrolled on a job-local line; a line at or beyond n_lines counts as not enrolled (R225). -/
def enrolled (t : Tile) (k : Nat) : Bool := decide (k < t.sync.nLines) && t.sync.enrol.getLsbD k

/-- Arrived on a line and its crossing not yet seen. -/
def pendingOn (t : Tile) (k : Nat) : Bool := t.sync.pending.getLsbD k

/-- What holds back an arrive on line 0: signals not appended (R230), descriptors not completed, retained ranges
not yet in their host (R332). -/
def arriveHeld (t : Tile) : Bool := t.sync.sigOut != 0 || t.dmaOut != 0 || !t.check.copying.isEmpty

/-- The arrive bit of a line set. -/
def setPending (k : Nat) (t : Tile) : Tile :=
  { t with sync := { t.sync with pending := t.sync.pending ||| BitVec.ofNat 32 (2 ^ k) } }

/-- A thread waits for the crossing of a line. -/
def waitLine (k : Nat) (w : Word) (s : Slot) : Slot := { s with st := .waiting, wait := some (.line k w) }

/-- HBARR (R203, R227, R230). -/
def execHbarr (t : Pos) (ts : Nat) (qid : BitVec 6) : State → Out_ :=
  liftAt (slotOk t ts) (runThread t ts (encQ 0x43 0 0 0 0 qid) (fun d =>
    let x := d.tile t
    let k := qid.toNat
    if !enrolled x k then .fault 0x0104 0
    else if pendingOn x k then .done d
    else if k = 0 ∧ arriveHeld x then .wait 7 d
    else .done (d.onTile t (setPending k))))

/-- HBWAIT (R203, R227). -/
def execHbwait (t : Pos) (ts : Nat) (qid : BitVec 6) : State → Out_ :=
  liftAt (slotOk t ts) (runThread t ts (encQ 0x44 0 0 0 0 qid) (fun d =>
    let x := d.tile t
    let k := qid.toNat
    if !enrolled x k then .fault 0x0104 0
    else if pendingOn x k then .stay (d.onTile t (fun x => x.onSlot ts (waitLine k (encQ 0x44 0 0 0 0 qid))))
    else .done d))

/-- HBSYNC: HBARR and then HBWAIT (R203). -/
def execHbsync (t : Pos) (ts : Nat) (qid : BitVec 6) : State → Out_ :=
  liftAt (slotOk t ts) (runThread t ts (encQ 0x45 0 0 0 0 qid) (fun d =>
    let x := d.tile t
    let k := qid.toNat
    if !enrolled x k then .fault 0x0104 0
    else if !pendingOn x k ∧ k = 0 ∧ arriveHeld x then .wait 7 d
    else .stay (d.onTile t (fun x => (setPending k x).onSlot ts (waitLine k (encQ 0x45 0 0 0 0 qid))))))

end Sys2Proof.Machine
end

