-- ==== Sys2Proof/Machine/Hatband.lean ====
section
/-! DEFINITION. Crossings of hatband lines, boundary records, retention copies and the confirmation of steps
(R33-R36, R223, R227-R229, R330-R335). -/

namespace Sys2Proof.Machine

/-- A position of a job that contributes 1 to a line: one that is not enrolled, a dead tile, a spare or a tile of a hole
whatever it does; any other once it has arrived (R34). -/
def lineReady (d : Dev) (k crossed : Nat) (p : Pos) : Bool :=
  let t := d.tile p
  !enrolled t k || d.map.idlePos p || (pendingOn t k && t.sync.cross.get 0 k == crossed)

/-- The job and job-local number of a physical line. -/
def lineOwner (d : Dev) (line : Nat) : Option (Job × Nat) :=
  d.jobs.findSome? (fun j => (j.lines.findIdx? (· == line)).map (fun k => (j, k)))

/-- A line may cross: its gate is open, no isolated field holds a tile of the job, and every enrolled position has
arrived once more than it has seen crossings (R33, R36, R227). -/
def mayCross (d : Dev) (j : Job) (k : Nat) : Bool :=
  j.running && j.gateList.getD k false
    && (j.places d.map).all (fun p => lineReady d k (j.crossed.get 0 k) p && !d.map.isolated.contains p.field)

/-- A line crosses at the root; the gate of line 0 closes until the planner opens it again (R227, R228). -/
def Job.cross (k : Nat) (j : Job) : Job :=
  { j with crossed := j.crossed.set k (j.crossed.get 0 k + 1), gate0 := if k = 0 then false else j.gate0
           beats := if k = 0 then j.beats + 1 else j.beats }

/-- A job that crosses line 0 stamps the epoch of the newest tables from then on (R267 order 3). -/
def leaveOldEpoch (slot : Nat) (d : Dev) : Dev :=
  let d := d.onJob slot (fun j => { j with epoch := d.map.epoch })
  let was := match d.map.change with
    | some c => c.left.contains slot
    | none => false
  let d : Dev := { d with map := { d.map with change := d.map.change.map (fun c => { c with left := c.left.filter (· != slot) }) } }
  if was then answerChange slot d else d

/-- HATBAND_CROSSING (R33, R227). -/
def execHatbandCrossing (line : Nat) : State → Out_ :=
  liftAt (decide (line < 32)) (fun d =>
    match lineOwner d line with
    | some (j, k) =>
      if mayCross d j k then
        (let d := d.onJob j.slot (Job.cross k)
         if k = 0 then leaveOldEpoch j.slot d else d)
      else d
    | none => d)

/-- A queue that ends its step below a declared count (R223). -/
def SQ.short (s : SQ) : Bool :=
  (s.nPut != 0xFFFF && decide (s.puts < s.nPut)) || (s.nGet != 0xFFFF && decide (s.gets < s.nGet))

/-- The first queue that fails the check of the crossing. -/
def shortQueue (t : Tile) (n : Nat) : Option Nat := (List.range n).find? (fun q => (t.sq q).short)

/-- Histogram banks and statistics at a crossing: running values become last-step values (R108, R109). -/
def rollOver (t : Tile) : Tile :=
  { t with
    hist := (t.hist.filter (fun x => decide (x.1 % 0x400 < 0x200))).map (fun x => (x.1 + 0x200, x.2))
    stats := (List.range 16).foldl (fun m i => m.set (16 + i) (t.stats.get 0 i)) t.stats }

/-- Children already combined, dropped after two crossings (R265). -/
def ageSeen (l : List RedSeen) : List RedSeen :=
  (l.map (fun s => { s with crossings := s.crossings + 1 })).filter (fun s => decide (s.crossings < 2))

/-- A tile's own beat of a crossing of line 0 (R229; steps are counted without bound and STEP_COUNT shows them modulo 2^32,
log 170): STEP_COUNT, queue counts, statistics; the record begins and
the retained ranges are to be copied (R334); children of reductions are kept for two crossings (R265). -/
def stepTile (rec_ : Bool) (copies : List Nat) (t : Tile) : Tile :=
  let t := rollOver t
  { t with
    step := t.step + 1
    once := []
    sync := { t.sync with sqs := t.sync.sqs.map (fun x => (x.1, { x.2 with puts := 0, gets := 0 })) }
    net := { t.net with redSeen := ageSeen t.net.redSeen }
    check := { t.check with recording := rec_, copying := copies } }

/-- Pending clears, the crossing is counted, and the waits on the line complete (R227). The count has no bound here;
HB_CROSS_k shows it modulo 2^32 (DESIGN CHOICE, log 170: the spec gives the register's width alone). -/
def seeLine (kind k : Nat) (t : Tile) : Tile :=
  let t := { t with
    sync := { t.sync with pending := t.sync.pending &&& ~~~(BitVec.ofNat 32 (2 ^ k))
                          cross := t.sync.cross.set k (t.sync.cross.get 0 k + 1) } }
  { t with slots := t.slots.map (fun (n, s) => match s.wait with
      | some (.line l _) => (n, if l = k then s.resume kind else s)
      | _ => (n, s)) }

/-- The retention entries of a tile that have something to copy (R333). -/
def copiesOf (j : Job) (c : RC) : List Nat :=
  (j.img.rets.zipIdx.filter (fun x => x.1.rc == c && x.1.len != 0)).map (·.2)

/-- A tile of a job may see a crossing that the root has released: while its job runs or its stop still accepts what
was under way (R33, R235). -/
def maySee (j : Job) (t : Tile) (k : Nat) : Bool :=
  (j.st == .running || (j.st == .halted && j.stop == .accepting))
    && (j.phase == .idle || j.phase == .pauseBoundary || j.phase == .pauseQuiesce || j.phase == .rbQuiesce)
    && decide (k < j.img.nLines) && decide (t.sync.cross.get 0 k < j.crossed.get 0 k)

/-- A tile sees a crossing of line 0. -/
def seeStep (p : Pos) (j : Job) (d : Dev) : Dev :=
  let t := d.tile p
  let bad := shortQueue t (kindSqs p.kind)
  let rec_ := (boundEntry j.img t.rc).isSome
  let e := d.map.epoch
  let d := d.onTile p (fun t => stepTile rec_ (copiesOf j t.rc) (Tile.reRank j { t with net := { t.net with epoch := e } }))
  let d := if rec_ then d else releaseSignals p d
  match bad with
  | some q => faultTile p 0x0201 0 { insn := BitVec.ofNat 32 q } d
  | none => d

/-- CROSSING_SEEN (R223, R227, R229, R231, R334). -/
def execCrossingSeen (t : Pos) (k : Nat) : State → Out_ :=
  liftAt (t.ok && decide (k < 32)) (fun d =>
    match d.jobAt t with
    | none => d
    | some j =>
      if maySee j (d.tile t) k && !d.map.isDead t && !d.suspended t then
        (let d := d.onTile t (seeLine t.kind k)
         if k = 0 then seeStep t j d else d)
      else d)

/-- RETENTION_COPY_DONE: a retained range reaches its copy slot in the host, and its protection ends (R332-R334). -/
def execRetentionCopyDone (t : Pos) (entry : Nat) : State → Out_ :=
  liftAt t.ok (fun d =>
    let x := d.tile t
    match d.jobAt t with
    | none => d
    | some j =>
      match j.img.rets[entry]? with
      | none => d
      | some r =>
        match j.posOf d.map r.host with
        | none => d
        | some q =>
          if !x.check.copying.contains entry || x.check.recording || !j.running || d.map.isDead q || d.map.isDead t
              || d.suspended t || d.suspended q then d
          else match x.load r.off r.len with
            | none => faultTile t 0x0401 0 {} d
            | some (bs, x') =>
              let x' := wakeCause 1 (wakeCause 7
                { x' with check := { x'.check with copying := x'.check.copying.filter (· != entry) } })
              match (d.tile q).store (r.hostOff + x.step % 2 * r.len) bs with
              | some h => (d.setTile q h).setTile t x'
              | none => d)

/-- The boundary record of a tile as it stands (R334, R335). -/
def snapOf (d : Dev) (j : Job) (p : Pos) : Snap :=
  let t := d.tile p
  { rc := t.rc, step := t.step, tile := t.unplaced j d.map
    links := d.wafer.links.filter (fun k => k.j == j.slot && (match j.chan k.ci with
      | some r => r.prod == t.rc
      | none => false)) }

/-- A record put into its slot, step mod 2 (R333). -/
def putSnap (s : Snap) (j : Job) : Job :=
  { j with bounds := j.bounds.filter (fun b => !(b.rc == s.rc && b.step % 2 == s.step % 2)) ++ [s] }

/-- The length of a tile's boundary record (R334, R472). -/
def recordLength (j : Job) (t : Tile) : Nat :=
  recordSize j.img (j.recOf t.rc) (min 1024 t.net.filter.length) + bulkSize t

/-- A record that fits: kept, its bytes in its slot at the host with the channel record behind them (R333, R334, R337). -/
def keepRecord (p : Pos) (j : Job) (r : RetRec) (d : Dev) : Dev :=
  let d := d.onTile p (fun t => { t with check := { t.check with recording := false, bndUsed := recordLength j t } })
  let t := d.tile p
  let d := d.onJob j.slot (putSnap (snapOf d j p))
  match j.posOf d.map r.host with
  | none => d
  | some q =>
    let (bs, d) := recordBytes j p d
    d.onTile q (fun h => h.overwrite (r.hostOff + 2 * r.len + t.step % 2 * r.bndLen) (bs ++ chanRecord t))

/-- A tile's record written: kept, or 0x0403 when it is too long (R334, R337). -/
def writeRecord (p : Pos) (j : Job) (r : RetRec) (d : Dev) : Dev :=
  let n := recordLength j (d.tile p)
  if decide (65536 < n) || decide (r.bndLen < n + chanRecordSize j.img (d.tile p).rc) then
    faultTile p 0x0403 0 {} (d.onTile p (fun t => { t with check := { t.check with recording := false, bndUsed := n } }))
  else releaseSignals p (keepRecord p j r d)

/-- BOUNDARY_RECORD_WRITTEN: once the drains in progress have ended, the tile resumes (R334, R335). -/
def execBoundaryRecordWritten (t : Pos) : State → Out_ :=
  liftAt t.ok (fun d =>
    match d.jobAt t with
    | none => d
    | some j =>
      match boundEntry j.img (d.tile t).rc with
      | some r =>
        if (d.tile t).check.recording && (d.tile t).tensor.drains.isEmpty && j.faults && !d.suspended t then writeRecord t j r d
        else d
      | none => d)

/-! ## Confirmation (R330, R331) -/

/-- Work of a step or an earlier one that is still to pass its checks. -/
def workOpen (t : Tile) (s : Nat) : Bool :=
  t.tensor.queue.any (fun q => q.checked && decide (q.step ≤ s)) || t.tensor.drains.any (fun j => decide (j.step ≤ s))
    || t.tensor.pendingDrains.any (fun j => decide (j.step ≤ s))
    || (match t.tensor.vop with
      | some v => decide (v.step ≤ s)
      | none => false)

/-- A tile clean for a step: it has seen the crossing that ends the step, and no work of the step is still to be checked
(R330). -/
def cleanFor (t : Tile) (s : Nat) : Bool := decide (s < t.step) && !workOpen t s

/-- The ingress log after one more confirmation of a job (R339). -/
def ageIngress (slot : Nat) (l : List (Nat × Packet × Nat)) : List (Nat × Packet × Nat) :=
  (l.map (fun (j, k, n) => (j, k, if j = slot then n - 1 else n))).filter (fun x => x.1 != slot || x.2.2 != 0)

/-- A step confirmed: held writes of it may commit, the ingress log ages, the gate's own condition holds from now on
(R331, R339, R356). -/
def confirmStep (j : Job) (d : Dev) : Dev :=
  let d := d.onJob j.slot (fun j => { j with
    conf := j.conf + 1
    energy := { j.energy with readyAt := if j.conf + 1 = j.crossed.get 0 0 then some d.now else j.energy.readyAt } })
  { d with brim := { d.brim with ports := d.brim.ports.map (fun (n, x) =>
      (n, { x with ingress := ageIngress j.slot x.ingress })) } }

/-- STEP_CONFIRM (R330). -/
def execStepConfirm (j : Nat) : State → Out_ :=
  liftAt (decide (j < 32)) (fun d =>
    match d.job? j with
    | none => d
    | some x =>
      if x.running && decide (x.conf < x.crossed.get 0 0)
          && (x.places d.map).all (fun p => d.map.isDead p || cleanFor (d.tile p) x.conf) then confirmStep x d
      else d)

end Sys2Proof.Machine
end

