-- ==== Sys2Proof/Machine/Timeouts.lean ====
section
/-! DEFINITION. The bounds that stop a job: credit and consumer stalls, sync-queue and hatband waits (R183, R221,
R232). The counts of pacer periods are not kept: the expiry of a bound is the command (log 11). -/

namespace Sys2Proof.Machine

/-- The counters of a tile count: its job runs, no counter of the device is held by an isolation or a suspension
(R235, R346, R364). -/
def Dev.timersRun (d : Dev) (p : Pos) : Bool :=
  !d.map.holdTimers && !d.energy.fields.any (fun f => f.2.suspendedNow)
    && (match d.jobAt p with
      | some j => j.st == .running && j.stop == .none && (j.phase == .idle || j.phase == .pauseBoundary)
          && !d.map.isDead p && (d.energy.fields.get {} p.field).powered
      | none => false)

/-- A field that holds a tile of the job is isolated: its tiles elsewhere raise no wait timeout (R233). -/
def jobIsolated (d : Dev) (p : Pos) : Bool :=
  match d.jobAt p with
  | some j => (j.places d.map).any (fun q => d.map.isolated.contains q.field)
  | none => false

/-- Where a waiting thread's bound expires. -/
def waitAt (s : Slot) (ts : Nat) (w : Word) : FaultAt := { slot := ts, pc := s.pc, tag := s.tag, insn := w }

/-- The thread that waits to send on a port, for credit or for the send buffer (R183). -/
def stalledSend (t : Tile) (port : Nat) : Option (Nat × Slot × Word) :=
  t.slots.findSome? (fun (n, s) => match s.wait with
    | some (.retry c w) => if (c = 2 ∨ c = 3) ∧ bits w.toNat 0 5 = port then some (n, s, w) else none
    | _ => none)

/-- CREDIT_STALL_TIMEOUT: 0x0203, the output port in the detail word (R183). -/
def execCreditStallTimeout (t : Pos) (port : Nat) : State → Out_ :=
  liftAt (t.ok && decide (port < 32)) (fun d =>
    match stalledSend (d.tile t) port with
    | some (n, s, w) => if d.timersRun t then faultTile t 0x0203 port (waitAt s n w) d else d
    | none => d)

/-- CONSUMER_STALL_TIMEOUT: 0x0203, the input channel in the detail word and bit 5 set (R183). -/
def execConsumerStallTimeout (t : Pos) (ch : Nat) : State → Out_ :=
  liftAt (t.ok && decide (ch < 32)) (fun d =>
    match starved (d.tile t) ch with
    | some w => if d.timersRun t then faultTile t 0x0203 (0x20 + ch) { insn := w } d else d
    | none => d)

/-- The instruction word of a thread that waits on a sync queue: SQGET, or SQPUT for a place (R221). -/
def Slot.sqWait (s : Slot) : Option Word :=
  match s.wait with
  | some (.sqHead q rd) => some (encQ 0x41 rd 0 0 0 (BitVec.ofNat 6 q))
  | some (.retry 6 w) => some w
  | _ => none

/-- SQ_WAIT_TIMEOUT: 0x0206 (R221). -/
def execSqWaitTimeout (t : Pos) (ts : Nat) : State → Out_ :=
  liftAt (slotOk t ts) (fun d =>
    let s := (d.tile t).slot ts
    match s.sqWait with
    | some w => if d.timersRun t && !jobIsolated d t then faultTile t 0x0206 0 (waitAt s ts w) d else d
    | none => d)

/-- The line and instruction word of a thread that waits for a crossing or to arrive on line 0 (R230, R232, R332). -/
def Slot.hbWait (s : Slot) : Option (Nat × Word) :=
  match s.wait with
  | some (.line k w) => some (k, w)
  | some (.retry 7 w) => some (0, w)
  | _ => none

/-- HB_WAIT_TIMEOUT: 0x0204; the counter rests while the line's gate is held (R232). -/
def execHbWaitTimeout (t : Pos) (ts : Nat) : State → Out_ :=
  liftAt (slotOk t ts) (fun d =>
    let s := (d.tile t).slot ts
    match s.hbWait with
    | some (k, w) =>
      if d.timersRun t && !jobIsolated d t && !(hbGateReg d t).testBit k then faultTile t 0x0204 0 (waitAt s ts w) d
      else d
    | none => d)

end Sys2Proof.Machine
end

