-- ==== Sys2Proof/Machine/Mesh.lean ====
section
/-! DEFINITION. The mesh: routers, the egress port tile, destination interfaces, timers and reissue, table epochs
(R242-R251, R255-R259, R267). -/

namespace Sys2Proof.Machine

/-! ## Flights -/

def Dev.flight? (d : Dev) (id : Nat) : Option Flight := d.wafer.flights.find? (fun f => f.id == id)

def Dev.dropFlight (id : Nat) (d : Dev) : Dev :=
  { d with wafer := { d.wafer with flights := d.wafer.flights.filter (fun f => f.id != id) } }

def Dev.setFlight (f : Flight) (d : Dev) : Dev :=
  { d with wafer := { d.wafer with flights := d.wafer.flights.map (fun g => if g.id = f.id then f else g) } }

/-- A packet goes on to another place, where it stands behind those that came before it. -/
def Dev.moveFlight (f : Flight) (d : Dev) : Dev :=
  { d with wafer := { d.wafer with flights := d.wafer.flights.filter (fun g => g.id != f.id) ++ [f] } }

/-- A packet of a released epoch (R267). -/
def stale (d : Dev) (k : Packet) : Bool := k.epoch != d.map.epoch && d.map.released

/-! ## Routers (R244, R246) -/

/-- The copy of the remap and of the turn tables that an epoch bit names. -/
def MapSt.copy (m : MapSt) (epoch : Bool) : MapSt :=
  if epoch = m.epoch then m else { m with spares := m.oldSpares, turns := m.oldTurns }

/-- A packet's destination at a router: the target router and the destination from here on. A logical destination
heads for the slot's default position, whose router resolves it (R244). -/
def routeTarget (m : MapSt) (f : Flight) (p : Pos) : Option (Pos × Addr) :=
  match f.pkt.dst with
  | .phys q => some (q, .phys q)
  | .logical lx ly =>
    let first : Pos := ⟨16 * (lx / 12) + cPos (lx % 12), ly⟩
    if p = first then (m.physicalOf lx ly).map (fun q => (q, .phys q)) else some (first, .logical lx ly)
  | .port o =>
    let c := if f.retargeted then 0 else match f.pkt.src with
      | .phys s => portLink o s
      | _ => 0
    (portRouter o c).map (fun r => (r, .port o))
  | .region _ => none

/-- Dimension order: east or west first, then north or south, then out (R244): 0 N, 1 S, 2 E, 3 W, 4 local. -/
def dimOrder (p q : Pos) : Nat :=
  if p.px < q.px then 2 else if q.px < p.px then 3 else if q.py < p.py then 0 else if p.py < q.py then 1 else localSide

/-- The output of a router: the first turn-table entry that matches, else dimension order (R246). -/
def routerOut (m : MapSt) (p q : Pos) (side : Nat) : Nat :=
  match (m.turns.get [] p.ix).find? (fun e => decide (e.x0 ≤ q.px ∧ q.px ≤ e.x1 ∧ e.y0 ≤ q.py ∧ q.py ≤ e.y1)
      && e.arrival == side) with
  | some e => e.out
  | none => dimOrder p q

/-- The next router and the side on which a packet enters it. -/
def neighbour (p : Pos) (out : Nat) : Option (Pos × Nat) :=
  if out = 0 then (if p.py = 0 then none else some (⟨p.px, p.py - 1⟩, 1))
  else if out = 1 then (if p.py < 479 then some (⟨p.px, p.py + 1⟩, 0) else none)
  else if out = 2 then (if p.px < 511 then some (⟨p.px + 1, p.py⟩, 3) else none)
  else if out = 3 then (if p.px = 0 then none else some (⟨p.px - 1, p.py⟩, 2))
  else none

/-- A router that works: it passed its test and its field has supply (R27). -/
def routerWorks (d : Dev) (p : Pos) : Bool :=
  !d.map.routerDead p && !d.map.isolated.contains p.field && (d.energy.fields.get {} p.field).powered

/-- A packet leaves the mesh, counted at the router. -/
def dropAt (id i : Nat) (p : Pos) (d : Dev) : Dev := (d.dropFlight id).onTile p (Tile.netCount i)

/-- What a router makes of a packet that arrived whole: a discard with its counter, or an output with the packet and place
behind it. A path that the current tables lead into a router that does not work is no path; one that the old copy leads there
loses the packet, which no counter shows (R246, R267). -/
inductive Hop where
  | drop (i : Nat)
  | lost
  | go (out : Nat) (f : Flight)
  deriving DecidableEq, Repr

/-- A packet leaves by the local port: a port tile's edge link, or the destination interface, which discards a header it does
not know (R242). -/
def localHop (f : Flight) (k : Packet) : Hop :=
  match k.dst with
  | .port o => if malformed k then .lost else .go localSide { f with pkt := k, place := .port o }
  | .phys q => if malformed k then .drop 6 else .go localSide { f with pkt := k, place := .dest q }
  | _ => .drop 6

/-- The choice of a router (R244, R246, R267). A copy of a multicast stays at the router it was made for (R260). -/
def hopOf (d : Dev) (f : Flight) (p : Pos) (side : Nat) : Hop :=
  let k := { f.pkt with hops := min 1023 (f.pkt.hops + 1) }
  let m := d.map.copy k.epoch
  if stale d k then .drop 7
  else if k.ty = .mcast ∧ f.retargeted then .go localSide { f with pkt := k, place := .dest p }
  else match routeTarget m f p with
    | none => .drop 6
    | some (q, dst) =>
      let k := { k with dst := dst }
      let out := routerOut m p q side
      if out = localSide then (if p = q then localHop f k else .drop 6)
      else match neighbour p out with
        | none => .drop 6
        | some (r, s) =>
          if routerWorks d r then .go out { f with pkt := k, place := .router r s }
          else if k.epoch = d.map.epoch then .drop 6 else .lost

/-! ## Arbitration (R247) -/

/-- The head packet of an input and lane: the one that has waited longest there. -/
def headAt (d : Dev) (p : Pos) (side vl : Nat) : Option Flight :=
  d.wafer.flights.find? (fun f => f.place == .router p side && f.pkt.vl % 4 == vl)

/-- The head packet of an input and lane, when it asks for an output. -/
def asks (d : Dev) (p : Pos) (out vl side : Nat) : Option Flight :=
  (headAt d p side vl).filter (fun f => match hopOf d f p side with
    | .go o _ => o == out
    | _ => false)

/-- The class of a packet (R247). -/
def hopsClass (hops : Nat) : Nat := if hops < 64 then 0 else if hops < 192 then 1 else if hops < 448 then 2 else 3

def Dev.arb (d : Dev) (p : Pos) (out : Nat) : Arb := d.wafer.arbs.get {} (5 * p.ix + out)

/-- The input that a lane serves next: the one whose round it is while it may still send, else the next in the coding of
R246 that has a packet, with 2^c packets for a head of class c (R247, log 171). The packet and the round after it. -/
def laneGrant (d : Dev) (p : Pos) (out vl : Nat) : Option (Flight × Nat × Nat) :=
  let (cur, left) := (d.arb p out).rounds.get (4, 0) vl
  let next := ([1, 2, 3, 4, 5].map (fun i => (cur + i) % 5)).findSome? (fun s =>
    (asks d p out vl s).map (fun f => (f, s, 2 ^ hopsClass f.pkt.hops - 1)))
  if left = 0 then next
  else match asks d p out vl cur with
    | some f => some (f, cur, left - 1)
    | none => next

/-- The lane that an output serves next: VL3, then VL1, then VL0 and VL2 in turn (R247). -/
def portGrant (d : Dev) (p : Pos) (out : Nat) : Option (Nat × Flight × Nat × Nat) :=
  let lane := fun (v : Nat) => (laneGrant d p out v).map (fun g => (v, g))
  let two := if (d.arb p out).last2 then (lane 0 <|> lane 2) else (lane 2 <|> lane 0)
  lane 3 <|> lane 1 <|> two

/-- The arbitration state after a grant. -/
def Arb.granted (vl side left : Nat) (a : Arb) : Arb :=
  { last2 := if vl = 0 then false else if vl = 2 then true else a.last2, rounds := a.rounds.set vl (side, left) }

/-- A packet that arrived whole: discarded, or forwarded when the output it asks for serves it next; it waits otherwise. -/
def hop (f : Flight) (p : Pos) (side : Nat) (d : Dev) : Dev :=
  match hopOf d f p side with
  | .drop i => dropAt f.id i p d
  | .lost => d.dropFlight f.id
  | .go out g =>
    match portGrant d p out with
    | some (vl, w, s, left) =>
      if w.id = f.id then
        ({ d with wafer := { d.wafer with
            arbs := d.wafer.arbs.set (5 * p.ix + out) ((d.arb p out).granted vl s left) } } : Dev).moveFlight g
      else d
    | none => d

/-- ROUTER_FORWARD (R243, R244, R246, R247, R267). What stands at a router that does not work is lost with it (R27). -/
def execRouterForward (id : Nat) (crcOk : Bool) : State → Out_ :=
  lift (fun d =>
    match d.flight? id with
    | none => d
    | some f =>
      match f.place with
      | .router p side =>
        if !routerWorks d p then d.dropFlight id else if crcOk then hop f p side d else dropAt id 5 p d
      | _ => d)

/-! ## Destination interfaces (R242, R235, R335) -/

/-- What a destination interface does with a packet. -/
inductive Verdict where
  | take | hold | discard | late
  deriving DecidableEq, Repr

/-- R242 and the rules of stops and recoveries; `own` tells that the type is taken whatever its step bit (a SIGNAL is
held by its own rule, R231). -/
def verdict (d : Dev) (p : Pos) (k : Packet) (own : Bool) : Verdict :=
  if d.map.idlePos p || malformed k || k.vl != vlOf k.ty || stale d k then .discard
  else match d.jobAt p with
    | none => .discard
    | some j =>
      if j.slot ≠ k.jslot ∨ j.phase.shut then .discard
      else if j.st = .halted ∧ j.stop ≠ .accepting then .late
      else if takesTraffic d p (if own then (d.tile p).sbit else k.sbit) then .take else .hold

/-- A packet handed to a destination interface is taken by `f`, which answers none when it must wait. -/
def arrive (f : Pos → Packet → Dev → Option Dev) (own : Bool) (x : Flight) (p : Pos) (d : Dev) : Dev :=
  match verdict d p x.pkt own with
  | .take => (f p x.pkt (d.dropFlight x.id)).getD d
  | .hold => d
  | .discard => dropAt x.id (if stale d x.pkt then 7 else 6) p d
  | .late =>
    let d := d.dropFlight x.id
    (match d.jobAt p with
    | some j => d.onJob j.slot (fun j => { j with late := j.late + 1 })
    | none => d)

/-- A command that hands a packet of one type to its destination tile. -/
def atTile (id : Nat) (ty : PType) (own : Bool) (f : Pos → Packet → Dev → Option Dev) : State → Out_ :=
  lift (fun d =>
    match d.flight? id with
    | none => d
    | some x =>
      match x.place with
      | .dest p => if x.pkt.ty = ty then arrive f own x p d else d
      | _ => d)

/-- An answer of a tile goes back. -/
def answerTo (p : Pos) (k : Packet) (ty : PType) (tag : Nat) (data : List Byte) (d : Dev) : Dev :=
  d.send p ((d.tile p).answer p k ty tag data)

/-- The acknowledgement of a packet: its type in tag, a TOKEN's port in red. -/
def ackTo (p : Pos) (k : Packet) (d : Dev) : Dev :=
  let a := (d.tile p).answer p k .ack (codeOf k.ty) []
  d.send p { a with red := if k.ty = .token then k.tag else 0 }

/-- The duplicate filter holds a reissued packet (R255): it knows a packet by source and number alone. -/
def isDup (t : Tile) (k : Packet) : Bool :=
  k.attempt != 0 && t.net.filter.any (fun e => e.1 == k.src && e.2.1 == k.seq)

/-- A packet that the filter forgets may still come again: its issuer still waits for it, a copy of it is on its way, or it
came from another device, whose issuer this one does not see. -/
def mayRepeat (d : Dev) (e : Addr × Nat × Bool) : Bool :=
  e.2.2 || d.wafer.flights.any (fun f => f.pkt.src == e.1 && f.pkt.seq == e.2.1 && f.pkt.attempt != 0)
    || (match e.1 with
      | .phys q => (d.tile q).net.outs.any (fun o => o.pkt.ty != .token && o.pkt.seq == e.2.1)
      | .port id => (d.port id).outs.any (fun o => o.1.pkt.seq == e.2.1)
      | _ => false)

/-- A packet applied enters the filter of 1,024. An entry displaced that may still come again is younger than four
timeouts and counts; how old any other is, is a matter of pacer counts: a free value (R255, logs 11 and 172). -/
def remember (p : Pos) (k : Packet) (d : Dev) : Dev :=
  let full := decide (1024 ≤ (d.tile p).net.filter.length)
  let young := ((d.tile p).net.filter.head?.map (mayRepeat d)).getD false
  let d' := d.onTile p (fun t => { t with net := { t.net with
    filter := keepLast 1024 (t.net.filter ++ [(k.src, k.seq, k.xdev)]) } })
  if full then
    (let d'' := d'.free.2
     if young || d'.free.1.getLsbD 0 then d''.onTile p (Tile.netCount 4) else d'')
  else d'

/-- An answer that matches no waiting packet (R257). -/
def lateArrival (p : Pos) (d : Dev) : Dev := eventOnce p 0x0302 0 (d.onTile p (Tile.netCount 1))

/-! ## Timers, reissue, sequence numbers (R251, R256, R257) -/

/-- The packet of a tile that an answer matches: sequence number and attempt (R257). -/
def matching (t : Tile) (k : Packet) : Option Out :=
  t.net.outs.find? (fun o => o.pkt.ty != .token && o.pkt.seq == k.seq && o.pkt.attempt == k.attempt)

/-- A packet's number becomes free, or is quarantined when it was ever reissued (R251, R257). -/
def freeSeq (p : Pos) (o : Out) (d : Dev) : Dev :=
  drainUnsent p (d.onTile p (fun t => { t with net := { t.net with
    outs := removeFirst (fun x => x == o) t.net.outs
    quarantine := if o.reissued then t.net.quarantine ++ [o.pkt.seq] else t.net.quarantine } }))

/-- A leaf of a reduction on its way to its level-1 node (R263). -/
def redLeaf (k : Packet) : Bool := k.ty == .red && bits (fieldLe k.sub 0 4) 24 7 == 1

/-- Source data read afresh for a reissue (R210, R256): PUT, RADD, MCAST and a leaf of REDC read tile memory, the others
have none. -/
def freshData (t : Tile) (o : Out) : Option (List Byte × Tile) :=
  if o.op = 0x50 ∨ o.op = 0x52 ∨ o.op = 0x53 ∨ redLeaf o.pkt then t.load o.local_ o.pkt.data.length else some (o.pkt.data, t)

/-- A tile's packet sent again, or abandoned after attempt 3 (R256). -/
def reissue (p : Pos) (o : Out) (d : Dev) : Dev :=
  let d := eventOnce p 0x0301 0 (d.onTile p (Tile.netCount 0))
  if 3 ≤ o.pkt.attempt then
    faultTile p 0x0307 0 {} (d.onTile p (fun t => { t with net := { t.net with
      outs := removeFirst (fun x => x == o) t.net.outs } }))
  else match freshData (d.tile p) o with
    | none => faultTile p 0x0401 0 {} d
    | some (bs, t) =>
      let k := { o.pkt with attempt := o.pkt.attempt + 1, data := bs, epoch := t.net.epoch, hops := 0 }
      let t := { t with net := { t.net with
        outs := modifyFirst (fun x => x == o) (fun x => { x with pkt := k, reissued := true }) t.net.outs } }
      (d.setTile p (t.netCount 2)).send p k

/-- The timeouts of a port tile run: no isolation holds the device's counters and the packet's job runs (R235, R281,
R346). -/
def Dev.portTimersRun (d : Dev) (slot : Nat) : Bool :=
  !d.map.holdTimers && (match d.job? slot with
    | some j => j.running
    | none => false)

/-- SEQ_QUARANTINE_END: two timeout periods after its freeing a number may be used again (R257), of a tile, of a mesh
channel's tokens (R259), or of a port tile (R281). The periods are counted where the timers run (R44). -/
def execSeqQuarantineEnd (t : Numbers) (seq : Nat) : State → Out_ :=
  liftAt (timerOk (t.timer seq)) (fun d =>
    match t with
    | .tile t =>
      if d.timersRun t && (d.tile t).net.quarantine.contains seq then
        drainUnsent t (d.onTile t (fun x => { x with net := { x.net with quarantine := x.net.quarantine.filter (· != seq) } }))
      else d
    | .token t port =>
      if d.timersRun t && ((d.tile t).port port).quarantine.contains seq then
        d.onTile t (fun x => wakeCause 3 (x.setPort port { x.port port with
          quarantine := (x.port port).quarantine.filter (· != seq) }))
      else d
    | .port id =>
      if d.map.holdTimers then d
      else d.onPort id (fun x => { x with quarantine := x.quarantine.filter (· != seq) }))

/-- CREDIT_REPEAT: the latest count of a mesh channel sent again, twice at most (R259). Channels 32 to 39 name the
deep FIFOs of a Store tile, whose counts go to their producers. -/
def execCreditRepeat (t : Pos) (ch : Nat) : State → Out_ :=
  liftAt (t.ok && decide (ch < 40)) (fun d =>
    let x := d.tile t
    match d.jobAt t with
    | none => d
    | some j =>
      if !d.timersRun t then d
      else if ch < 32 then
        let c := x.chan ch
        (match c.ci.bind j.chan with
        | none => d
        | some r =>
          let dst : Option (Addr × Nat) :=
            if 64 < r.depth then (j.posOf d.map r.host).map (fun q =>
              (d.addrOf q, 8 + ((d.tile q).deeps.findIdx? (fun f => some f.ci == c.ci)).getD 0))
            else (j.posOf d.map r.prod).map (fun q => (d.addrOf q, r.port))
          match c.reps, dst with
          | n + 1, some (a, port) =>
            (d.onTile t (fun x => x.setChan ch { x.chan ch with reps := n })).send t (creditPacket x t a port c.returned)
          | _, _ => d)
      else match x.deeps[ch - 32]? with
        | none => d
        | some f =>
          match f.reps, (j.chan f.ci).bind (fun r => (j.posOf d.map r.prod).map (fun q => (q, r.port))) with
          | n + 1, some (q, port) =>
            (d.onTile t (fun x => { x with deeps := x.deeps.set (ch - 32) { f with reps := n } })).send t
              (creditPacket x t (d.addrOf q) port f.returned)
          | _, _ => d)

/-! ## The egress port tile (R250, R443) -/

/-- Where a region coordinate of a job lies, as a packet address; none when it is no tile of the job (R249, R250). -/
def regionAddr (d : Dev) (j : Job) (c : RC) : Option Addr :=
  if j.img.isMember c then (j.posOf d.map c).map d.addrOf else none

/-- A packet that leaves its port tile toward this device's own tiles: region form is translated, the other forms
are kept (R250 orders 3 and 4). -/
def deliverHere (pid : Nat) (j : Job) (k : Packet) (d : Dev) : Dev :=
  match k.dst with
  | .region c =>
    (match regionAddr d j c with
    | some a => d.portSend pid { k with dst := a }
    | none => d.portSend pid (portAnswer pid k .nack 0x0304 []))
  | _ => d.portSend pid k

/-- A packet at the port tile that sends it is held there until its step is confirmed (R178, R285). -/
def holdPacket (pid : Nat) (j : Job) (f : Flight) (k : Packet) (d : Dev) : Dev :=
  if bufferRoom d pid (HeldKind.packet k).bytes then
    holdWrite pid { j := j.slot, src := (match k.src with
        | .phys p => (d.tile p).rc
        | _ => ⟨0, 0⟩), step := j.stepOf k.sbit, kind := .packet k } (d.dropFlight f.id)
  else d

/-- Orders 2 and 3 of R250 at a port tile. -/
def egress (pid : Nat) (f : Flight) (d : Dev) : Dev :=
  match d.job? f.pkt.jslot, f.pkt.pfx with
  | some j, some target =>
    let k := { f.pkt with dst := target, pfx := none, len := f.pkt.len - 1 }
    let gone := d.dropFlight f.id
    let nack := gone.portSend pid (portAnswer pid k .nack 0x0304 [])
    (match d.rankTable j k.epoch with
    | none => nack
    | some t =>
      match t.find k.rank with
      | .own => deliverHere pid j { k with xdev := false } gone
      | .missing => nack
      | .port n =>
        let n := tetherChoice d n
        if 48 ≤ n ∧ (d.link n).minor = 0 ∧ (d.link n).st = .up then nack
        else if portId n = pid then holdPacket pid j f k d
        else gone.portToPort pid (portId n) f.pkt none)
  | _, _ => d.dropFlight f.id

/-- EGRESS_PORT_TILE: transit goes out at once; an answer to the host is held at its tether port; a packet toward
another device follows R250 (R443, R449). -/
def execEgressPortTile (id : Nat) : State → Out_ :=
  lift (fun d =>
    match d.flight? id with
    | none => d
    | some f =>
      match f.place with
      | .port pid =>
        (match portNum pid with
        | none => d
        | some n =>
          if stale d f.pkt then d.dropFlight id
          else match f.transit with
          | some (fjob, fhops) =>
            (match f.pkt.pfx with
            | some target => fabricOut n fjob fhops { f.pkt with dst := target, pfx := none } (d.dropFlight id)
            | none => d.dropFlight id)
          | none =>
            if f.pkt.xdev then egress pid f d
            else match d.job? f.pkt.jslot with
              | some j => if 48 ≤ n then holdPacket pid j f f.pkt d else d.dropFlight id
              | none => d.dropFlight id)
      | _ => d)

/-! ## Table epochs (R267) -/

/-- A job whose tiles change epoch only at a crossing or by the timer: it runs and is under no repair. -/
def Job.changesLate (j : Job) : Bool := j.st == .running && j.stop == .none && !j.phase.recovering

/-- The tiles of a job stamp the new epoch. -/
def stampEpoch (slot : Nat) (d : Dev) : Dev :=
  let e := d.map.epoch
  let d := d.onJob slot (fun j => { j with epoch := e })
  let again : Tile → Tile := match d.job? slot with
    | some j => Tile.reRank j
    | none => id
  { d with wafer := { d.wafer with tiles := d.wafer.tiles.map (fun (i, t) =>
      (i, if t.net.jslot = some slot then again { t with net := { t.net with epoch := e } } else t)) } }

/-- Turn tables by position. -/
def turnTab (l : TurnTables) : Tab (List Turn) := l.foldl (fun (t : Tab (List Turn)) x => Tab.set t x.1.ix x.2) []

/-- The routers that no path may enter: failed ones, and those of fields without supply (R27, R246). -/
def MapSt.badRouter (m : MapSt) (p : Pos) : Bool := m.routerDead p || m.isolated.contains p.field

/-- The positions of the square. -/
def allPos : List Pos := (List.range 480).flatMap (fun y => (List.range 512).map (fun x => ⟨x, y⟩))

/-- Turn tables that the management processor may have built: 32 entries at most in a router, and no path that enters a bad
router on the way to a good one (R246). Only the neighbours of bad routers need a look. -/
def turnsOk (m : MapSt) (l : TurnTables) : Bool :=
  let m' := { m with turns := turnTab l }
  l.all (fun x => decide (x.2.length ≤ 32))
    && ((m.dead.isEmpty && m.isolated.isEmpty) || (allPos.filter m.badRouter).all (fun b =>
      [0, 1, 2, 3].all (fun out => allPos.all (fun p =>
        m.badRouter p || (neighbour p out).map (·.1) != some b
          || [0, 1, 2, 3, 4].all (fun side => allPos.all (fun q => m.badRouter q || routerOut m' p q side != out))))))

/-- A recovery whose tables are switched goes on (R343 order 4, R344 order 3). -/
def Job.tablesDone (j : Job) : Job :=
  { j with phase := if j.phase = .tkTable then .tkLoad else if j.phase = .rpTable then .rpScanOut else j.phase }

/-- A job's rank table in the new copy. -/
def Job.newRanks (c : Change) (j : Job) : Job :=
  { j with oldRanks := j.ranks, ranks := match c.ranks.find? (fun x => x.1 == j.slot) with
      | some (_, t) => some t
      | none => j.ranks }

/-- TABLE_WRITE_DONE: the new copy is complete and the switch is armed; jobs that are paused, halted or under repair
and tiles of no job change at once (R267 orders 1 to 3); an
applied refinement completes (R383, R420). -/
def execTableWriteDone (turns : TurnTables) : State → Out_ :=
  lift (fun d =>
    match d.map.change with
    | none => d
    | some c =>
      if c.st ≠ .writing ∨ !turnsOk d.map turns then d
      else
        let late := (d.jobs.filter Job.changesLate).map (·.slot)
        let now := (d.jobs.filter (fun j => !j.changesLate)).map (·.slot)
        let m := d.map
        let d : Dev := { d with
          map := { m with
            oldSpares := m.spares
            oldTurns := m.turns
            spares := m.rebuilt
            turns := turnTab turns
            epoch := !m.epoch
            released := false
            change := some { c with st := .armed, left := late } }
          jobs := d.jobs.map (fun (j : Job) => (if c.jobs.contains j.slot then j.tablesDone else j).newRanks c) }
        let e := d.map.epoch
        let d : Dev := { d with wafer := { d.wafer with tiles := d.wafer.tiles.map (fun x =>
          (x.1, if x.2.net.jslot.isNone then { x.2 with net := { x.2.net with epoch := e } } else x.2)) } }
        let d := d.each now stampEpoch
        match c.req with
        | none => d
        | some r =>
          if c.ranks.isEmpty then
            finishCmd r 0x61 stOK 0 (le 1 0xFF ++ le 3 0 ++ le 4 d.map.live.length)
              { d with map := { d.map with change := some { c with st := .armed, left := late, req := none } } }
          else d.each now answerChange)

/-- EPOCH_CHANGE_TIMER: a job that has not crossed line 0 in 50 ms changes epoch (R267 order 3). -/
def execEpochChangeTimer (j : Nat) : State → Out_ :=
  liftAt (decide (j < 32)) (fun d =>
    match d.map.change with
    | none => d
    | some c =>
      if c.st = .armed ∧ c.left.contains j then
        answerChange j (stampEpoch j { d with map := { d.map with change := some { c with left := c.left.filter (· != j) } } })
      else d)

/-- EPOCH_RELEASE: after the drain interval the old copy is released; a waiting change starts (R267 order 5). The timers of the
device run again once no isolation's change is left (R346). -/
def execEpochRelease : State → Out_ :=
  lift (fun d =>
    match d.map.change with
    | none => d
    | some c =>
      if c.st = .armed ∧ c.left.isEmpty
          ∧ d.wafer.tiles.all (fun x => x.2.net.jslot.isNone || x.2.net.epoch == d.map.epoch) then
        let d := d.each (c.ranks.map (·.1)) answerChange
        { d with map := { d.map with
            released := true
            holdTimers := d.map.holdTimers && (!c.isolation || d.map.waitingChanges.any (·.isolation))
            change := d.map.waitingChanges.head?
            waitingChanges := d.map.waitingChanges.drop 1 } }
      else d)

end Sys2Proof.Machine
end

