-- ==== Sys2Proof/Machine/Reduce.lean ====
section
/-! DEFINITION. In-network reduction: ordinals, nodes, results and their delivery (R120-R123, R262-R266). -/

namespace Sys2Proof.Machine

/-- P, the number of participants (R262). -/
def RedEntry.count (e : RedEntry) : Nat := e.w * e.h * e.ndev

/-- The level of the root, ceil(log2 P) (R120). -/
def RedEntry.top (e : RedEntry) : Nat := if e.count ≤ 1 then 0 else Nat.log2 (e.count - 1) + 1

/-- The ordinal of a participant (R262). -/
def RedEntry.ordinal (e : RedEntry) (rank : Nat) (c : RC) : Option Nat :=
  if e.rank0 ≤ rank ∧ rank < e.rank0 + e.ndev ∧ e.rx0 ≤ c.rx ∧ c.rx < e.rx0 + e.w ∧ e.ry0 ≤ c.ry ∧ c.ry < e.ry0 + e.h
  then some ((rank - e.rank0) * e.w * e.h + (c.ry - e.ry0) * e.w + (c.rx - e.rx0))
  else none

/-- The device rank and region coordinate of an ordinal. -/
def RedEntry.place (e : RedEntry) (q : Nat) : Nat × RC :=
  let r := q % (e.w * e.h)
  (e.rank0 + q / (e.w * e.h), ⟨e.rx0 + r % e.w, e.ry0 + r / e.w⟩)

/-- Data units in a RED packet: 15, and 14 when the reduction spans devices (R241). -/
def RedEntry.cut (e : RedEntry) : Nat := if e.ndev > 1 then 14 else 15

/-- Runs of 16-byte units cut into chunks of at most `k` units: offset in units and length. -/
def chunks (units k : Nat) : List (Nat × Nat) :=
  if k = 0 then [] else (List.range (cdiv units k)).map (fun i => (i * k, min k (units - i * k)))

/-- The sub-header of a RED packet (R264). -/
def redSub (element level : Nat) (down : Bool) (step j : Nat) : List Byte :=
  le 4 (element % 2 ^ 24 + 2 ^ 24 * level + flagAt down 30) ++ le 4 step ++ le 8 j

/-- A packet from a tile toward a region coordinate: of this device, or by way of the egress port tile (R249, R250). -/
def aimed (d : Dev) (p : Pos) (off : Bool) (rank : Nat) (c : RC) (k : Packet) : Packet :=
  let t := d.tile p
  if !off then
    match d.jobAt p with
    | some j => { k with dst := (match j.posOf d.map c with
        | some q => d.addrOf q
        | none => k.dst) }
    | none => k
  else abroad k t.net.egress rank (.region c)

/-- A value on its way in the tree: its keys, its step and its elements. -/
structure RedVal where
  entry : Nat
  tag : Nat
  element : Nat
  step : Nat
  data : List Byte
  deriving DecidableEq, Repr

/-- A RED packet of a tile (R241, R264). -/
def redPacket (p : Pos) (v : RedVal) (level j : Nat) (down : Bool) (t : Tile) : Packet :=
  { t.packet p .red (.phys p) v.data with
    tag := v.tag, red := v.entry, sub := redSub v.element level down v.step j, len := (v.data.length + 15) / 16 + 1 }

/-- A RED packet to the router of an ordinal; `loc` is the source of a leaf in tile memory. -/
def redSend (p : Pos) (e : RedEntry) (v : RedVal) (level j : Nat) (down : Bool) (q : Nat) (lcc : Option Nat)
    (loc : Nat) (d : Dev) : Dev :=
  let (rank, c) := e.place q
  sendNumbered p (aimed d p (rank != (d.tile p).rank) rank c (redPacket p v level j down (d.tile p))) lcc
    (v.data.length / 16) loc (rcWord c) 0x55 d

/-- The combination of two children, element by element (R121-R123). -/
def redCombine (d : Dev) (p : Pos) (e : RedEntry) (v : RedVal) (level j : Nat) (l r : List Byte) : List Byte :=
  match d.jobAt p with
  | none => l
  | some jb =>
    unelems e.fmt (((elems e.fmt l).zip (elems e.fmt r)).zipIdx.map (fun ((a, b), i) =>
      redNode jb.img.seed jb.img.narrow e.op e.long e.fmt v.tag level j (v.element + i) v.step a b))

/-- The result written at a participant at the end of its way down, and its counter (R266); it waits at the tile while
a remote write waits (R210, R334). -/
def redWrite (p : Pos) (e : RedEntry) (v : RedVal) (d : Dev) : Dev :=
  let a := e.off + v.element * fmtSize e.fmt
  if remoteHeld d p a v.data.length then
    (let f : Flight := { id := d.wafer.nextId, pkt := redPacket p v 0 0 true (d.tile p), place := .own p, retargeted := true }
     { d with wafer := { d.wafer with flights := d.wafer.flights ++ [f], nextId := d.wafer.nextId + 1 } })
  else if !inMem p.kind a v.data.length then faultTile p 0x0305 0 {} d
  else match (d.tile p).store a v.data with
    | none => faultTile p 0x0401 0 {} d
    | some t =>
      let d := d.setTile p t
      if e.dce then addCc p e.dcc (v.data.length / 16) d else d

/-- The way down from node (L, j) at this router: the right child's router is sent the value, the left child is this
router's own, until level 0 (R266). -/
def redDown (p : Pos) (e : RedEntry) (v : RedVal) : Nat → Nat → Dev → Dev
  | 0, _, d => redWrite p e v d
  | l + 1, j, d =>
    let q := (2 * j + 1) * 2 ^ l
    let d := if q < e.count then redSend p e v l (2 * j + 1) true q none 0 d else d
    redDown p e v l (2 * j) d

/-- The root delivers the result (R266). -/
def redDeliver (p : Pos) (e : RedEntry) (v : RedVal) (d : Dev) : Dev :=
  if e.all then redDown p e v e.top 0 d
  else
    let c := epRc (BitVec.ofNat 32 e.endpoint)
    let base := e.off + v.element * fmtSize e.fmt
    d.each (chunks (v.data.length / 16) (if e.drank = (d.tile p).rank then 16 else 15)) (fun (o, n) d =>
      let off := base + 16 * o
      let k := { (d.tile p).packet p .put (.phys p) (slice v.data (16 * o) (16 * n)) with
        tag := putTag off, red := putRed off e.dcc e.dce }
      sendNumbered p (aimed d p (e.drank != (d.tile p).rank) e.drank c k) none n 0 (rcWord c) 0x55 d)

/-- A node's own mark of a child combined (R265). -/
def seenOf (v : RedVal) (level j : Nat) (right : Bool) : RedSeen :=
  { entry := v.entry, tag := v.tag, element := v.element, level := level, j := j, right := right, crossings := 0 }

/-- A child enters node (L, j) at this router: discarded when it was combined before; combined when its sibling is
here; passed through when there is no right child; else held (R120, R122, R263, R265). `fuel` bounds the levels. -/
def redEnter : Nat → Pos → RedEntry → RedVal → Nat → Nat → Bool → Dev → Dev
  | 0, _, _, _, _, _, _, d => d
  | fuel + 1, p, e, v, level, j, right, d =>
    let t := d.tile p
    let same : RedChild → Bool := fun c =>
      c.entry == v.entry && c.tag == v.tag && c.element == v.element && c.level == level && c.j == j
    let up := fun (v : RedVal) (d : Dev) =>
      if level = e.top then redDeliver p e v d
      else if j % 2 = 1 then redSend p e v (level + 1) (j / 2) false ((j - 1) * 2 ^ level) none 0 d
      else redEnter fuel p e v (level + 1) (j / 2) false d
    if t.net.redSeen.any (fun s => s.entry == v.entry && s.tag == v.tag && s.element == v.element
        && s.level == level && s.j == j && s.right == right) then d
    else match t.net.red.find? (fun c => same c && c.right != right) with
      | some c =>
        if c.data.length ≠ v.data.length ∨ c.step ≠ v.step then faultTile p 0x0306 0 {} d
        else
          let (l, r) := if right then (c.data, v.data) else (v.data, c.data)
          let out := redCombine d p e v level j l r
          let d := d.onTile p (fun t => { t with net := { t.net with
            red := t.net.red.filter (fun c => !same c),
            redSeen := t.net.redSeen ++ [seenOf v level j true, seenOf v level j false] } })
          up { v with data := out } (d.onTile p wakeCause9)
      | none =>
        if !right && decide (e.count ≤ (2 * j + 1) * 2 ^ (level - 1)) then up v d
        else if t.net.red.any (fun c => same c && c.right == right) then d
        else d.onTile p (fun t => { t with net := { t.net with red := t.net.red ++
          [{ entry := v.entry, tag := v.tag, element := v.element, level := level, j := j, right := right,
             step := v.step, data := v.data }] } })

/-- A participant's contribution from its memory at `loc` (R263): the whole reduction when P is 1; an even ordinal's value stays as a left
child; an odd one's travels to the router of the ordinal before it. -/
def redContribute (p : Pos) (e : RedEntry) (q : Nat) (v : RedVal) (lcc : Option Nat) (loc : Nat) (d : Dev) : Dev :=
  let gain := fun (d : Dev) => match lcc with
    | some n => addCc p n (v.data.length / 16) d
    | none => d
  if e.count ≤ 1 then gain (redDeliver p e v d)
  else if q % 2 = 0 then gain (redEnter 40 p e v 1 (q / 2) false d)
  else redSend p e v 1 (q / 2) false (q - 1) lcc loc d

/-- A participant's contribution would have to be held as a left child (R263): an even ordinal's, with a right sibling that is
not here. -/
def redHolds (t : Tile) (e : RedEntry) (q : Nat) (v : RedVal) : Bool :=
  decide (1 < e.count) && q % 2 == 0 && decide (q + 1 < e.count) && t.redNew v.entry v.tag v.element 1 (q / 2) false

end Sys2Proof.Machine
end

