-- ==== Sys2Proof/Machine/Dma.lean ====
section
/-! DEFINITION. DMA queues and engines, HBM reads and their line code, gathered transfers, the confirmation buffer's
commits, deep channels (R276-R289, R338, R471). -/

namespace Sys2Proof.Machine

/-! ## Runs and port tiles -/

def Dev.run? (d : Dev) (engine id : Nat) : Option DmaRun :=
  (d.brim.runs.find? (fun x => x.1 == engine && x.2.id == id)).map (·.2)

def Dev.onRun (id : Nat) (f : DmaRun → DmaRun) (d : Dev) : Dev :=
  { d with brim := { d.brim with runs := d.brim.runs.map (fun x => if x.2.id = id then (x.1, f x.2) else x) } }

/-- The engine of a run. -/
def Dev.engineOf (d : Dev) (id : Nat) : Option (Nat × DmaRun) := d.brim.runs.find? (fun x => x.2.id == id)

/-- The first code that fails a run stays; 0x0408 fails none and gives way to a code that does (R283, R284). -/
def DmaRun.fail (c : Nat) (r : DmaRun) : DmaRun := { r with code := if r.code = 0 ∨ r.code = 0x0408 then c else r.code }

/-- A piece's state. -/
def DmaRun.setPiece (k : Nat) (st : PieceSt) (r : DmaRun) : DmaRun :=
  { r with pieces := r.pieces.zipIdx.map (fun (x, i) => if i = k then { x with st := st } else x) }

/-- Sequence numbers of a port tile: free when no packet holds it and no quarantine keeps it (R257, R281). -/
def PortTile.seqFree (x : PortTile) (q : Nat) : Bool :=
  !x.outs.any (fun o => o.1.pkt.seq == q) && !x.quarantine.contains q

/-- The next `k` numbers are free. -/
def PortTile.room (x : PortTile) (k : Nat) : Bool :=
  decide (k ≤ 4096) && (List.range k).all (fun i => x.seqFree ((x.seqNext + i) % 4096))

/-- A port tile sends a packet that takes acknowledgement, on behalf of piece `k` of a run (R281). -/
def portLaunch (pid run k : Nat) (o : Out) (d : Dev) : Dev :=
  let x := d.port pid
  let pk := { o.pkt with seq := x.seqNext }
  (d.setPortTile pid { x with seqNext := (x.seqNext + 1) % 4096, outs := x.outs ++ [({ o with pkt := pk }, run, k)] }).portSend
    pid pk

/-- A packet of a run toward a tile of its job (R281, R471). -/
def runPacket (d : Dev) (j : Job) (r : DmaRun) (pid : Nat) (ty : PType) (q : Pos) (off dcc : Nat) (dce : Bool) (len : Nat)
    (bs : List Byte) : Packet :=
  { ty := ty, vl := vlOf ty, epoch := j.epoch, sbit := r.sbit, xdev := false, hops := 0, jslot := j.slot, long := false
    attempt := 0, dst := d.addrOf q, src := .port pid, seq := 0, len := len, rank := 0, red := putRed off dcc dce
    tag := putTag off, sub := [], data := bs, pfx := none }

/-- The packet with what a port tile keeps of it: `op` 0 READ data, 1 GET of a WRITE, 2 GATHER data, record or
counter, 3 COPY data; `loc` the HBM address behind it. -/
def runOut (k : Packet) (op loc units : Nat) : Out :=
  { pkt := k, timer := true, reissued := false, lcc := none, units := units, local_ := loc, target := 0, op := op }

/-- COPY data for a destination port tile (R281): a PUT on link 0, whose place in HBM both ends know from their piece. -/
def copyOut (j : Job) (r : DmaRun) (pid dst loc : Nat) (bs : List Byte) : Out :=
  let n := bs.length / 16
  { runOut { ty := .put, vl := vlOf .put, epoch := j.epoch, sbit := r.sbit, xdev := false, hops := 0, jslot := j.slot
             long := false, attempt := 0, dst := .port dst, src := .port pid, seq := 0, len := n, rank := 0, red := 0
             tag := 0, sub := [], data := bs, pfx := none } 3 loc n with target := dst }

/-- Bytes written to a tile by a run, as PUT packets of up to 16 units. -/
def sendPuts (j : Job) (r : DmaRun) (pid k : Nat) (q : Pos) (off op loc : Nat) (bs : List Byte) (d : Dev) : Dev :=
  d.each (chunks (bs.length / 16) 16) (fun (o, n) d =>
    portLaunch pid r.id k (runOut (runPacket d j r pid .put q (off + 16 * o) 0 false n (slice bs (16 * o) (16 * n))) op
      (loc + 16 * o) n) d)

/-! ## HBM reads (R276, R338) -/

/-- The 64-byte lines that a range touches, by line key. -/
def linesOf (a n : Nat) : List Nat :=
  if n = 0 then []
  else (List.range ((a + n - 1) / 64 - a / 64 + 1)).filterMap (fun i => (hbmKey ((a / 64 + i) * 64)).map (· / 64))

/-- What the line code found on a read: a corrected line is counted for its stack, an uncorrectable one poisoned. -/
def lineReport (line : Nat) (e : Ecc) (d : Dev) : Dev :=
  let s := line * 64 / 2 ^ 37
  match e with
  | .clean => d
  | .corrected => { d with brim := { d.brim with corrected := d.brim.corrected.set s (d.brim.corrected.get 0 s + 1) } }
  | .uncorrectable =>
    if d.brim.poisoned.contains line then d
    else { d with brim := { d.brim with poisoned := d.brim.poisoned ++ [line] } }

/-- A line whose data no read gives: poisoned, or of a stack without its supply (R276, R457, log 177). -/
def lineLost (d : Dev) (line : Nat) : Bool :=
  d.brim.poisoned.contains line || d.mod.hbmSides.contains (stackSide (line * 64 / 2 ^ 37))

/-- A range that holds such a line. -/
def poisonedIn (d : Dev) (a n : Nat) : Bool :=
  !(d.brim.poisoned.isEmpty && d.mod.hbmSides.isEmpty) && (linesOf a n).any (lineLost d)

/-- A confirmed write of the job, not yet committed, that a read meets: the read waits (R338). -/
def meetsHeld (d : Dev) (j : Job) (a n : Nat) : Bool :=
  d.brim.ports.any (fun x => x.2.held.any (fun h => match h.kind with
    | .hbm b bs => h.j == j.slot && decide (h.step < j.conf) && hbmMeet a n b bs.length
    | _ => false))

/-- Bytes of any range of HBM; none when a byte is unmapped. -/
def hbmBytes (d : Dev) (a n : Nat) : Option (List Byte) :=
  if hbmRangeOk a n then some (d.brim.hbmRead a n) else none

/-! ## Descriptors (R279-R283) -/

/-- The region coordinate and offset of a tile address of a descriptor (R280). -/
def tileRange (a : Nat) : Option (RC × Nat) :=
  match devAddr a with
  | .tile px py off => some (⟨px, py⟩, off)
  | _ => none

/-- 16-byte entries per block line of a GATHER window (R284). -/
def gatherEntries (x : DDesc) : Nat := x.nlines * cdiv x.nkb 16

/-- Bytes that a descriptor names in a tile, as far as they are known before its record is read. -/
def DDesc.tileBytes (x : DDesc) : Nat := if x.op = 2 then 16 + 48 * gatherEntries x else 16 * x.len

/-- The check of a descriptor when it leaves the ring (R283); 0 when it passes. -/
def descCode (j : Job) (requester : Pos) (x : DDesc) : Nat :=
  let hbms := if x.op = 3 then [x.src, x.dst] else [x.src]
  let n := if x.op = 2 then 64 else 16 * x.len
  if 3 < x.op ∨ !x.reservedOk ∨ (if x.op = 2 then x.nlines = 0 ∨ x.nkb = 0 else x.len = 0)
      ∨ x.src % 16 ≠ 0 ∨ x.dst % 16 ≠ 0 ∨ hbms.any (fun a => bit a 47)
      ∨ (x.op ≠ 3 ∧ (tileRange x.dst).isNone) then 0x0407
  else if hbms.any (fun a => !hbmRangeOk a n) then 0x0406
  else if !inMem requester.kind x.statusOff 16 then 0x0404
  else match (if x.op = 3 then none else tileRange x.dst) with
    | some (c, off) =>
      if 15 * j.img.w ≤ c.rx ∨ j.img.h ≤ c.ry ∨ !j.img.isMember c ∨ !inMem (rcKind c.rx) off x.tileBytes then 0x0404
      else 0
    | none => 0

/-- The pieces of a transfer: cut at every 1 KiB boundary of stack-local offset, for a COPY of both ends (R281). -/
def cutPieces : Nat → Nat → Nat → Nat → Bool → Bool → List DmaPiece
  | 0, _, _, _, _, _ => []
  | fuel + 1, src, dst, n, cutSrc, cutDst =>
    if n = 0 then []
    else
      let a := if cutSrc then 1024 - src % 1024 else n
      let b := if cutDst then 1024 - dst % 1024 else n
      let k := min n (min a b)
      { src := src, dst := dst, len := k, st := .todo } :: cutPieces fuel (src + k) (dst + k) (n - k) cutSrc cutDst

/-- The pieces of a descriptor: the source and destination of each are HBM addresses or tile offsets by op. A GATHER is
one piece. -/
def piecesOf (x : DDesc) : List DmaPiece :=
  let n := 16 * x.len
  let off := match tileRange x.dst with
    | some (_, o) => o
    | none => 0
  let fuel := n / 512 + 4
  if x.op = 0 then cutPieces fuel x.src off n true false
  else if x.op = 1 then cutPieces fuel off x.src n false true
  else if x.op = 2 then [{ src := x.src, dst := off, len := 0, st := .todo }]
  else cutPieces fuel x.src x.dst n true true

/-- Where a queue keeps the descriptor at a place of its ring: the ring follows the submission window (R278). -/
def DmaQ.entry (x : DmaQ) (i : Nat) : Nat := x.area + 32 + 32 * (i % 64)

def Tile.dmaq (t : Tile) (q : Nat) : Option DmaQ := t.dmaqs[q]?
def Tile.setDmaq (q : Nat) (x : DmaQ) (t : Tile) : Tile := { t with dmaqs := t.dmaqs.set q x }

/-- DMA_DESCRIPTOR_START: the next descriptor of a ring leaves it and is checked; at most 8 run on an engine, and none starts
once a pause has closed the gates (R281, R283, R314). The queue engine reads it from the SRAM of the Store tile, where a
double-bit error is that tile's fault (R270). -/
def execDmaDescriptorStart (t : Pos) (q : Nat) : State → Out_ :=
  liftAt (t.ok && decide (q < 4)) (fun d =>
    match d.jobAt t, (d.tile t).dmaq q with
    | some j, some x =>
      (match x.ring.find? (fun e => !e.started) with
      | none => d
      | some e =>
        if !j.running || j.phase == .pauseQuiesce || decide (8 ≤ (d.brim.runs.filter (fun r => r.1 == x.engine)).length) then d
        else match (d.tile t).load (x.entry e.pos) 32 with
          | none => faultTile t 0x0401 0 {} d
          | some (bs, u) =>
            let ws := wordsLe bs
            let who := (j.posOf d.map e.src).getD t
            let c := descCode j who (ddesc ws)
            let r : DmaRun := { stage := .pieces, id := d.brim.nextRun, j := j.slot, host := t, q := q, pos := e.pos
                                requester := who, words := ws, sbit := e.sbit, step := j.stepOf e.sbit
                                pieces := if c = 0 then piecesOf (ddesc ws) else [], code := c, units := 0, blocks := 0 }
            let ring := modifyFirst (fun y => !y.started) (fun y => { y with started := true }) x.ring
            let d := d.setTile t (u.setDmaq q { x with ring := ring })
            { d with brim := { d.brim with runs := d.brim.runs ++ [(x.engine, r)], nextRun := d.brim.nextRun + 1 } })
    | _, _ => d)

/-! ## GATHER (R144, R145, R284) -/

/-- A gathered window: the entries region, the kept blocks and their scales, blocks kept, whether one was beyond cap. -/
structure Gathered where
  entries : Mem
  blocks : List (List Byte)
  scales : List (List Byte)
  beyond : Bool
  stop : Bool
  deriving DecidableEq, Repr

/-- One entry of the index array taken into a gathered window. -/
def gatherStep (x : DDesc) (line kb : Nat) (block scale : List Byte) (g : Gathered) : Gathered :=
  if g.stop then g
  else if x.len + x.nlines ≤ line then { g with stop := true }
  else if line < x.len ∨ kb < x.kb0 ∨ x.kb0 + x.nkb ≤ kb then g
  else
    let i := g.blocks.length
    if x.cap ≤ i then { g with beyond := true }
    else
      let k := kb - x.kb0
      let e := ((line - x.len) * cdiv x.nkb 16 + k / 16) * 48
      let present := g.entries.readLe e 2
      let present := if bit present (k % 16) then present else present + 2 ^ (k % 16)
      { g with entries := (g.entries.writeLe e 2 present).writeLe (e + 16 + 2 * (k % 16)) 2 i
               blocks := g.blocks ++ [block], scales := g.scales ++ [scale] }

/-- How much of an index array a GATHER reads, and which of its blocks are kept below the capacity (R145, R284). -/
def gatherPlan (d : Dev) (x : DDesc) (index nblk : Nat) : Nat × List Nat :=
  let r := (List.range nblk).foldl (fun (s : Nat × List Nat × Bool) i =>
    if s.2.2 then s
    else
      let e := d.brim.hbmRead (x.src + index + 8 * i) 8
      let line := fieldLe e 0 4
      let kb := fieldLe e 4 2
      if x.len + x.nlines ≤ line then (s.1 + 1, s.2.1, true)
      else if x.len ≤ line ∧ x.kb0 ≤ kb ∧ kb < x.kb0 + x.nkb ∧ s.2.1.length < x.cap then (s.1 + 1, s.2.1 ++ [i], false)
      else (s.1 + 1, s.2.1, false)) (0, [], false)
  (r.1, r.2.1)

/-- A gathered window read from a record in HBM. -/
def gather (d : Dev) (x : DDesc) (fmt sc nblk index data scale : Nat) : Gathered :=
  let bs := 256 * fmtSize fmt
  (List.range nblk).foldl (fun g i =>
    let e := d.brim.hbmRead (x.src + index + 8 * i) 8
    gatherStep x (fieldLe e 0 4) (fieldLe e 4 2) (d.brim.hbmRead (x.src + data + bs * i) bs)
      (if sc = 1 then d.brim.hbmRead (x.src + scale + 16 * i) 16 else []) g)
    { entries := [], blocks := [], scales := [], beyond := false, stop := false }

/-- The writes of a gathered window at its tile: header, entries, value blocks, scales (R284). -/
def gatherWrites (x : DDesc) (off bs sc : Nat) (g : Gathered) : List (Nat × List Byte) :=
  let v := off + 16 + 48 * gatherEntries x
  [(off, padTo 16 (le 2 g.blocks.length)), (off + 16, g.entries.readN 0 (48 * gatherEntries x)), (v, g.blocks.flatten)]
    ++ (if sc = 1 then [(v + x.cap * bs, g.scales.flatten)] else [])

/-- A piece of a run ends with a code, or without one. -/
def endPiece (id k c : Nat) (d : Dev) : Dev :=
  d.onRun id (fun r => (if c = 0 then r else r.fail c).setPiece k .ended)

/-- The GATHER piece. A record whose sc is neither 0b00 nor 0b01 is read as one without scales, and blocks of FP32 or INT32 are 256
elements of four bytes (R144 gives neither; DESIGN CHOICE, log 179). -/
def gatherPiece (eng : Nat) (j : Job) (r : DmaRun) (x : DDesc) (k : Nat) (q : Pos) (off : Nat) (d : Dev) : Dev :=
  let h := d.brim.hbmRead x.src 64
  let fmt := bits (fieldLe h 0 1) 0 4
  let sc := fieldLe h 1 1
  let nblk := fieldLe h 12 4
  let bs := 256 * fmtSize fmt
  let (m, kept) := gatherPlan d x (fieldLe h 16 8) nblk
  let ranges := [(x.src, 64), (x.src + fieldLe h 16 8, 8 * m)] ++ kept.flatMap (fun i =>
    (x.src + fieldLe h 24 8 + bs * i, bs) :: (if sc = 1 then [(x.src + fieldLe h 32 8 + 16 * i, 16)] else []))
  if (ranges.any (fun y => meetsHeld d j y.1 y.2)) then d
  else if poisonedIn d x.src 64 then endPiece r.id k 0x0402 d
  else if 6 < fmt then endPiece r.id k 0x0407 d
  else if ranges.any (fun y => !hbmRangeOk y.1 y.2) then endPiece r.id k 0x0406 d
  else if ranges.any (fun y => poisonedIn d y.1 y.2) then endPiece r.id k 0x0402 d
  else
    let g := gather d x fmt sc nblk (fieldLe h 16 8) (fieldLe h 24 8) (fieldLe h 32 8)
    let ws := gatherWrites x off bs sc g
    let n := (ws.map (fun y => cdiv (y.2.length / 16) 16)).sum
    if ws.any (fun y => !y.2.isEmpty && !inMem q.kind y.1 y.2.length) then endPiece r.id k 0x0404 d
    else if !(d.port eng).room n then d
    else
      let d := d.onRun r.id (fun r =>
        ({ (if g.beyond then r.fail 0x0408 else r) with blocks := g.blocks.length }).setPiece k .moving)
      d.each ws (fun (a, bs) d => sendPuts j r eng k q a 2 0 bs d)

/-! ## Pieces -/

/-- The tile end of a run. -/
def runTile (d : Dev) (j : Job) (r : DmaRun) : Option Pos :=
  match tileRange (ddesc r.words).dst with
  | some (c, _) => j.posOf d.map c
  | none => none

/-- The port tile that serves an HBM address (R273). -/
def portOf (a : Nat) : Nat := match hbmKey a with
  | some k => servingPort k
  | none => 0

/-- A piece that has not begun: HBM is read, with the line code's report on one of its lines, and data is sent; the
data of a WRITE is asked for; a COPY sends its data to the destination's port tile (R276, R281, R285). -/
def beginPiece (eng : Nat) (j : Job) (r : DmaRun) (k : Nat) (p : DmaPiece) (line : Nat) (e : Ecc) (d : Dev) : Dev :=
  let x := ddesc r.words
  let read := fun (d : Dev) => match (linesOf p.src (if x.op = 2 then 64 else p.len))[line]? with
    | some l => lineReport l e d
    | none => d
  match x.op with
  | 0 =>
    (match runTile d j r with
    | none => endPiece r.id k 0x0404 d
    | some q =>
      if meetsHeld d j p.src p.len || !(d.port (portOf p.src)).room (cdiv (p.len / 16) 16) then d
      else
        let d := read d
        if poisonedIn d p.src p.len then endPiece r.id k 0x0402 d
        else sendPuts j r (portOf p.src) k q p.dst 0 p.src (d.brim.hbmRead p.src p.len)
          (d.onRun r.id (DmaRun.setPiece k .moving)))
  | 1 =>
    (match runTile d j r with
    | none => endPiece r.id k 0x0404 d
    | some q =>
      let pid := portOf p.dst
      if !bufferRoom d pid p.len || !(d.port pid).room (cdiv (p.len / 16) 16) then d
      else (d.onRun r.id (DmaRun.setPiece k .moving)).each (chunks (p.len / 16) 16) (fun (o, n) d =>
        portLaunch pid r.id k (runOut (runPacket d j r pid .getReq q (p.src + 16 * o) 0 false n []) 1
          (p.dst + 16 * o) n) d))
  | 2 =>
    (match runTile d j r with
    | none => endPiece r.id k 0x0404 d
    | some q => gatherPiece eng j r x k q p.dst (read d))
  | _ =>
    let pid := portOf p.src
    let dst := portOf p.dst
    if meetsHeld d j p.src p.len || !bufferRoom d dst p.len || !(d.port pid).room (cdiv (p.len / 16) 16) then d
    else
      let d := read d
      if poisonedIn d p.src p.len then endPiece r.id k 0x0402 d
      else (d.onRun r.id (DmaRun.setPiece k .moving)).each (chunks (p.len / 16) 16) (fun (o, n) d =>
        portLaunch pid r.id k (copyOut j r pid dst (p.src + 16 * o) (d.brim.hbmRead (p.src + 16 * o) (16 * n))) d)

/-- No packet of a piece awaits an answer. -/
def pieceQuiet (d : Dev) (id k : Nat) : Bool := !d.brim.ports.any (fun x => x.2.outs.any (fun o => o.2.1 == id && o.2.2 == k))

/-- DMA_PIECE_DONE: the serving port tile works off a piece, and once its packets are answered the piece has ended
(R281, R282). -/
def execDmaPieceDone (engine id piece line : Nat) (ecc : Ecc) : State → Out_ :=
  liftAt (decide (engine < 96)) (fun d =>
    match d.run? engine id with
    | none => d
    | some r =>
      match r.pieces[piece]?, d.job? r.j with
      | some p, some j =>
        if !j.running then d
        else (match p.st with
          | .todo => beginPiece engine j r piece p line ecc d
          | .moving => if pieceQuiet d id piece then endPiece id piece 0 d else d
          | .ended => d)
      | _, _ => d)

/-! ## Completion (R282, R283) -/

/-- The descriptor leaves engine and ring; its requester may arrive again (R332), and takes the code as a fault, or as
an event for 0x0408 (R284). -/
def finishRun (r : DmaRun) (code : Nat) (d : Dev) : Dev :=
  let d := { d with brim := { d.brim with runs := d.brim.runs.filter (fun x => x.2.id != r.id) } }
  let d := d.onTile r.host (fun t => match t.dmaq r.q with
    | some x => t.setDmaq r.q { x with ring := removeFirst (fun e => e.started && e.pos == r.pos) x.ring }
    | none => t)
  let d := d.onTile r.requester (fun t => wakeCause 7 { t with dmaOut := t.dmaOut - 1 })
  if code = 0 then d
  else if code = 0x0408 then eventOnce r.requester 0x0408 0 d
  else faultTile r.requester code 0 {} d

/-- The completion record as bytes (R282). -/
def DmaRun.record (r : DmaRun) : List Byte := padTo 16 (le 2 r.code ++ le 2 0 ++ le 4 r.units ++ le 4 r.blocks)

/-- The record PUT or the counter PUT of a run; the latter writes the record again and raises ccc by 1 (R282). -/
def sendRecord (eng : Nat) (j : Job) (r : DmaRun) (counter : Bool) (d : Dev) : Dev :=
  let x := ddesc r.words
  portLaunch eng r.id (r.pieces.length + (if counter then 1 else 0))
    (runOut (runPacket d j r eng .put r.requester x.statusOff x.ccc counter 1 r.record) 2 0 0) d

/-- DMA_COMPLETE: when every piece has ended the record goes to the requester; with a record range beyond its memory
there is none, the counter gains 1 and 0x0404 is raised (R282, R283). -/
def execDmaComplete (engine id : Nat) : State → Out_ :=
  liftAt (decide (engine < 96)) (fun d =>
    match d.run? engine id with
    | none => d
    | some r =>
      match d.job? r.j with
      | none => d
      | some j =>
        let x := ddesc r.words
        if !j.running || r.stage != .pieces || !r.pieces.all (fun p => p.st == .ended) then d
        else if !inMem r.requester.kind x.statusOff 16 then finishRun r 0x0404 (addCc r.requester x.ccc 1 d)
        else if !(d.port engine).room 1 then d
        else sendRecord engine j r false (d.onRun id (fun r => { r with stage := .record })))

/-- A port tile's packet is answered: data of a READ or GATHER is counted; the record is followed by the counter PUT,
and that by the end of the descriptor. -/
def portAcked (x : Out × Nat × Nat) (d : Dev) : Dev :=
  match d.engineOf x.2.1 with
  | none => d
  | some (eng, r) =>
    if x.2.2 < r.pieces.length then d.onRun r.id (fun r => { r with units := r.units + x.1.units })
    else if r.stage = .record then
      (match d.job? r.j with
      | some j => sendRecord eng j r true (d.onRun r.id (fun r => { r with stage := .counter }))
      | none => d)
    else finishRun r r.code d

/-- A port tile's packet meets a NACK or is abandoned: its piece ends with the code; for the record and the counter
the code is the requester's fault (R283). -/
def portFailed (pid : Nat) (x : Out × Nat × Nat) (code : Nat) (d : Dev) : Dev :=
  match d.engineOf x.2.1 with
  | none => d
  | some (_, r) =>
    if x.2.2 < r.pieces.length then
      endPiece r.id x.2.2 code (d.onPort pid (fun y => { y with
        outs := y.outs.filter (fun o => !(o.2.1 == r.id && o.2.2 == x.2.2)) }))
    else finishRun r code d

/-- The packet of a port tile that an answer matches. -/
def portMatching (x : PortTile) (k : Packet) : Option (Out × Nat × Nat) :=
  x.outs.find? (fun o => o.1.pkt.seq == k.seq && o.1.pkt.attempt == k.attempt)

/-- A packet of a port tile no longer awaits an answer: its number is free, or quarantined when it was ever reissued (R257,
R281). -/
def portForget (pid : Nat) (x : Out × Nat × Nat) (d : Dev) : Dev :=
  d.onPort pid (fun y => { y with
    outs := removeFirst (fun o => o == x) y.outs
    quarantine := if x.1.reissued then y.quarantine ++ [x.1.pkt.seq] else y.quarantine })

/-- The unconfirmed step of a job that a packet's slot and step bit name, with the job's id, as a port tile logs by step. -/
def portStep (d : Dev) (k : Packet) : Nat × Nat := match d.job? k.jslot with
  | some j => (j.id, j.stepOf k.sbit)
  | none => (0, 0)

/-- An answer at a port tile that matches no packet of its own: discarded, its event logged for the first of a step (R257,
R281). -/
def portLate (pid : Nat) (k : Packet) (d : Dev) : Dev :=
  let at_ := portStep d k
  if (d.port pid).lateIn.contains at_ then d
  else appendLog 0x0302 3 false at_.1 pid 0 1 (d.onPort pid (fun y => { y with
    lateIn := y.lateIn.filter (fun z => z.1 != at_.1) ++ [at_] }))

/-- A packet of a port tile sent again, HBM read afresh, or abandoned after attempt 3; the event is logged for the first of a
step of the job (R256, R281). Data whose line has become poisoned is not to be had again: the piece fails (R276). -/
def portReissue (pid : Nat) (x : Out × Nat × Nat) (d : Dev) : Dev :=
  let o := x.1
  let at_ := portStep d o.pkt
  let d := if (d.port pid).timedOut.contains at_ then d
    else appendLog 0x0301 3 false at_.1 pid 0 1 (d.onPort pid (fun y => { y with
      timedOut := y.timedOut.filter (fun z => z.1 != at_.1) ++ [at_] }))
  let fromHbm := o.op = 0 ∨ o.op = 3
  if 3 ≤ o.pkt.attempt then portFailed pid x 0x0307 (portForget pid x d)
  else if fromHbm ∧ poisonedIn d o.local_ o.pkt.data.length then portFailed pid x 0x0402 (portForget pid x d)
  else
    let bs := if fromHbm then d.brim.hbmRead o.local_ o.pkt.data.length else o.pkt.data
    let e := match d.job? o.pkt.jslot with
      | some j => j.epoch
      | none => o.pkt.epoch
    let k := { o.pkt with attempt := o.pkt.attempt + 1, data := bs, epoch := e }
    let again : Out × Nat × Nat → Out × Nat × Nat := fun z => ({ z.1 with pkt := k, reissued := true }, z.2)
    (d.onPort pid (fun y => { y with outs := modifyFirst (fun z => z == x) again y.outs })).portSend pid k

/-! ## Commits (R286) -/

/-- Held writes of a job's confirmed steps, in acceptance order. -/
def ripe (j : Job) (h : HeldWrite) : Bool := h.j == j.slot && decide (h.step < j.conf)

/-- Confirmed packets leave a fabric or tether port as its link allows; the first that cannot holds the later ones. -/
def commitPackets (n fjob : Nat) (j : Job) : List HeldWrite → Bool → Dev → List HeldWrite × Dev
  | [], _, d => ([], d)
  | h :: r, stuck, d =>
    match h.kind with
    | .packet k =>
      if ripe j h && !stuck && (d.link n).canSend k then commitPackets n fjob j r stuck (sendFrame n fjob 1 k d)
      else
        let (l, d) := commitPackets n fjob j r (stuck || ripe j h) d
        (h :: l, d)
    | _ =>
      let (l, d) := commitPackets n fjob j r stuck d
      (h :: l, d)

/-- Confirmed writes go to HBM. -/
def commitHbm (pid : Nat) (j : Job) (d : Dev) : Dev :=
  let go := (d.port pid).held.filter (ripe j)
  (d.onPort pid (fun x => { x with held := x.held.filter (fun h => !ripe j h) })).each go (fun h d =>
    match h.kind with
    | .hbm a bs => { d with brim := d.brim.hbmWrite a bs }
    | _ => d)

/-- PORT_COMMIT (R286, R445). -/
def execPortCommit (port j : Nat) : State → Out_ :=
  liftAt (decide (port < 146) && decide (j < 32)) (fun d =>
    match d.job? j with
    | none => d
    | some x =>
      match portNum port with
      | none => commitHbm port x d
      | some n =>
        let fjob := match x.ranks with
          | some t => t.fjob
          | none => 0
        let (l, d) := commitPackets n fjob x (d.port port).held false d
        d.onPort port (fun y => { y with held := l }))

/-- HBM_SCRUB_READ: a corrected line is counted and written back, an uncorrectable one poisoned and logged (R277). -/
def execHbmScrubRead (stack line : Nat) (ecc : Ecc) : State → Out_ :=
  liftAt (decide (stack < 24) && decide (line < 1500000000)) (fun d =>
    if d.mod.st = .idle ∨ d.mod.st = .active then
      (let l := stack * 2 ^ 31 + line
       let d := lineReport l ecc d
       if ecc = .uncorrectable then appendLog 0x0402 3 false 0 (servingPort (64 * l)) 0 1 d else d)
    else d)

/-! ## Deep channels (R289) -/

/-- Where a FIFO keeps a token: 80 bytes each (R169), in turn from its lowest address (log 173). -/
def Deep.entry (q : Deep) (i : Nat) : Nat := q.base + 80 * ((q.head + i) % max 1 q.cap)

/-- A token enters a FIFO: its bytes are in the Store tile's SRAM (R289). -/
def Tile.fifoIn (f : Nat) (q : Deep) (k : Token) (t : Tile) : Tile :=
  { t.overwrite (q.entry q.toks.length) (padTo 80 (tokenBytes k 0)) with deeps := t.deeps.set f { q with toks := q.toks ++ [k] } }

/-- DEEP_CHANNEL_FORWARD: the oldest token of a FIFO goes to the consumer, on one credit, and stays in the send buffer
until it is acknowledged. A double-bit error in it is a fault of the Store tile (R270, R289). -/
def execDeepChannelForward (t : Pos) (f : Nat) : State → Out_ :=
  liftAt (t.ok && decide (f < 8)) (fun d =>
    let x := d.tile t
    match d.jobAt t, x.deeps[f]? with
    | some j, some q =>
      (match q.toks, (j.chan q.ci).bind (fun r => (j.posOf d.map r.cons).map (fun p => (p, r.ch))) with
      | k :: r, some (p, ch) =>
        if !d.live t || q.credit = 0 || decide (256 ≤ (x.net.outs.filter (fun o => o.pkt.ty == .token)).length)
            || !x.tokenFree (8 + f) q.num then d
        else match x.load (q.entry 0) 80 with
          | none => faultTile t 0x0401 0 {} d
          | some (_, x) =>
            let pk := { x.packet t .token (d.addrOf p) (tokenBytes k ch) with seq := q.num, tag := 8 + f }
            let o : Out := { pkt := pk, timer := true, reissued := false, lcc := none, units := 0, local_ := 0, target := 0, op := 0 }
            let q := { q with toks := r, head := (q.head + 1) % max 1 q.cap, num := (q.num + 1) % 4096, credit := q.credit - 1 }
            (d.setTile t { x with deeps := x.deeps.set f q, net := { x.net with outs := x.net.outs ++ [o] } }).send t pk
      | _, _ => d)
    | _, _ => d)

end Sys2Proof.Machine
end

