-- ==== Sys2Proof/Machine/Plan.lean ====
section
/-! DEFINITION. HBM plans (R303, R310), placement on the wafer (R306-R308), the
checks of stage START (R310). -/

namespace Sys2Proof.Machine

/-- The areas and ranges of an image's HBM plan (R303). -/
def Image.plan (i : Image) : List (Nat × Nat) := [i.home, i.pause, i.dryd] ++ i.ranges

/-- A range meets a plan. -/
def meetsPlan (a n : Nat) (i : Image) : Bool := i.plan.any (fun x => hbmMeet a n x.1 x.2)

/-! ## Placement (R306-R308) -/

/-- Hole groups as placement takes them: those of the map, and groups in a field that stays isolated (R373). -/
def Dev.holeFor (d : Dev) (g py : Nat) : Bool :=
  d.map.isHole (grp g py) || d.map.isolated.contains (Pos.field ⟨16 * g, py⟩)

/-- The hole groups of a footprint. -/
def Dev.holesIn (d : Dev) (i : Image) (o : Nat × Nat) : List Nat :=
  (List.range i.h).flatMap (fun ry => (List.range (i.w + i.skip)).filterMap (fun k =>
    if d.holeFor (o.1 + k) (o.2 + ry) then some (grp (o.1 + k) (o.2 + ry)) else none))

/-- The job as it would lie at an origin. -/
def Job.placedAt (d : Dev) (o : Nat × Nat) (j : Job) : Job := { j with origin := some o, holes := d.holesIn j.img o }

/-- A job that holds a footprint. -/
def Job.onWafer (j : Job) : Bool := j.st == .running || j.st == .halted

/-- An origin passes (R308); both ends of every channel are tiles of the job there (R168). -/
def originOk (d : Dev) (j : Job) (o : Nat × Nat) : Bool :=
  let i := j.img
  decide (o.1 + i.w + i.skip ≤ 32 ∧ o.2 + i.h ≤ 480)
    && d.jobs.all (fun x => x.slot == j.slot || !x.onWafer || (match x.origin with
      | some q => !footprintsMeet i o x.img q
      | none => true))
    && (List.range i.h).all (fun ry =>
      decide (((List.range (i.w + i.skip)).filter (fun k => d.holeFor (o.1 + k) (o.2 + ry))).length ≤ i.skip))
    && i.members.all (fun c => match (j.placedAt d o).posOf d.map c with
      | some p => p.kind == 0 || !d.map.isDead p
      | none => false)
    && (i.chans.map (·.prod) ++ i.chans.map (·.cons)).all i.isMember

/-- The candidate origins in the order of R308. -/
def originList : List (Nat × Nat) := (List.range 480).flatMap (fun py => (List.range 32).map (fun g => (g, py)))

/-- The origin that a placement takes: the one named, or the first that passes. -/
def pickOrigin (d : Dev) (j : Job) : Option (Nat × Nat) → Option (Nat × Nat)
  | some o => if originOk d j o then some o else none
  | none => originList.find? (originOk d j)

/-! ## Stage START -/

/-- Hatband lines no job holds (R225, R312). -/
def Dev.freeLines (d : Dev) : List Nat :=
  (List.range 32).filter (fun l => !d.jobs.any (fun j => j.onWafer && j.lines.contains l))

/-- The energy allowance of one ledger window in force (R310, R354). -/
def Dev.allowance (d : Dev) : Nat := d.energy.allow

/-- Engines that would serve more than 8 queues (R278). -/
def engineCrowded (d : Dev) (j : Job) : Bool :=
  let others : List Nat := (d.jobs.filter (fun x => x.slot != j.slot && x.onWafer)).flatMap (fun x => x.img.dmaqs.map (·.engine))
  let mine : List Nat := j.img.dmaqs.map (·.engine)
  mine.any (fun e => decide (8 < ((others ++ mine).filter (· == e)).length))

/-- The checks of stage START: a refusal, or the lines and the origin (R310). -/
def startChecks (d : Dev) (j : Job) (want : Option (Nat × Nat)) : Except Nat (List Nat × (Nat × Nat)) :=
  let ls := d.freeLines.take j.img.nLines
  if ls.length < j.img.nLines then .error 0x100A
  else if j.img.energyStep = 0 ∨ d.allowance < j.img.energyStep then .error 0x100B
  else if engineCrowded d j then .error 0x1010
  else match pickOrigin d j want with
    | none => .error 0x1001
    | some o => .ok (ls, o)

/-- Lines and origin taken: the job holds its footprint from now on (R293, R309). -/
def takePlace (d : Dev) (ls : List Nat) (o : Nat × Nat) (j : Job) : Job := { j.placedAt d o with lines := ls }

/-- Physical lines as a mask. -/
def lineMask (ls : List Nat) : Nat := ls.foldl (fun m l => m + 2 ^ l) 0

/-- The placement fields of a response (R418). -/
def placePayload (j : Job) : List Byte :=
  match j.origin with
  | some (g, y) => le 2 g ++ le 2 y ++ le 4 (lineMask j.lines)
  | none => le 2 0xFFFF ++ le 2 0xFFFF ++ le 4 0

end Sys2Proof.Machine
end

