-- ==== Sys2Proof/Machine/Loader.lean ====
section
/-! DEFINITION. Job images of format 2.x: their bytes (R295-R304, R333), the checks of stage LOAD in table order (R310),
the channel graph (R180, R181), the home area (R290). -/

namespace Sys2Proof.Machine

/-! ## Bytes of an image -/

/-- What a section directory entry says (R296). -/
structure Sect where
  ty : Nat
  required : Bool
  len : Nat
  off : Nat
  deriving DecidableEq, Repr

/-- An image as read, with the fields that only the checks need. -/
structure Parsed where
  img : Image
  regime : Nat
  requires : List (Nat × Nat × Nat)
  units : List (Nat × List Nat)
  unknownRequired : Bool
  deriving DecidableEq, Repr

/-- A region coordinate in a 4-byte field. -/
def rcField (v : Nat) : RC := ⟨bits v 0 9, bits v 9 9⟩

/-- A channel or port number; 0xFF names none (log 40). -/
def numField (v : Nat) : Option Nat := if v = 0xFF then none else some v

/-- Records of `n` bytes cut from a section. -/
def records (n : Nat) (bs : List Byte) : List (List Byte) :=
  (List.range (bs.length / n)).map (fun i => slice bs (n * i) n)

/-- A task-table entry (R300). -/
def taskDeclOf (bs : List Byte) : TaskDecl :=
  { id := fieldLe bs 0 1, nOps := fieldLe bs 1 1, window := fieldLe bs 2 1, slots := fieldLe bs 3 1
    entry := fieldLe bs 4 2, lag := fieldLe bs 6 2, ops := (List.range 4).map (fun i => fieldLe bs (8 + i) 1)
    outMask := fieldLe bs 12 4 }

/-- A steering unit (R170, R300): op, in0, in1, ctl_in, out0, out1, predict, a byte each (log 40). -/
def steerOf (bs : List Byte) : SteerDecl :=
  { merge := fieldLe bs 0 1 == 1, in0 := numField (fieldLe bs 1 1), in1 := numField (fieldLe bs 2 1)
    ctl := numField (fieldLe bs 3 1), out0 := numField (fieldLe bs 4 1), out1 := numField (fieldLe bs 5 1)
    predict := fieldLe bs 6 1 }

/-- Sync-queue declarations: 8 bytes and the initial values padded to 16 (R222, R300); with the bytes they take. -/
def sqsOf : Nat → List Byte → Option (List SqDecl × Nat)
  | 0, _ => some ([], 0)
  | n + 1, bs =>
    let k := fieldLe bs 1 1
    let size := 8 + roundUp (4 * k) 16
    if bs.length < size then none
    else
      let s : SqDecl := { q := fieldLe bs 0 1, init := (List.range k).map (fun i => BitVec.ofNat 32 (fieldLe bs (8 + 4 * i) 4))
                          nPut := fieldLe bs 2 2, nGet := fieldLe bs 4 2 }
      (sqsOf n (bs.drop size)).map (fun (l, m) => (s :: l, size + m))

/-- Constant segments: offset, length, bytes (R290, R300); with the bytes they take. -/
def segsOf : Nat → List Byte → Option (List Seg × Nat)
  | 0, _ => some ([], 0)
  | n + 1, bs =>
    let k := fieldLe bs 4 4
    if bs.length < 8 + k then none
    else (segsOf n (bs.drop (8 + k))).map (fun (l, m) => ({ off := fieldLe bs 0 4, bytes := slice bs 8 k } :: l, 8 + k + m))

/-- One TILES record, its steering bytes, and its length (R300). -/
def tileOf (bs : List Byte) : Option (TileRec × List (Nat × List Nat) × Nat) :=
  let f := fieldLe bs
  let nTasks := f 6 2
  let nSteer := f 8 2
  let prog := f 24 4
  let t0 := 64 + prog
  let s0 := t0 + 16 * nTasks
  let q0 := s0 + 8 * nSteer
  if bs.length < q0 then none
  else match sqsOf (f 10 2) (bs.drop q0) with
    | none => none
    | some (sqs, n) =>
      match segsOf (f 32 4) (bs.drop (q0 + n)) with
      | none => none
      | some (segs, m) =>
        let kind := bits (f 0 4) 18 2
        let raw := records 8 (slice bs s0 (8 * nSteer))
        some ({ rc := rcField (f 0 4), kind := kind, accords := f 4 1, sqExp := f 5 1, enrol := f 12 4
                maxInflight := f 16 4, blocked := bit (f 20 4) 0, spec := bit (f 20 4) 1, prog := slice bs 64 prog
                memUsed := f 28 4, tasks := (records 16 (slice bs t0 (16 * nTasks))).map taskDeclOf, steers := raw.map steerOf
                sqs := sqs, segs := segs, tables := slice bs t0 (q0 + n - t0) },
              raw.map (fun u => (kind, (List.range 7).map (fun i => fieldLe u i 1))), q0 + n + m)

/-- The TILES section: 16-aligned records to its end. -/
def tilesOf : Nat → List Byte → Option (List TileRec × List (Nat × List Nat))
  | 0, _ => some ([], [])
  | fuel + 1, bs =>
    if bs.isEmpty then some ([], [])
    else if bs.length < 64 then none
    else match tileOf bs with
      | none => none
      | some (t, us, n) => (tilesOf fuel (bs.drop (roundUp n 16))).map (fun (l, vs) => (t :: l, us ++ vs))

/-- A channel entry with its payload range (R301). -/
def chanOf (sect bs : List Byte) : ChanRec × Nat × Nat :=
  let f := fieldLe bs
  let n := f 14 2
  let o := f 24 4
  ({ prod := rcField (f 0 4), port := f 4 1, ch := f 5 1, kind := f 6 1, stallExp := f 7 1, cons := rcField (f 8 4)
     depth := f 12 2, initial := n, maxInflight := f 16 2, host := rcField (f 20 4)
     init := (List.range n).map (fun i => slice sect (o + 64 * i) (f 18 1)) }, o, f 18 1)

/-- Whether payload ranges of one list keep apart. -/
def apart : List (Nat × Nat) → Bool
  | [] => true
  | (a, n) :: r => r.all (fun x => n == 0 || x.2 == 0 || !decide (a < x.1 + x.2 ∧ x.1 < a + n)) && apart r

/-- The CHANNELS section; none when it is malformed (R301). -/
def chansOf (bs : List Byte) : Option (List ChanRec) :=
  let n := fieldLe bs 0 4
  let stop := 16 + 32 * n
  if bs.length < 16 ∨ bs.length < stop then none
  else
    let cs := (records 32 (slice bs 16 (32 * n))).map (chanOf bs)
    let spans := cs.map (fun (c, o, _) => (o, 64 * c.initial))
    if bs.length ≠ stop + (spans.map (·.2)).sum ∨ cs.any (fun c => decide (64 < c.2.2))
        ∨ spans.any (fun x => x.2 != 0 && decide (x.1 < stop ∨ bs.length < x.1 + x.2)) ∨ !apart spans then none
    else some (cs.map (·.1))

/-- A reduction-table entry (R262). -/
def redOf (bs : List Byte) : RedEntry :=
  let f := fieldLe bs
  let c := f 0 1
  { op := bits c 0 2, long := bit c 2, all := bit c 3, fmt := bits c 4 4, rx0 := bits (f 4 4) 0 9, ry0 := bits (f 4 4) 9 9
    w := bits (f 8 4) 0 9 + 1, h := bits (f 8 4) 9 9 + 1, rank0 := bits (f 12 4) 0 17, ndev := bits (f 16 4) 0 17 + 1
    endpoint := f 20 4, drank := bits (f 24 4) 0 17, off := bits (f 28 4) 0 21, dcc := bits (f 28 4) 21 4
    dce := bit (f 28 4) 25 }

/-- A DMA queue entry: host 4 bytes, area 3, engine 1 (R278, log 40). -/
def dmaRecOf (bs : List Byte) : DmaRec :=
  { host := rcField (fieldLe bs 0 4), area := fieldLe bs 4 3, engine := fieldLe bs 7 1 }

/-- A RETENTION entry (R333). -/
def retOf (bs : List Byte) : RetRec :=
  let f := fieldLe bs
  { rc := rcField (f 0 4), kind := bits (f 0 4) 18 2, off := f 4 4, len := f 8 4, host := rcField (f 12 4)
    hostOff := f 16 4, bndLen := f 20 4 }

/-- The section directory (R296). -/
def sectOf (bs : List Byte) : Sect :=
  { ty := fieldLe bs 0 2, required := bit (fieldLe bs 2 2) 0, len := fieldLe bs 4 4, off := fieldLe bs 8 8 }

/-- The bytes of the first section of a type; nothing where there is none. -/
def sectBytes (bs : List Byte) (l : List Sect) (ty : Nat) : List Byte :=
  match l.find? (fun s => s.ty == ty) with
  | some s => slice bs s.off s.len
  | none => []

/-- How many sections of a type there are. -/
def sectCount (l : List Sect) (ty : Nat) : Nat := (l.filter (fun s => s.ty == ty)).length

/-- The form of the sections: within the image, aligned, apart, each required one once (R295, R296, R310). -/
def sectsOk (bs : List Byte) (minor dir n : Nat) (l : List Sect) : Bool :=
  decide (dir + 16 * n ≤ bs.length)
    && l.all (fun s => s.off % 16 == 0 && decide (s.off + s.len ≤ bs.length))
    && apart ([(0, 64), (dir, 16 * n)] ++ l.map (fun s => (s.off, s.len)))
    && [1, 2, 3, 4, 6, 7].all (fun ty => sectCount l ty == 1) && [5, 8].all (fun ty => decide (sectCount l ty ≤ 1))
    && (decide (minor < 4) || (decide (64 ≤ (sectBytes bs l 1).length) && decide (16 ≤ (sectBytes bs l 2).length)))
    && (sectBytes bs l 5).length % 32 == 0 && (sectBytes bs l 7).length % 24 == 0 && (sectBytes bs l 8).length % 8 == 0

/-- A section of a type the device does not know, marked required (R296, R297). -/
def unknownRequired (l : List Sect) : Bool :=
  l.any (fun s => s.required && decide (s.ty = 0 ∨ (9 ≤ s.ty ∧ s.ty < 0x8000)))

/-- The sections read into an image; none when their lengths and counts disagree (R298-R304). -/
def parseSections (bs : List Byte) (l : List Sect) : Option Parsed :=
  let sec := sectBytes bs l
  let p := fieldLe (sec 1)
  let g := fieldLe (sec 2)
  let h := sec 6
  let nr := fieldLe h 48 4
  let nq := fieldLe h 52 4
  if h.length ≠ 64 + 16 * nr + 8 * nq then none
  else match tilesOf ((sec 3).length / 64 + 1) (sec 3), chansOf (sec 4) with
    | some (ts, us), some cs =>
      if (ts.map (·.rc)).eraseDups.length ≠ ts.length then none
      else some {
        img := {
          narrow := p 0 1 == 1, nLines := p 1 1, hbExp := p 2 1, rtoExp := p 3 1, ndev := p 4 4, seed := p 8 8
          energyStep := p 16 8, stepRate := p 24 4, w := g 0 1, skip := g 1 1, h := g 2 2, tiles := ts, chans := cs
          reds := (records 32 (sec 5)).map redOf
          home := (fieldLe h 0 8, fieldLe h 8 8), pause := (fieldLe h 16 8, fieldLe h 24 8)
          dryd := (fieldLe h 32 8, fieldLe h 40 8)
          ranges := (records 16 (slice h 64 (16 * nr))).map (fun r => (fieldLe r 0 8, fieldLe r 8 8))
          dmaqs := (records 8 (slice h (64 + 16 * nr) (8 * nq))).map dmaRecOf
          rets := (records 24 (sec 7)).map retOf }
        regime := p 0 1
        requires := (records 8 (sec 8)).map (fun r => (fieldLe r 0 2, fieldLe r 2 1, fieldLe r 4 4))
        units := us
        unknownRequired := unknownRequired l }
    | _, _ => none

/-- An image read: magic, then major version, then the rest (R295, R297, R310). -/
def parseImage (bs : List Byte) : Except Nat Parsed :=
  if slice bs 0 4 ≠ [0x4C, 0x4E, 0x4A, 0x49] then .error 0x1012
  else if fieldLe bs 4 1 ≠ 2 then .error 0x100C
  else
    let total := fieldLe bs 8 8
    let dir := fieldLe bs 16 8
    let n := fieldLe bs 24 4
    if total < 64 ∨ bs.length < total then .error 0x1012
    else
      let bs := bs.take total
      let zero := slice bs 0 60 ++ [0, 0, 0, 0] ++ bs.drop 64
      let l := (records 16 (slice bs dir (16 * n))).map sectOf
      if crc32c zero ≠ fieldLe bs 60 4 ∨ !sectsOk bs (fieldLe bs 5 1) dir n l then .error 0x1012
      else match parseSections bs l with
        | none => .error 0x1012
        | some p => if p.unknownRequired then .error 0x100C else .ok p

/-! ## The channel graph (R180, R181) -/

/-- A node: a task or a steering unit of a tile, or the sink of a stream channel. -/
inductive Node where
  | task (c : RC) (id : Nat)
  | unit (c : RC) (u : Nat)
  | sink (ci : Nat)
  deriving DecidableEq, Repr

/-- An edge: from a node that may send on a channel's port to the node that takes its tokens. -/
structure Edge where
  src : Node
  dst : Node
  ci : Nat
  depth : Nat
  lag : Nat
  deriving DecidableEq, Repr

/-- The tiles' records by coordinate. -/
def Image.rec? (i : Image) (c : RC) : Option TileRec := i.tiles.find? (fun t => t.rc == c)

/-- The nodes that may send on a port (R181). -/
def sendersOn (t : TileRec) (port : Nat) : List Node :=
  (t.tasks.filter (fun k => k.outMask == 0 || bit k.outMask port)).map (fun k => Node.task t.rc k.id)
    ++ (t.steers.zipIdx.filter (fun x => x.1.out0 == some port || x.1.out1 == some port)).map (fun x => Node.unit t.rc x.2)

/-- The node that takes tokens from an input channel, with its lag (R181). -/
def takerOf (t : TileRec) (ch ci kind : Nat) : Node × Nat :=
  if kind = 2 then (.sink ci, 0)
  else match t.tasks.find? (fun k => (k.ops.take k.nOps).contains ch) with
    | some k => (.task t.rc k.id, k.lag)
    | none =>
      match t.steers.zipIdx.find? (fun x => x.1.in0 == some ch || x.1.in1 == some ch || x.1.ctl == some ch) with
      | some (_, u) => (.unit t.rc u, 0)
      | none => (.sink ci, 0)

/-- The channel graph of an image. -/
def Image.graph (i : Image) : List Edge :=
  i.chans.zipIdx.flatMap (fun (c, ci) =>
    let taker : Node × Nat := match i.rec? c.cons with
      | some t => takerOf t c.ch ci c.kind
      | none => (.sink ci, 0)
    (match i.rec? c.prod with
    | some t => sendersOn t c.port
    | none => []).map (fun s => { src := s, dst := taker.1, ci := ci, depth := c.depth, lag := taker.2 }))

/-- The elementary cycles that leave `start` and return to it through nodes of `allowed`, as lists of channels, newest
first; `most` bounds how many are listed. -/
def cyclesFrom (es : List Edge) (start : Node) (most : Nat) :
    Nat → Node → List Node → List Nat → List (List Nat) → List (List Nat)
  | 0, _, _, _, found => found
  | fuel + 1, v, allowed, path, found =>
    (es.filter (fun e => e.src == v)).foldl (fun found e =>
      if most < found.length then found
      else if e.dst == start then (e.ci :: path) :: found
      else if allowed.contains e.dst then
        cyclesFrom es start most fuel e.dst (allowed.filter (· != e.dst)) (e.ci :: path) found
      else found) found

/-- The nodes of the graph, each once. -/
def nodesOf (es : List Edge) : List Node := (es.map (·.src) ++ es.map (·.dst)).eraseDups

/-- Every elementary cycle, each from the first of its nodes in the list; one more than `most` at most. -/
def cyclesOf (es : List Edge) (most : Nat) : List Node → List (List Nat) → List (List Nat)
  | [], found => found
  | v :: r, found => cyclesOf es most r (cyclesFrom es v most (r.length + 1) v r [] found)

/-- A cycle passes: its depths hold F, and F its initial tokens (R180). -/
def cycleOk (i : Image) (cs : List Nat) : Bool :=
  let l : List ChanRec := cs.filterMap (fun ci => i.chans[ci]?)
  let f : Nat := (l.map (fun c => c.maxInflight)).foldl max 0
  decide (f ≤ (l.map (·.depth)).sum) && decide ((l.map (·.initial)).sum ≤ f)

/-- The check of R180. -/
def Image.cyclesOk (i : Image) : Bool :=
  let es := i.graph
  let cs := cyclesOf es 65536 (nodesOf es) []
  decide (cs.length ≤ 65536) && cs.all (cycleOk i)

/-- A branch from a fork: the join it reaches, the join's input channel, its lag, its depth (R181). -/
structure Branch where
  join : Node
  input : Nat
  lag : Nat
  depth : Nat
  deriving DecidableEq, Repr

/-- A join: a task or steering unit whose inputs come from two or more channels. -/
def isJoin (es : List Edge) (n : Node) : Bool :=
  (match n with
  | .sink _ => false
  | _ => true) && decide (2 ≤ ((es.filter (fun e => e.dst == n)).map (·.ci)).eraseDups.length)

/-- The branches that go on from a node, with the lag and depth so far. -/
def branchesFrom (es : List Edge) (most : Nat) : Nat → Node → List Node → Nat → Nat → List Branch → List Branch
  | 0, _, _, _, _, found => found
  | fuel + 1, v, seen, lag, depth, found =>
    (es.filter (fun e => e.src == v)).foldl (fun found e =>
      if most < found.length ∨ seen.contains e.dst then found
      else
        let d := depth + e.depth
        let found := if isJoin es e.dst then { join := e.dst, input := e.ci, lag := lag, depth := d } :: found else found
        branchesFrom es most fuel e.dst (e.dst :: seen) (lag + e.lag) d found) found

/-- A fork's branches pass: through every two inputs of a join, the shallow side holds the difference of lags. -/
def slackOk (bs : List Branch) : Bool :=
  bs.all (fun a => bs.all (fun b =>
    if a.join = b.join ∧ a.input ≠ b.input then
      let long := ((bs.filter (fun x => x.join == a.join && x.input == a.input)).map (·.lag)).foldl max 0
      let mine := bs.filter (fun x => x.join == b.join && x.input == b.input)
      let short := (mine.map (·.lag)).foldl max 0
      let room := (mine.map (·.depth)).foldl min b.depth
      decide (long - short ≤ room)
    else true))

/-- The check of R181. -/
def Image.slackOk (i : Image) : Bool :=
  let es := i.graph
  let ns := nodesOf es
  let forks := ns.filter (fun n => decide (2 ≤ ((es.filter (fun e => e.src == n)).map (·.ci)).eraseDups.length))
  let all := forks.foldl (fun (acc : List (List Branch) × Nat) n =>
    if 1048576 < acc.2 then acc
    else
      let b := branchesFrom es (1048576 - acc.2) (ns.length + 1) n [n] 0 0 []
      (b :: acc.1, acc.2 + b.length)) ([], 0)
  decide (all.2 ≤ 1048576) && all.1.all Machine.slackOk

/-! ## The checks of stage LOAD (R310) -/

/-- The values of the family parameter block (R10, R400). -/
def familyParams : List Nat := [8, 6, 64, 80, 16, 12, 8, 3, 32, 8, 256, 64, 64, 4096, 32, 24, 48, 131072]

/-- A REQUIRES entry holds (R302). -/
def requireOk (r : Nat × Nat × Nat) : Bool :=
  match familyParams[r.1]? with
  | none => false
  | some v => if r.2.1 = 0 then v == r.2.2 else if r.2.1 = 1 then decide (r.2.2 ≤ v) else r.2.1 == 2 && decide (v ≤ r.2.2)

/-- An exponent that is 0 or lies in a range. -/
def expOk (v lo hi : Nat) : Bool := v == 0 || decide (lo ≤ v ∧ v ≤ hi)

def distinct (l : List Nat) : Bool := l.eraseDups.length == l.length

/-- A coordinate in the region (R299, R305). -/
def Image.inside (i : Image) (c : RC) : Bool := decide (c.rx < 15 * i.w ∧ c.ry < i.h)

/-- The task tables of a tile (R155, R156). -/
def tasksOk (t : TileRec) : Bool :=
  decide (t.tasks.length ≤ kindTasks t.kind) && distinct (t.tasks.map (·.id))
    && distinct (t.tasks.flatMap (fun k => k.ops.take k.nOps))
    && t.tasks.all (fun k => decide (k.id < 64 ∧ k.nOps ≤ 4 ∧ 1 ≤ k.window ∧ k.window ≤ 64 ∧ 1 ≤ k.slots ∧ k.slots ≤ 32
      ∧ k.entry < kindProg t.kind) && (k.ops.take k.nOps).all (fun c => decide (c < 32)))
    && decide ((t.tasks.map (fun k => k.window * k.nOps)).sum ≤ kindMatch t.kind)

/-- A steering unit's fields (R170): channels below 32, ports of the kind. R170 gives no refusal for a STEER without data_in or
ctl_in, nor for a MERGE without out0: such a unit is accepted; the STEER forwards nothing, the
MERGE discards what it takes (DESIGN CHOICE, log 176). -/
def unitOk (u : Nat × List Nat) : Bool :=
  let v := fun i => u.2.getD i 0
  decide (v 0 ≤ 1) && decide (v 6 ≤ 3) && [1, 2, 3].all (fun i => v i == 0xFF || decide (v i < 32))
    && [4, 5].all (fun i => v i == 0xFF || decide (v i < kindPorts u.1))

/-- A channel's fields (R165, R169). -/
def chanOk (i : Image) (c : ChanRec) : Bool :=
  i.inside c.prod && i.inside c.cons && decide (c.port < kindPorts (rcKind c.prod.rx)) && decide (c.ch < 32)
    && decide (c.kind ≤ 2) && decide (1 ≤ c.depth) && decide (c.initial ≤ c.depth) && expOk c.stallExp 10 30
    && decide (1 ≤ c.maxInflight) && (decide (c.depth ≤ 64) || (i.inside c.host && rcKind c.host.rx == 2))

/-- A reduction-table entry: its fields, participants and P (R121, R262). -/
def redOk (i : Image) (r : RedEntry) : Bool :=
  r.op != 3 && [2, 3, 4, 6].contains r.fmt && decide (r.w * r.h * r.ndev ≤ 2 ^ 35)
    && (List.range r.h).all (fun y => (List.range r.w).all (fun x => i.isMember ⟨r.rx0 + x, r.ry0 + y⟩))

/-- How many elements of a list equal each of its elements, at most. -/
def atMost (n : Nat) (l : List Nat) : Bool := l.all (fun x => decide ((l.filter (· == x)).length ≤ n))

def rcNum (c : RC) : Nat := rcWord c

/-- The checks of 0x1010. -/
def tablesOk (p : Parsed) : Bool :=
  let i := p.img
  decide (p.regime ≤ 1) && decide (1 ≤ i.nLines ∧ i.nLines ≤ 32) && expOk i.hbExp 16 40 && expOk i.rtoExp 12 30
    && decide (1 ≤ i.w ∧ i.w ≤ 32 ∧ i.skip ≤ 8 ∧ 1 ≤ i.h ∧ i.h ≤ 480)
    && i.tiles.all (fun t => i.inside t.rc && t.kind == rcKind t.rc.rx && decide (1 ≤ t.maxInflight) && expOk t.sqExp 10 40
      && tasksOk t && decide (t.steers.length ≤ kindSteers t.kind))
    && p.units.all unitOk && i.chans.all (chanOk i)
    && atMost 8 ((i.chans.filter (fun c => decide (64 < c.depth))).map (fun c => rcNum c.host))
    && decide (i.reds.length ≤ 64) && i.reds.all (redOk i)
    && decide (i.dmaqs.length ≤ 96) && i.dmaqs.all (fun q => i.inside q.host && rcKind q.host.rx == 2 && decide (q.engine < 96))
    && atMost 4 (i.dmaqs.map (fun q => rcNum q.host)) && atMost 8 (i.dmaqs.map (·.engine))
    && i.rets.all (fun r => i.inside r.rc && i.inside r.host)

/-- The deep-channel FIFOs of a Store tile from the top of its SRAM down (R169). -/
def Image.fifos (i : Image) (c : RC) : List (Nat × Nat) :=
  ((i.chans.filter (fun x => decide (64 < x.depth) && x.host == c)).foldl (fun (acc : List (Nat × Nat) × Nat) x =>
    let n := roundUp (80 * (x.depth - 64)) 64
    (acc.1 ++ [(acc.2 - n, n)], acc.2 - n)) ([], 0x100000)).1

/-- Bytes of a Store tile's SRAM that its FIFOs take. -/
def Image.fifoBytes (i : Image) (c : RC) : Nat :=
  ((i.chans.filter (fun x => decide (64 < x.depth) && x.host == c)).map (fun x => roundUp (80 * (x.depth - 64)) 64)).sum

/-- The DMA queue areas of a Store tile (R278). -/
def Image.areas (i : Image) (c : RC) : List (Nat × Nat) :=
  (i.dmaqs.filter (fun q => q.host == c)).map (fun q => (q.area, 2080))

/-- The copies and boundary slots a Store tile hosts (R333). -/
def Image.copies (i : Image) (c : RC) : List (Nat × Nat) :=
  (i.rets.filter (fun r => r.host == c)).map (fun r => (r.hostOff, 2 * (r.len + r.bndLen)))

/-- The bytes of a tile's memory that the plan uses. -/
def Image.used (i : Image) (c : RC) : Nat := match i.rec? c with
  | some t => t.memUsed
  | none => 0

/-- Ranges of one list meet a range of another. -/
def anyMeet (a b : List (Nat × Nat)) : Bool :=
  a.any (fun x => b.any (fun y => x.2 != 0 && y.2 != 0 && decide (x.1 < y.1 + y.2 ∧ y.1 < x.1 + x.2)))

/-- The checks of 0x1013: the scratch window, input channels, output ports, ranges of Store SRAM (R169, R176, R333). -/
def ownersOk (i : Image) : Bool :=
  i.tiles.all (fun t =>
    let lo := (kindMem t.kind).1
    (if t.spec then decide (lo + t.memUsed ≤ 0x3C000) && t.segs.all (fun s => decide (s.off + s.bytes.length ≤ 0x3C000))
     else t.steers.all (fun s => s.predict == 0))
      && distinct (t.tasks.flatMap (fun k => k.ops.take k.nOps)
        ++ t.steers.flatMap (fun s => (s.in0.toList ++ s.in1.toList ++ s.ctl.toList).eraseDups))
      && distinct (t.steers.flatMap (fun s => (s.out0.toList ++ s.out1.toList).eraseDups)))
    && distinct (i.chans.map (fun c => 64 * rcNum c.cons + c.ch)) && distinct (i.chans.map (fun c => 64 * rcNum c.prod + c.port))
    && (i.members.filter (fun c => rcKind c.rx == 2)).all (fun c =>
      let mem := [(0, i.used c)]
      let rest := i.areas c ++ i.copies c
      !anyMeet rest (mem ++ i.fifos c) && apart rest)

/-- Bytes of a Store tile's SRAM that the plan takes without copies. -/
def Image.sramUse (i : Image) (c : RC) : Nat := i.used c + i.fifoBytes c + ((i.areas c).map (·.2)).sum

/-- The checks of 0x1002 (R169, R184, R278). -/
def memoriesOk (i : Image) : Bool :=
  i.tiles.all (fun t => decide (t.prog.length ≤ 4 * kindProg t.kind) && decide (t.memUsed ≤ (kindMem t.kind).2)
      && t.segs.all (fun s => inMem t.kind s.off s.bytes.length))
    && i.dmaqs.all (fun q => q.area % 32 == 0 && decide (q.area + 2080 ≤ 0x100000))
    && (i.members.filter (fun c => rcKind c.rx == 2)).all (fun c => decide (i.sramUse c ≤ 0x100000))

/-- The checks of 0x1009 (R333, R337). -/
def retentionOk (i : Image) : Bool :=
  i.tiles.all (fun t => (i.rets.filter (fun r => r.rc == t.rc && r.bndLen != 0)).length == 1)
    && i.rets.all (fun r =>
      let used := i.used r.rc
      let lo := (kindMem (rcKind r.rc.rx)).1
      rcKind r.host.rx == 2 && r.host != r.rc && r.off % 16 == 0 && r.len % 16 == 0 && r.hostOff % 64 == 0
        && r.bndLen % 4096 == 0
        && (r.len == 0 || decide (lo ≤ r.off ∧ r.off + r.len ≤ lo + used))
        && (match i.rec? r.rc with
          | some t => !t.spec || r.len == 0 || decide (r.off + r.len ≤ 0x3C000)
          | none => true)
        && (r.bndLen == 0 || decide (recordSize i ((i.rec? r.rc).getD (bareRec r.rc)) 0 + chanRecordSize i r.rc ≤ r.bndLen))
        && decide (r.hostOff + 2 * (r.len + r.bndLen) ≤ 0x100000)
        && decide (i.sramUse r.host + ((i.copies r.host).map (·.2)).sum ≤ 0x100000))
    && ((i.chans.filter (fun c => decide (64 < c.depth))).map (·.host) ++ i.dmaqs.map (·.host)).all (fun c =>
      i.rets.any (fun r => r.rc == c && r.bndLen != 0))

/-- The checks of 0x100E (R222). -/
def queuesOk (i : Image) : Bool :=
  i.tiles.all (fun t => distinct (t.sqs.map (·.q)) && t.sqs.all (fun s =>
    decide (s.q < kindSqs t.kind) && decide (s.init.length ≤ 64)
      && (s.nPut == 0xFFFF || s.nGet == 0xFFFF || s.nPut == s.nGet)))

/-- Blocked tiles by group row, at most 3 (R86). -/
def blockedOk (i : Image) : Bool :=
  atMost 3 ((i.tiles.filter (fun t => t.kind == 0 && t.blocked)).map (fun t => 1024 * t.rc.ry + t.rc.rx / 15))

/-! ## The home and pause areas (R290, R317) -/

/-- A tile takes part in a reduction of the table: it lies in its rectangle (R262). -/
def RedEntry.has (r : RedEntry) (c : RC) : Bool :=
  decide (r.rx0 ≤ c.rx ∧ c.rx < r.rx0 + r.w ∧ r.ry0 ≤ c.ry ∧ c.ry < r.ry0 + r.h)

/-- The tables of a tile as the image gives them: its own, its channels and its reductions. -/
def tileTables (i : Image) (t : TileRec) : List Byte :=
  t.tables ++ i.chans.flatMap (fun c => if c.prod = t.rc ∨ c.cons = t.rc then
      le 4 (rcNum c.prod) ++ le 1 c.port ++ le 1 c.ch ++ le 1 c.kind ++ le 1 c.stallExp ++ le 4 (rcNum c.cons) ++ le 2 c.depth
    else [])
    ++ (i.reds.filter (fun r => r.has t.rc)).flatMap (fun r => le 1 (r.op + flagAt r.long 2 + flagAt r.all 3 + 16 * r.fmt) ++ le 4 r.endpoint)

/-- The bytes of a tile's tables in its home record: each at the size that its entry has in the image; of the reductions those
the tile takes part in (R262, R300, R301; log 41). -/
def homeTableLen (i : Image) (t : TileRec) : Nat :=
  t.tables.length + 32 * (i.chans.filter (fun c => c.prod = t.rc ∨ c.cons = t.rc)).length
    + 32 * (i.reds.filter (fun r => r.has t.rc)).length

/-- A home record (R290). -/
def homeRecord (i : Image) (t : TileRec) : List Byte :=
  let tbl := padTo (homeTableLen i t) (Config.homeTables (tileTables i t))
  let body := t.prog ++ tbl ++ t.segs.flatMap (fun s => le 4 s.off ++ le 4 s.bytes.length ++ s.bytes)
  let h := fun crc => [0x48, 0x4F, 0x4D, 0x45] ++ le 4 (rcNum t.rc + 2 ^ 18 * t.kind) ++ le 4 t.prog.length ++ le 4 tbl.length
    ++ le 4 t.segs.length ++ List.replicate 40 0 ++ le 4 crc
  h (crc32c (h 0 ++ body)) ++ body

/-- A TILES record put in its place in directory order. -/
def insertTile (t : TileRec) : List TileRec → List TileRec
  | [] => [t]
  | x :: r => if rcLe t.rc x.rc then t :: x :: r else x :: insertTile t r

/-- The TILES records in directory order. -/
def Image.tilesOrdered (i : Image) : List TileRec := i.tiles.foldl (fun l t => insertTile t l) []

/-- Where each home record lies, from the start of the area. -/
def homeOffsets (i : Image) : List TileRec → Nat → List (RC × Nat)
  | [], _ => []
  | t :: r, o => (t.rc, o) :: homeOffsets i r (o + roundUp (homeRecord i t).length 16)

/-- The home area: its directory and its records. -/
def homeArea (i : Image) : List Byte :=
  let ts := i.tilesOrdered
  let offs := homeOffsets i ts (16 * ts.length)
  (ts.zip offs).flatMap (fun (t, _, o) => le 4 (rcNum t.rc + 2 ^ 18 * t.kind) ++ le 8 o ++ le 4 (homeRecord i t).length)
    ++ ts.flatMap (fun t => padTo (roundUp (homeRecord i t).length 16) (homeRecord i t))

/-- The fixed part of every tile in the pause area, which LOAD_JOB checks (R317). -/
def pauseParts (i : Image) : Nat := (i.members.map (fun c => 0xA000 + (kindMem (rcKind c.rx)).2)).sum

/-- The header, the directory and the fixed parts. -/
def pauseFixed (i : Image) : Nat := 64 + 16 * i.members.length + pauseParts i

/-- The checks of 0x1007 (R271, R303, R310, R419); `others` are the plans of the loaded jobs. -/
def hbmOk (i : Image) (others : List Image) (addr len : Nat) : Bool :=
  i.plan.all (fun x => hbmRangeOk x.1 x.2) && isInterleaved i.home.1 && isInterleaved i.pause.1
    && decide ((homeArea i).length ≤ i.home.2) && decide (pauseParts i ≤ i.pause.2)
    && (i.dryd.2 == 0 || decide (dryFixed i ≤ i.dryd.2))
    && !i.plan.any (fun x => others.any (meetsPlan x.1 x.2))
    && !meetsPlan addr len i && !others.any (meetsPlan addr len)

/-- The first check that fails, in the order of R310; none when all pass. -/
def firstFailing : List (Bool × Nat) → Option Nat
  | [] => none
  | (ok, c) :: r => if ok then firstFailing r else some c

/-- The checks of stage LOAD after the form of the image. -/
def loadChecks (p : Parsed) (others : List Image) (addr len : Nat) : Option Nat :=
  let i := p.img
  firstFailing [
    (p.requires.all requireOk, 0x1011),
    (decide (1 ≤ i.ndev ∧ i.ndev ≤ 131072) && i.reds.all (fun r => decide (r.rank0 + r.ndev ≤ 131072)), 0x100D),
    (tablesOk p, 0x1010),
    (i.tiles.all (fun t => decide ((t.tasks.map (·.slots)).sum ≤ kindSlots t.kind)), 0x1003),
    (i.tiles.all (fun t => decide (t.accords ≤ if t.kind = 0 then 8 else 0)), 0x1004),
    (ownersOk i, 0x1013),
    (memoriesOk i, 0x1002),
    (retentionOk i, 0x1009),
    (queuesOk i, 0x100E),
    (i.tiles.all (fun t => decide (t.maxInflight ≤ 4096)), 0x100F),
    (i.cyclesOk, 0x1005),
    (i.slackOk, 0x1006),
    (blockedOk i, 0x1008),
    (i.tiles.all (fun t => bit t.enrol 0), 0x100A),
    (hbmOk i others addr len, 0x1007)]

end Sys2Proof.Machine
end

