-- ==== Sys2Proof/Machine/Request.lean ====
section
/-! DEFINITION. The front end of the mailbox protocol: transports, sessions, repeats, preconditions, objects in pages
and in pieces (R403-R414). -/

namespace Sys2Proof.Machine

/-! ## Transports and states -/

/-- A tether port through which the register space answers: from the end of that port's own training, in no recovery mode and
not in Standby (R372, R393, R399). -/
def Dev.tetherOpen (d : Dev) (tport : Nat) : Bool :=
  match d.mod.st with
  | .off | .standby | .recovery => false
  | .starting => d.mod.optEnded.contains (48 + tport)
  | _ => true

/-- A transport whose requests are read now (R372, R393, R399, R403); the tether through either port. -/
def Dev.carries (d : Dev) (tr : Transport) : Bool :=
  match d.mod.st, tr with
  | _, .tether => d.tetherOpen 0 || d.tetherOpen 1
  | .off, _ => false
  | .standby, _ => false
  | .recovery, _ => true
  | .starting, .mgmtPort => decide (2 ≤ d.mod.order)
  | _, .uart => d.mod.inForce.uartEn
  | _, _ => true

/-- The module states in which an opcode is accepted, outside a start (R414). -/
def acceptedIn (op : Nat) : ModSt → Bool
  | .active => op != 0x20
  | .idle => op != 0x42 && op != 0x50
  | .parked => !([0x40, 0x41, 0x42, 0x43, 0x50, 0x62, 0x70].contains op)
  | .recovery => [0x01, 0x02, 0x10, 0x11, 0x51].contains op
  | _ => false

/-- The opcodes that run during a start (R372). -/
def acceptedStarting (op : Nat) : Bool := [0x01, 0x02, 0x03, 0x51, 0x60].contains op

/-- The opcodes that a session of major 2 does not run (R408). -/
def newerOpcode (op : Nat) : Bool := op == 0x62 || op == 0x70 || op == 0x80

/-- A command completes, with a record when it is one that is logged. -/
def finish (logged : Bool) (r : Req) (op st refusal : Nat) (payload : List Byte) (d : Dev) : Dev :=
  if logged then finishCmd r op st refusal payload d else respond r op 0 st refusal 0xFFFFFFFF payload d

/-! ## Sessions and repeats -/

/-- A response that a repeat of a request gets at once, kept nowhere: the one kept, or BUSY with interim set (R411). -/
def repeatAnswer (r : Req) (op : Nat) (s : Session) (d : Dev) : Option Dev :=
  match s.kept.find? (fun x => x.1 == r.seq) with
  | some (_, e) => some (d.emit e)
  | none =>
    if s.running.contains r.seq then
      some (d.emit (.response r.tr r.box r.session r.seq op 8 stBusy 0 (if s.major = 2 then 0 else d.now)
        (if s.major = 2 then 0 else 0xFFFFFFFF) []))
    else none

/-- The session is used: what it holds least recently used goes first (R407); the request runs (R411). -/
def Session.take (r : Req) (now : Nat) (s : Session) : Session :=
  { s with used := now, running := if r.tr = .tether then s.running else s.running ++ [r.seq] }

/-- The precondition that the module and the session fail, if any, as a status (R407, R408, R410, R414). -/
def requestStatus (r : Req) (op : Nat) (d : Dev) : Option Nat :=
  match d.session? r.tr r.session with
  | none => some stBadArg
  | some s =>
    if s.major ≠ r.major ∨ (s.major = 2 ∧ newerOpcode op) then some stBadVersion
    else match d.mod.st with
      | .starting => if acceptedStarting op then none else some stBusy
      | st => if acceptedIn op st then none else some stNotPermitted

/-- A request read: over the tether only a mailbox that is idle takes one and is busy from then on (R404). -/
def readRequest (r : Req) (d : Dev) : Option Dev :=
  if !d.carries r.tr then none
  else match r.tr with
    | .tether =>
      if d.host.doorbells.get 0 r.box = 0 then
        some { d with host := { d.host with doorbells := d.host.doorbells.set r.box 1 } }
      else none
    | _ => some d

/-- A request before it runs: answered or left alone already, or admitted. One that names a session the device does not
hold runs nothing and leaves no record. -/
def entered (r : Req) (op : Nat) (logged : Bool) (d : Dev) : Except Dev Dev :=
  match readRequest r d with
  | none => .error d
  | some d =>
    match (if r.tr = .tether then none else (d.session? r.tr r.session).bind (fun s => repeatAnswer r op s d)) with
    | some d => .error d
    | none =>
      let known := (d.session? r.tr r.session).isSome
      let d := d.onSession r.tr r.session (Session.take r d.now)
      match requestStatus r op d with
      | some st => .error (finish (logged && known) r op st 0 [] d)
      | none => .ok d

/-- A request whose preconditions are checked before `run` runs. -/
def request (r : Req) (op : Nat) (logged : Bool) (run : Dev → Dev) (d : Dev) : Dev :=
  match entered r op logged d with
  | .error d => d
  | .ok d => run d

/-- A request that reads or writes fuses and flash. -/
def requestBoot (r : Req) (op : Nat) (logged : Bool) (run : Boot → Dev → Boot × Dev) (b : Boot) (d : Dev) : Boot × Dev :=
  match entered r op logged d with
  | .error d => (b, d)
  | .ok d => run b d

/-- A command of a job is in progress: its own, a table change for it, a drydown, a recovery, a start, its removal for a
RESUME_JOB that named it (R293, R342, R410). -/
def Dev.jobBusy (d : Dev) (j : Job) : Bool :=
  j.phase != .idle || j.req.isSome || j.dumpReq.isSome || j.stop == .dumping || j.unload.isSome
    || d.jobs.any (fun x => x.phase == .predecessors && x.preds.contains j.id)
    || (d.map.change.toList ++ d.map.waitingChanges).any (fun c => match c.req with
      | some q => q.job == j.id
      | none => false)

def Dev.jobNamed (d : Dev) (id : Nat) : Option Job := d.jobs.find? (fun j => j.id == id)

/-- A request for a loaded job: an unknown one is BAD_ARGUMENT, a busy one BUSY (R293, R410, R414). -/
def jobRequest (r : Req) (op : Nat) (logged : Bool) (run : Job → Dev → Dev) : Dev → Dev :=
  request r op logged (fun d =>
    match d.jobNamed r.job with
    | none => finish logged r op stBadArg 0 [] d
    | some j => if d.jobBusy j then finish logged r op stBusy 0 [] d else run j d)

/-! ## Objects in pieces (R413) -/

/-- What a piece makes of its object. -/
inductive PieceSeen where
  | bad | got (n : Nat) | whole (bytes : List Byte)
  deriving DecidableEq, Repr

/-- The partial object of an opcode in a session. -/
def Dev.partial? (d : Dev) (r : Req) (op : Nat) : Option Partial :=
  d.host.partials.find? (fun x => x.session == r.session && x.opcode == op)

/-- The partial object of an opcode in a session replaced or dropped. -/
def Dev.setPartial (r : Req) (op : Nat) (x : Option Partial) (d : Dev) : Dev :=
  let l := d.host.partials.filter (fun x => !(x.session == r.session && x.opcode == op)) ++ x.toList
  { d with host := { d.host with partials := l } }

/-- A piece of an object of at most 1 MiB; `own` are the opcode's own fields. -/
def takePiece (r : Req) (op : Nat) (own : List Nat) (p : Piece) (d : Dev) : PieceSeen × Dev :=
  let before : Option (List Byte) :=
    if p.offset = 0 then some []
    else match d.partial? r op with
      | some x => if x.own = own ∧ x.total = p.total ∧ x.bytes.length = p.offset then some x.bytes else none
      | none => none
  match before with
  | none => (.bad, d.setPartial r op none)
  | some bs =>
    let all := bs ++ p.bytes
    if 2 ^ 20 < p.total ∨ p.total < all.length then (.bad, d.setPartial r op none)
    else if p.more then
      (.got all.length, d.setPartial r op (some { session := r.session, opcode := op, own := own, total := p.total, bytes := all }))
    else if all.length = p.total then (.whole all, d.setPartial r op none)
    else (.bad, d.setPartial r op none)

/-- A command that takes an object in pieces. -/
def pieceCommand (r : Req) (op : Nat) (own : List Nat) (p : Piece) (run : List Byte → Dev → Dev) (d : Dev) : Dev :=
  match takePiece r op own p d with
  | (.bad, d) => finish true r op stBadArg 0 [] d
  | (.got n, d) => answerCmd r op stOK (le 4 n) d
  | (.whole bs, d) => run bs d

/-! ## Objects in pages (R412) -/

/-- Most bytes of data in a page. -/
def pageBytes : Nat := 4016

/-- A page of a snapshot answered; page incomplete is flag 4. -/
def answerPage (r : Req) (op : Nat) (x : Snapshot) (offset seq : Nat) (d : Dev) : Dev :=
  let bs := slice x.bytes offset (min pageBytes (x.bytes.length - offset))
  let flags := if offset + bs.length < x.bytes.length then 16 else 0
  respond r op flags stOK 0 seq (le 4 x.id ++ le 4 x.bytes.length ++ le 4 offset ++ le 4 bs.length ++ bs) d

/-- A later page: of a snapshot that is held, at an offset within it. -/
def laterPage (r : Req) (op snap offset : Nat) (d : Dev) : Dev :=
  match d.host.snapshots.find? (fun x => x.id == snap && x.session == r.session && x.opcode == op) with
  | none => answerCmd r op stBadArg [] d
  | some x => if x.bytes.length < offset then answerCmd r op stBadArg [] d else answerPage r op x offset 0xFFFFFFFF d

/-- A new snapshot, which replaces the session's snapshot of the opcode, and its first page. -/
def firstPage (r : Req) (op seq : Nat) (bytes : List Byte) (d : Dev) : Dev :=
  let x : Snapshot := { id := d.host.nextSnap, session := r.session, opcode := op, bytes := bytes }
  answerPage r op x 0 seq { d with host := { d.host with
    nextSnap := d.host.nextSnap + 1
    snapshots := d.host.snapshots.filter (fun y => !(y.session == r.session && y.opcode == op)) ++ [x] } }

end Sys2Proof.Machine
end

