-- ==== Sys2Proof/Machine/Voltage.lean ====
section
/-! DEFINITION. Field voltage: the jobs that hold a running step, the target of a field, the supply a running step needs
(R41, R42, R361, R367). -/

namespace Sys2Proof.Machine

/-- A job that holds a running step, its first one from START_JOB or RESUME_JOB on (R367, log 62), until a pause quiesces it
or its stop begins; a recovery holds the step that it repeats. -/
def Job.working (j : Job) : Bool :=
  j.st == .running && j.stop == .none && j.phase != .pauseQuiesce && j.phase != .pauseScanOut

/-- The positions of a job in a field. -/
def tilesIn (m : MapSt) (j : Job) (f : Nat) : List Pos := (j.places m).filter (fun p => p.field == f)

/-- The jobs with a running step that have tiles in a field. -/
def workingIn (d : Dev) (f : Nat) : List Job := d.jobs.filter (fun j => j.working && !(tilesIn d.map j f).isEmpty)

/-- A field. -/
def Dev.field (d : Dev) (f : Nat) : Field := d.energy.fields.get {} f

/-- A field changed. -/
def Dev.onField (f : Nat) (g : Field → Field) (d : Dev) : Dev :=
  { d with energy := { d.energy with fields := d.energy.fields.set f (g (d.energy.fields.get {} f)) } }

/-- All 48 fields. -/
def allFields : List Nat := List.range 48

/-- The target of R361, within the ceiling (R3). -/
def fieldTarget (d : Dev) (f : Nat) : Nat :=
  match workingIn d f with
  | [] => 600
  | l => min d.mod.inForce.ceiling
      (max 620 (min (l.foldl (fun m j => max m j.energy.setpoint) 0) (min (d.field f).tcap d.energy.limCap)))

/-- The target the regulator follows: a lowering and the floor of a running step take effect at once (R41, R361, log 132);
any other raise stands at what its interval has brought. -/
def targetNow (d : Dev) (f : Nat) : Nat :=
  let x := d.field f
  let t := fieldTarget d f
  if !x.powered then x.target
  else if t ≤ x.target then t
  else max x.target (min t 620)

/-- A field's target brought up to date; a raise, from whatever cause, is 5 mV in an interval. -/
def retarget (f : Nat) (d : Dev) : Dev :=
  let t := fieldTarget d f
  let n := targetNow d f
  d.onField f (fun x =>
    if !x.powered then x
    else
      let u := if t ≤ n ∨ x.raised ∨ x.target < n then n else min t (x.target + 5)
      { x with target := u, raised := x.raised || decide (x.target < u) })

def retargetAll (d : Dev) : Dev := d.each allFields retarget

/-- Targets above what their fields need are lowered, before a job takes its place. -/
def lowerTargets (d : Dev) : Dev :=
  d.each allFields (fun f d =>
    let t := fieldTarget d f
    d.onField f (fun x => if x.powered then { x with target := min x.target t } else x))

/-- Every field of a job's tiles stands at a supply that a running step may have (R41). -/
def Job.fieldsUp (j : Job) (d : Dev) : Bool :=
  (j.places d.map).all (fun p => !(d.field p.field).powered || decide (620 ≤ (d.field p.field).volt))

end Sys2Proof.Machine
end

