-- ==== Sys2Proof/Machine/Start.lean ====
section
/-! DEFINITION. Loading and starting jobs: LOAD_JOB, START_JOB, the delivery of home records (R290-R294, R310-R313), and
what START_JOB tells a PAUSE_JOB that named it (R322). -/

namespace Sys2Proof.Machine

/-! ## LOAD_JOB -/

/-- A job as LOAD_JOB creates it; its voltage cap starts at the ceiling (R360). -/
def newJob (id slot ceiling now : Nat) (i : Image) : Job :=
  { id := id, slot := slot, st := .loaded, phase := .idle, img := i, origin := none, holes := [], lines := [], crossed := []
    gate0 := false, gates := false, conf := 0, epoch := false, stop := .none, trigger := 0, trigTile := ⟨0, 0⟩, trigStep := 0
    tTrigger := 0, hostDump := false, afterHalt := false, preGates := [], late := 0
    area := if i.dryd.2 = 0 then none else some i.dryd
    dumpReq := none, req := none, succ := [], outcomes := [], pauseSeq := 0, preds := [], want := none, unload := none
    rbStep := 0, rbWhy := 0, pauseAfter := false, lost := [], lastFault := 0, faultTile := ⟨0, 0⟩
    tChange := now, rollbacks := 0, beats := 0, bounds := [], saved := none, ranks := none, oldRanks := none
    energy := { cap := ceiling, setpoint := ceiling } }

/-- The lowest free job slot (R294). -/
def Dev.freeJobSlot (d : Dev) : Option Nat := (List.range 32).find? (fun k => (d.job? k).isNone)

/-- What LOAD_JOB does with an image range (R294, R310, R419). One with a line that cannot be read is malformed (R276,
log 177). -/
def loadJob (r : Req) (addr len : Nat) (d : Dev) : Dev :=
  let refuse := fun code => finishCmd r 0x40 stRefused code [] d
  if !d.mod.failedStacks.isEmpty then finishCmd r 0x40 stNotPermitted 0 [] d
  else if addr % 16 ≠ 0 ∨ (hbmKey addr).isNone ∨ !hbmRangeOk addr len ∨ (d.jobNamed r.job).isSome then
    finishCmd r 0x40 stBadArg 0 [] d
  else match d.freeJobSlot with
    | none => refuse 0x1014
    | some k =>
      match (if poisonedIn d addr len then .error 0x1012 else parseImage (d.brim.hbmRead addr len)) with
      | .error c => refuse c
      | .ok p =>
        match loadChecks p (d.jobs.map (·.img)) addr len with
        | some c => refuse c
        | none =>
          let d : Dev := { d with
            jobs := d.jobs ++ [newJob r.job k d.mod.inForce.ceiling d.now p.img]
            brim := d.brim.hbmWrite p.img.home.1 (homeArea p.img) }
          finishCmd r 0x40 stOK 0 (le 1 k) d

/-- LOAD_JOB (R310). -/
def execLoadJob (r : Req) (addr len : Nat) : State → Out_ :=
  liftAt (boxOk r.tr r.box) (request r 0x40 true (loadJob r addr len))

/-! ## A tile as its home record makes it (R290, R313) -/

/-- An exponent of the image with the value that 0 selects. -/
def expOr (v default_ : Nat) : Nat := if v = 0 then default_ else v

/-- The offset of a tile's home record in the home area. -/
def homeOffset (i : Image) (c : RC) : Nat :=
  (((homeOffsets i i.tilesOrdered (16 * i.tiles.length)).find? (fun x => x.1 == c)).map (·.2)).getD 0

/-- The offsets of a record's segments from the start of its first one. -/
def segOffsets : List Seg → Nat → List (Seg × Nat)
  | [], _ => []
  | s :: r, o => (s, o + 8) :: segOffsets r (o + 8 + s.bytes.length)

/-- Program memory delivered from HBM. -/
def homeProg (d : Dev) (i : Image) (t : TileRec) : Mem :=
  Mem.writeN [] 0 (d.brim.hbmRead (i.home.1 + homeOffset i t.rc + 64) t.prog.length)

/-- The constant segments delivered from HBM: where each goes, and its bytes. -/
def homeBytes (d : Dev) (i : Image) (t : TileRec) : List (Nat × List Byte) :=
  let base := i.home.1 + homeOffset i t.rc + 64 + t.prog.length + homeTableLen i t
  (segOffsets t.segs 0).map (fun (s, o) => (s.off, d.brim.hbmRead (base + o) s.bytes.length))

/-- A tile's home record lies in a line that cannot be read: its delivery fails (R276, log 177). -/
def homeLost (d : Dev) (i : Image) (c : RC) : Bool :=
  match i.tiles.find? (fun t => t.rc == c) with
  | some t => poisonedIn d (i.home.1 + homeOffset i c) (homeRecord i t).length
  | none => false

/-- Initial tokens of a channel: inline, tags 0 upward (R165, R301). -/
def initTokens (c : ChanRec) : List Token :=
  c.init.zipIdx.map (fun (bs, i) => { tag := i, ref := false, prov := none, data := bs })

/-- The input channels of a tile with their initial tokens; a deep channel's first 64 are at its consumer. -/
def chansAt (i : Image) (c : RC) : Tab Chan :=
  i.chans.zipIdx.foldl (fun (m : Tab Chan) x =>
    if x.1.cons = c then Tab.set m x.1.ch { kind := x.1.kind + 1, ci := some x.2, toks := (initTokens x.1).take 64 } else m) []

/-- The output ports of a tile: credit is the depth less the initial tokens (R165, R167). -/
def portsAt (i : Image) (c : RC) : Tab OPort :=
  i.chans.zipIdx.foldl (fun (m : Tab OPort) x =>
    if x.1.prod = c then Tab.set m x.1.port { ci := some x.2, credit := x.1.depth - x.1.initial } else m) []

/-- The deep-channel FIFOs that a tile hosts, in the order of their entries, each in its range of SRAM (R169). -/
def deepsAt (i : Image) (c : RC) : List Deep :=
  ((i.chans.zipIdx.filter (fun x => decide (64 < x.1.depth) && x.1.host == c)).zip (i.fifos c)).map (fun (x, f) =>
    { ci := x.2, base := f.1, cap := x.1.depth - 64, toks := (initTokens x.1).drop 64, credit := 64 - min 64 x.1.initial })

/-- The tokens of a Store tile's FIFOs put into its SRAM (R169, R289). -/
def Tile.writeFifos (t : Tile) : Tile :=
  t.deeps.foldl (fun t q => q.toks.zipIdx.foldl (fun (t : Tile) x => t.overwrite (q.entry x.2) (padTo 80 (tokenBytes x.1 0))) t) t

/-- The sync part of a tile at START_JOB (R222, R225, R226). -/
def syncAt (j : Job) (t : TileRec) : Sync :=
  { sqs := t.sqs.foldl (fun (m : Tab SQ) s => Tab.set m s.q { toks := s.init, nPut := s.nPut, nGet := s.nGet }) []
    nLines := j.img.nLines
    sqExp := expOr t.sqExp 24
    hbExp := expOr j.img.hbExp 34
    enrol := BitVec.ofNat 32 (t.enrol % 2 ^ j.img.nLines)
    map := j.lines.zipIdx.foldl (fun (m : Tab (Option Nat)) x => Tab.set m x.2 (some x.1)) [] }

/-- The network part of a tile as the loader writes it: NET_CFG, its job, the current epoch. -/
def netAt (d : Dev) (j : Job) (c : RC) : Net :=
  { rto := expOr j.img.rtoExp 18, egress := egressOf j c.ry, epoch := d.map.epoch, jslot := some j.slot }

/-- A tile of a job as orders 2 to 4 of R313 leave it: reset, home record delivered, every other byte of memory 0,
initial tokens placed, STEP_COUNT 0. -/
def freshTile (d : Dev) (j : Job) (c : RC) : Tile :=
  let t := j.recOf c
  let x : Tile :=
  { prog := homeProg d j.img t
    rc := c
    rank := ownRank j
    granted := t.blocked
    flow := { tasks := t.tasks.map (fun k => { decl := k }), chans := chansAt j.img c, ports := portsAt j.img c
              steers := t.steers.map (fun s => { decl := s, predict := s.predict }), scratch := t.spec }
    sync := syncAt j t
    net := netAt d j c
    dmaqs := (j.img.dmaqs.filter (fun q => q.host == c)).map (fun q => { job := j.slot, area := q.area, engine := q.engine })
    deeps := deepsAt j.img c }
  ((homeBytes d j.img t).foldl (fun (t : Tile) x => t.overwrite x.1 x.2) x).writeFifos

/-- Every tile of a job made afresh. -/
def deliverHome (j : Job) (d : Dev) : Dev :=
  let new := j.img.members.filterMap (fun c => (j.posOf d.map c).map (fun p => (p, freshTile d j c)))
  d.each new (fun x d => d.setTile x.1 x.2)

/-- A tile whose boundary record of step 0 is too long (R334, R337). -/
def longRecord (d : Dev) (j : Job) : Option Pos :=
  (j.img.members.filterMap (fun c => (j.posOf d.map c).map (fun p => (c, p)))).findSome? (fun x =>
    match boundEntry j.img x.1 with
    | some r =>
      let n := recordLength j (d.tile x.2)
      if 65536 < n ∨ r.bndLen < n + chanRecordSize j.img x.1 then some x.2 else none
    | none => none)

/-- The boundary record of step 0 of every tile, and copy 0 of its ranges (R313 order 4). -/
def firstRecords (j : Job) (d : Dev) : Dev :=
  let ps := j.img.members.filterMap (fun c => (j.posOf d.map c).map (fun p => (c, p)))
  let d := d.each ps (fun x d => match boundEntry j.img x.1 with
    | some r => keepRecord x.2 j r d
    | none => d)
  d.each j.img.rets (fun r d =>
    match j.posOf d.map r.rc, j.posOf d.map r.host with
    | some p, some q => d.onTile q (fun h => h.overwrite r.hostOff ((d.tile p).mem.readN r.off r.len))
    | _, _ => d)

/-- The tasks without operands fire, with tag 0 (R161). -/
def fireIdle (t : Tile) : Tile :=
  (t.flow.tasks.filter (fun s => s.decl.nOps == 0)).foldl (fun t s =>
    match freeSlotOf t s.decl with
    | some n => fireSlot n s.decl 0 none [] t
    | none => t) t

def fireIdleTasks (j : Job) (d : Dev) : Dev := d.each (j.places d.map) (fun p d => d.onTile p fireIdle)

/-! ## START_JOB -/

/-- A job becomes RUNNING: the module is Active (R366, R367). -/
def Dev.goActive (d : Dev) : Dev :=
  if d.mod.st = .idle then { d with mod := { d.mod with st := .active } } else d

/-- The tiles of a footprint reset (R77, R313 order 2). -/
def resetFootprint (i : Image) (o : Nat × Nat) (d : Dev) : Dev :=
  { d with wafer := { d.wafer with tiles := d.wafer.tiles.filter (fun x => !inFootprint i o (posOf x.1)) } }

/-- The map is built for a place where the tables in force do not have its dead tiles as spares, unless a change that will do
so is to come (R19). -/
def buildFor (i : Image) (o : Nat × Nat) (d : Dev) : Dev :=
  if mapFits d.map i o || !d.map.waitingChanges.isEmpty || (match d.map.change with
      | some c => c.st == .writing
      | none => false) then d
  else startChange {} d

/-- The tables in force have the place of a job as the map has it: its tiles can be delivered (R19, log 168). -/
def Job.mapReady (j : Job) (d : Dev) : Bool :=
  match j.origin with
  | some o => mapFits d.map j.img o
  | none => false

/-- A job takes its place: lines and footprint, tiles reset, setpoint at the lower of 0.75 V and its cap at START_JOB and
RESUME_JOB (R313, R320, R362). -/
def occupy (j : Job) (ls : List Nat) (o : Nat × Nat) (ph : Phase) (req : Option Req) (d : Dev) : Dev :=
  let now := d.now
  let e := d.map.epoch
  ((((lowerTargets d).onJob j.slot (fun x =>
    { takePlace d ls o x with st := .running, phase := ph, req := req, epoch := e, tChange := now, gate0 := false, gates := false
                              stop := .none, lost := [], pauseAfter := false, beats := 0
                              energy := { x.energy with
                                setpoint := if ph = .rpResume then x.energy.setpoint else min 750 x.energy.cap } })).goActive)
    |> resetFootprint j.img o) |> buildFor j.img o

/-! ## Successors (R322, R419) -/

/-- Response payload of PAUSE_JOB: the step, the bytes saved, an outcome per successor. -/
def pausePayload (j : Job) : List Byte :=
  le 4 (j.crossed.get 0 0) ++ le 8 (match j.saved with
    | some s => s.bytes
    | none => 0) ++ j.outcomes.flatMap (fun o => match o with
      | some (st, code) => le 2 st ++ le 2 code
      | none => le 4 0)

/-- A PAUSE_JOB whose successors have all been started or refused answers, with the record of its own pause. -/
def answerPause (k : Nat) (d : Dev) : Dev :=
  match d.job? k with
  | some j =>
    match j.req with
    | some r =>
      if j.st = .paused ∧ j.outcomes.all (·.isSome) then
        respond r 0x42 0 stOK 0 j.pauseSeq (pausePayload j) (d.onJob k (fun j => { j with req := none, succ := [], outcomes := [] }))
      else d
    | none => d
  | none => d

/-- The outcome of a successor's start, put where the pause waits for it. -/
def Job.outcome (id : Nat) (o : Nat × Nat) (j : Job) : Job :=
  match (j.succ.zip j.outcomes).findIdx? (fun x => x.1 == id && x.2.isNone) with
  | some i => { j with outcomes := j.outcomes.set i (some o) }
  | none => j

/-- A successor's start has ended: its record under transport 3, and the pause that named it goes on. -/
def successorDone (id st code : Nat) (d : Dev) : Dev :=
  let d := cmdRecord 3 0x41 st code id d
  match d.jobs.find? (fun j => (j.succ.zip j.outcomes).any (fun x => x.1 == id && x.2.isNone)) with
  | some j => answerPause j.slot (d.onJob j.slot (Job.outcome id (st, code)))
  | none => d

/-! ## Placements, one at a time in acceptance order (R293) -/

/-- Order 1 of a START_JOB or a RESUME_JOB: the checks and the place, or the refusal, which leaves the job as it was (R310, R313,
R320, R322). -/
def placeOne (start : Bool) (j : Job) (d : Dev) : Dev :=
  match startChecks d j j.want with
  | .ok (ls, o) => occupy j ls o (if start then .starting else .resuming) j.req d
  | .error c =>
    let d := d.onJob j.slot (fun x => { x with phase := .idle, req := none, want := none })
    match j.req with
    | some r => finishCmd r (if start then 0x41 else 0x43) stRefused c [] d
    | none => if start then successorDone j.id stRefused c d else d

/-- The placements that wait, as far as they can be made now: a RESUME_JOB whose predecessors are still being removed holds the
later ones. -/
def placeQueue : Nat → Dev → Dev
  | 0, d => d
  | n + 1, d =>
    match d.host.placements with
    | [] => d
    | k :: r =>
      let go : Dev := { d with host := { d.host with placements := r } }
      match d.job? k with
      | none => placeQueue n go
      | some j =>
        if j.phase = .startWait then placeQueue n (placeOne true j go)
        else if j.phase = .predecessors then (if j.preds.isEmpty then placeQueue n (placeOne false j go) else d)
        else placeQueue n go

/-- A placement accepted: it is made at once when none waits before it. -/
def askPlace (k : Nat) (d : Dev) : Dev :=
  placeQueue 33 { d with host := { d.host with placements := d.host.placements ++ [k] } }

/-- A START_JOB accepted for a LOADED job. -/
def askStart (j : Job) (want : Option (Nat × Nat)) (req : Option Req) (d : Dev) : Dev :=
  askPlace j.slot (d.onJob j.slot (fun x => { x with phase := .startWait, want := want, req := req }))

/-- START_JOB (R313). -/
def execStartJob (r : Req) (origin : Option (Nat × Nat)) : State → Out_ :=
  liftAt (boxOk r.tr r.box) (jobRequest r 0x41 true (fun j d =>
    if j.st ≠ .loaded then finishCmd r 0x41 stNotPermitted 0 [] d else askStart j origin (some r) d))

/-- The successors of a pause are started in the order named. -/
def startSuccessor (id : Nat) (d : Dev) : Dev :=
  match d.jobNamed id with
  | none => successorDone id stBadArg 0 d
  | some j =>
    if d.jobBusy j then successorDone id stBusy 0 d
    else if j.st ≠ .loaded then successorDone id stNotPermitted 0 d
    else askStart j none none d

/-- What a START_JOB whose tiles cannot be made ready comes to: the fault stops the job at the tile, and the command is refused
with its code (R276, R334, log 177). -/
def startFails (j : Job) (p : Pos) (code : Nat) (d : Dev) : Dev :=
  let d := stopJob j.slot code (d.tile p).rc 0 true
    (appendLog code 1 true j.id (rcWord (d.tile p).rc) 0 1 (d.onTile p (fun t => t.recordFault code {})))
  match j.req with
  | some r => finishCmd r 0x41 stRefused code [] d
  | none => successorDone j.id stRefused code d

/-- Orders 4 to 6 of R313. -/
def beginJob (j : Job) (d : Dev) : Dev :=
  let d := d.onJob j.slot (fun x => { x with crossed := [], conf := 0, bounds := [], rollbacks := 0, saved := none })
  let d := firstRecords j d
  let d := fireIdleTasks j d
  let now := d.now
  let d := d.onJob j.slot (fun x => { x with
    phase := .idle, gates := true, req := none, want := none
    energy := { x.energy with readyAt := some now, prevRelease := none, cur := 0, recent := [], overCnt := 0, marks := []
                              repeated := none, stepOpen := false } })
  match j.req with
  | some r => finishCmd r 0x41 stOK 0 (placePayload j) d
  | none => successorDone j.id stOK 0 d

/-- Orders 2 to 6 of R313: the home records delivered, the records of step 0 written. -/
def startDelivered (j : Job) (d : Dev) : Dev :=
  let places := j.img.members.filterMap (fun c => (j.posOf d.map c).map (fun p => (c, p)))
  match places.find? (fun x => homeLost d j.img x.1) with
  | some (_, p) => startFails j p 0x0402 (deliverHome j d)
  | none =>
    let d := deliverHome j d
    match longRecord d j with
    | some p => startFails j p 0x0403 d
    | none => beginJob j d

/-- START_DELIVERY_DONE (R313): a tile lost meanwhile waits for its spare to stand in the tables (log 168). -/
def execStartDeliveryDone (j : Nat) : State → Out_ :=
  liftAt (decide (j < 32)) (fun d =>
    match d.job? j with
    | some x => if x.phase = .starting ∧ x.mapReady d ∧ x.fieldsUp d then startDelivered x d else d
    | none => d)

/-! ## JOB_STATUS (R418) -/

def JobSt.code : JobSt → Nat
  | .loaded => 0
  | .running => 1
  | .paused => 2
  | .halted => 3

/-- The gate of a job is held for the ledger alone. -/
def ledgerHeld (j : Job) : Bool := j.st == .running && j.energy.ledgerWait

/-- Response payload of JOB_STATUS. -/
def statusPayload (j : Job) : List Byte :=
  let o := match j.origin with
    | some (g, y) => le 2 g ++ le 2 y
    | none => le 2 0xFFFF ++ le 2 0xFFFF
  le 1 j.st.code ++ le 1 j.slot ++ le 1 (flagAt j.img.narrow 0) ++ le 1 (flagAt j.phase.recovering 0 + flagAt (ledgerHeld j) 1)
    ++ o ++ le 1 j.img.w ++ le 1 j.img.skip ++ le 2 j.img.h ++ le 4 (j.crossed.get 0 0) ++ le 4 j.conf
    ++ le 4 (lineMask j.lines) ++ le 2 j.lastFault ++ le 2 0 ++ le 4 (rcWord j.faultTile) ++ le 8 j.tChange ++ le 4 j.rollbacks

/-- JOB_STATUS (R418). -/
def execJobStatus (r : Req) : State → Out_ :=
  liftAt (boxOk r.tr r.box) (jobRequest r 0x45 false (fun j d => answerCmd r 0x45 stOK (statusPayload j) d))

end Sys2Proof.Machine
end

