-- ==== Sys2Proof/Machine/Stop.lean ====
section
/-! DEFINITION. Halted jobs: the quiesce of R235, drydowns (R234-R238), UNLOAD_JOB (R323), and RESUME_JOB as far as its
predecessors and its placement (R320, R322). -/

namespace Sys2Proof.Machine

/-! ## Leaving the wafer -/

/-- Work of a job at engines and port tiles dropped: runs, their packets, held writes, ingress log, tokens on neighbour
links. -/
def dropWork (k : Nat) (d : Dev) : Dev :=
  let gone : List Nat := (d.brim.runs.filter (fun x => x.2.j == k)).map (·.2.id)
  let ports := d.brim.ports.map (fun x => (x.1, { x.2 with
    held := x.2.held.filter (fun h => h.j != k)
    ingress := x.2.ingress.filter (fun e => e.1 != k)
    outs := x.2.outs.filter (fun o => !gone.contains o.2.1) }))
  { d with
    brim := { d.brim with runs := d.brim.runs.filter (fun x => x.2.j != k), ports := ports }
    wafer := { d.wafer with links := d.wafer.links.filter (fun l => l.j != k) } }

/-- Confirmed writes of a job that its port tiles still hold are committed; a packet that its link cannot take now waits in the
port's VL queue, where the job's end leaves it (R286, R323, R439). -/
def commitAll (j : Job) (d : Dev) : Dev :=
  d.each (d.brim.ports.map (·.1)) (fun pid d =>
    match portNum pid with
    | none => commitHbm pid j d
    | some n =>
      let fjob := match j.ranks with
        | some t => t.fjob
        | none => 0
      let (l, d) := commitPackets n fjob j (d.port pid).held false d
      let d := d.onPort pid (fun y => { y with held := l.filter (fun h => !ripe j h) })
      d.each (l.filter (ripe j)) (fun h d => match h.kind with
        | .packet k => fabricOut n fjob 1 k d
        | _ => d))

/-- The tiles of a job belong to no job. -/
def freeTiles (k : Nat) (d : Dev) : Dev :=
  let e := d.map.epoch
  { d with wafer := { d.wafer with tiles := d.wafer.tiles.map (fun x =>
      (x.1, if x.2.net.jslot = some k then { x.2 with net := { x.2.net with jslot := none, epoch := e } } else x.2)) } }

/-- A table change waits no more for a job that left the wafer. -/
def forgetChange (k : Nat) (d : Dev) : Dev :=
  { d with map := { d.map with change := d.map.change.map (fun c => { c with left := c.left.filter (· != k) }) } }

/-- A job without footprint and lines. -/
def Job.offWafer (j : Job) : Job :=
  { j with phase := .idle, origin := none, holes := [], lines := [], gate0 := false, gates := false, stop := .none
           lost := [] }

/-- A job leaves the wafer: its confirmed writes are committed, the rest is discarded, its tiles and lines are free. -/
def vacate (j : Job) (d : Dev) : Dev :=
  ((forgetChange j.slot (freeTiles j.slot (dropWork j.slot (commitAll j d))))).onJob j.slot Job.offWafer

/-- A job as UNLOAD_JOB with keep leaves it: image, home area, HBM plan and rank table stay; its cap is cleared (R323,
R360). -/
def Job.kept (ceiling now : Nat) (j : Job) : Job :=
  { newJob j.id j.slot ceiling now j.img with ranks := j.ranks, oldRanks := j.oldRanks }

/-! ## RESUME_JOB up to the scan-in -/

/-- A predecessor has been unloaded: a RESUME_JOB for which it was the last is placed in its turn (R293, R322). -/
def predecessorDone (id : Nat) (d : Dev) : Dev :=
  placeQueue 33 { d with jobs := d.jobs.map (fun (j : Job) => { j with preds := j.preds.filter (· != id) }) }

/-! ## UNLOAD_JOB (R323) -/

/-- UNLOAD_JOB's effect on a job that is at rest. -/
def unloadNow (j : Job) (discard : Bool) (req : Option Req) (d : Dev) : Dev :=
  let d := vacate j d
  let d : Dev := if discard then { d with jobs := d.jobs.filter (fun x => x.slot != j.slot) }
    else d.onJob j.slot (Job.kept d.mod.inForce.ceiling d.now)
  match req with
  | some r => finishCmd r 0x44 stOK 0 (le 1 (if discard then 0xFF else 0)) d
  | none => predecessorDone j.id (cmdRecord 3 0x44 stOK 0 j.id d)

/-- A job told to leave: one that runs stops first, one whose stop is not through waits for it (R235, R323). -/
def unload (j : Job) (discard : Bool) (req : Option Req) (d : Dev) : Dev :=
  if j.st = .running ∧ j.stop = .none then
    d.onJob j.slot (fun j => { j.stopped 0 ⟨0, 0⟩ 0 d.now false with unload := some discard, req := req })
  else if j.stop = .accepting then d.onJob j.slot (fun j => { j with unload := some discard, req := req })
  else unloadNow j discard req d

/-- UNLOAD_JOB with keep. -/
def execUnloadJobKeep (r : Req) : State → Out_ :=
  liftAt (boxOk r.tr r.box) (jobRequest r 0x44 true (fun j d => unload j false (some r) d))

/-- UNLOAD_JOB with discard. -/
def execUnloadJobDiscard (r : Req) : State → Out_ :=
  liftAt (boxOk r.tr r.box) (jobRequest r 0x44 true (fun j d => unload j true (some r) d))

/-- RESUME_JOB (R320, R322): the predecessors leave first, and its placement waits for them. -/
def execResumeJob (r : Req) (origin : Option (Nat × Nat)) (pred : List Nat) : State → Out_ :=
  liftAt (boxOk r.tr r.box) (jobRequest r 0x43 true (fun j d =>
    if j.st ≠ .paused then finishCmd r 0x43 stNotPermitted 0 [] d
    else if 31 < pred.length ∨ pred.contains j.id ∨ pred.any (fun id => (d.jobNamed id).isNone) then
      finishCmd r 0x43 stBadArg 0 [] d
    else if pred.any (fun id => match d.jobNamed id with
        | some x => d.jobBusy x
        | none => false) then finishCmd r 0x43 stBusy 0 [] d
    else
      let d := d.onJob j.slot (fun x => { x with req := some r, want := origin, preds := pred.eraseDups, phase := .predecessors })
      (askPlace j.slot d).each pred.eraseDups (fun id d => match d.jobNamed id with
        | some x => unload x false none d
        | none => d)))

/-! ## The stop of a job and its drydown (R234-R238) -/

/-- Every position of a job that still works has seen the crossings that the root has released (R33, R35): a crossing reaches
all positions within nanoseconds, orders before the quiesce ends. -/
def crossSettled (d : Dev) (j : Job) : Bool :=
  (j.places d.map).all (fun p => d.map.idlePos p || j.lost.contains p || d.map.isolated.contains p.field
    || (List.range j.img.nLines).all (fun k =>
      !enrolled (d.tile p) k || decide (j.crossed.get 0 k ≤ (d.tile p).sync.cross.get 0 k)))

/-- JOB_STOP_QUIESCE_END: order 3, the interfaces stop accepting; then the drydown, when an area is named, or the unload
that waited for the stop (R235). -/
def execJobStopQuiesceEnd (j : Nat) : State → Out_ :=
  liftAt (decide (j < 32)) (fun d =>
    match d.job? j with
    | none => d
    | some x =>
      if x.st = .halted ∧ x.stop = .accepting ∧ crossSettled d x then
        (match x.unload with
        | some discard => unloadNow x discard x.req d
        | none => d.onJob j (fun x => { x with stop := if x.area.isSome then .dumping else .closed }))
      else d)

/-- A free event code (log 32). -/
def freeCode (d : Dev) : Nat × Dev := (bits d.free.1.toNat 0 16, d.free.2)

/-- What DRYDOWN returns: records written, truncated, length (R418), as the header of the drydown holds them. -/
def dryPayload (bs : List Byte) : List Byte :=
  le 4 (fieldLe bs 0x2C 4) ++ le 1 (fieldLe bs 6 2 % 2) ++ le 3 0 ++ le 8 (fieldLe bs 0x38 8)

/-- The drydown written: past the confirmation buffers, its completion logged, the request that asked for it
answered. -/
def finishDrydown (j : Job) (area : Nat × Nat) (d : Dev) : Dev :=
  let (bs, d) := dryBytes j area.2 d
  let d : Dev := { d with brim := d.brim.hbmWrite area.1 bs }
  let d := d.onJob j.slot (fun x => { x with stop := .dumped, dumpReq := none })
  let (c, d) := freeCode d
  let d := appendLog c 0 false j.id 0 (fieldLe bs 0x2C 4) 1 d
  match j.dumpReq with
  | some r => finishCmd r 0x50 stOK 0 (dryPayload bs) d
  | none => d

/-- DRYDOWN_COMPLETE (R235-R238). -/
def execDrydownComplete (j : Nat) : State → Out_ :=
  liftAt (decide (j < 32)) (fun d =>
    match d.job? j with
    | none => d
    | some x =>
      match x.area with
      | some a => if x.st = .halted ∧ x.stop = .dumping then finishDrydown x a d else d
      | none => d)

/-- The area a DRYDOWN names; none when it names none that will do (R236, R418, R419). -/
def dryArea (d : Dev) (j : Job) (addr len : Nat) : Option (Nat × Nat) :=
  if addr = 0 ∧ len = 0 then (if j.img.dryd.2 = 0 then none else some j.img.dryd)
  else if !hbmRangeOk addr len || decide (len < dryFixed j.img)
      || d.jobs.any (fun x => x.slot != j.slot && meetsPlan addr len x.img) then none
  else some (addr, len)

/-- A running job stopped by DRYDOWN: trigger 0; the tile and step of a trigger that no tile raised are free values
(R237, log 10). -/
def stopByHost (j : Job) (d : Dev) : Dev :=
  let w := d.free.1.toNat
  let d := d.free.2
  let s := d.free.1.toNat
  let d := d.free.2
  d.onJob j.slot (fun x => { x.stopped 0 ⟨bits w 0 9, bits w 9 9⟩ s d.now false with hostDump := true })

/-- DRYDOWN (R234, R236). -/
def execDrydown (r : Req) (addr len : Nat) : State → Out_ :=
  liftAt (boxOk r.tr r.box) (jobRequest r 0x50 true (fun j d =>
    if (j.st ≠ .running ∧ j.st ≠ .halted) ∨ j.stop = .dumped then finishCmd r 0x50 stNotPermitted 0 [] d
    else match dryArea d j addr len with
      | none => finishCmd r 0x50 stBadArg 0 [] d
      | some a =>
        let d := if j.st = .running then stopByHost j d
          else d.onJob j.slot (fun x => { x with hostDump := true, afterHalt := true
                                                 stop := if x.stop = .closed then .dumping else x.stop })
        d.onJob j.slot (fun x => { x with area := some a, dumpReq := some r })))

end Sys2Proof.Machine
end

