-- ==== Sys2Proof/Machine/Pause.lean ====
section
/-! DEFINITION. Pausing and resuming a job: the boundary wait, the quiesce, the scan-out to the pause area, the scan-in
(R314-R322). -/

namespace Sys2Proof.Machine

/-! ## PAUSE_JOB (R314, R315) -/

/-- Order 1 of R314: every gate of the job closes. -/
def Job.shutGates (j : Job) : Job := { j with phase := .pauseQuiesce, gate0 := false, gates := false }

/-- PAUSE_JOB: immediate mode closes all gates, boundary mode that of line 0. -/
def execPauseJob (r : Req) (mode : Nat) (succ : List Nat) : State → Out_ :=
  liftAt (boxOk r.tr r.box) (jobRequest r 0x42 true (fun j d =>
    if j.st ≠ .running then finishCmd r 0x42 stNotPermitted 0 [] d
    else if 1 < mode ∨ 31 < succ.length then finishCmd r 0x42 stBadArg 0 [] d
    else d.onJob j.slot (fun j =>
      let j := { j with req := some r, preGates := j.gateList, succ := succ, outcomes := succ.map (fun _ => none) }
      if mode = 0 then j.shutGates else { j with phase := .pauseBoundary, gate0 := false })))

/-- Every tile of a job has arrived on line 0, and none has a packet that awaits acknowledgement (R315). -/
def atBoundary (d : Dev) (j : Job) : Bool :=
  (j.places d.map).all (fun p => lineReady d 0 (j.crossed.get 0 0) p && (d.tile p).net.outs.isEmpty
    && (d.tile p).net.unsent.isEmpty)

/-- A job in the boundary wait goes on at order 1 of R314. -/
def leaveBoundary (k : Nat) (ok : Dev → Job → Bool) (d : Dev) : Dev :=
  match d.job? k with
  | some j => if j.phase = .pauseBoundary ∧ ok d j then d.onJob k Job.shutGates else d
  | none => d

/-- BOUNDARY_PAUSE_READY (R315). -/
def execBoundaryPauseReady (j : Nat) : State → Out_ := liftAt (decide (j < 32)) (leaveBoundary j atBoundary)

/-- BOUNDARY_PAUSE_TIMEOUT: the pause goes on in immediate mode (R315). -/
def execBoundaryPauseTimeout (j : Nat) : State → Out_ := liftAt (decide (j < 32)) (leaveBoundary j (fun _ _ => true))

/-! ## The quiesce (R314 orders 2 to 5) -/

/-- A packet bound for a tile of a job: it carries the job's slot and heads for no port tile. -/
def boundFor (k : Nat) (f : Flight) : Bool :=
  f.pkt.jslot == k && (match f.pkt.dst with
    | .port _ => false
    | _ => true)

/-- No packet bound for a tile of the job remains, no descriptor of it runs (R314 order 2, R340 order 2). -/
def quiet (d : Dev) (j : Job) : Bool :=
  d.wafer.flights.all (fun f => !boundFor j.slot f) && !d.brim.runs.any (fun x => x.2.j == j.slot)

/-- The tiles of a job are at rest: drains ended, records and copies written, crossings seen (R99, R233, R314). -/
def settled (d : Dev) (j : Job) : Bool :=
  (j.places d.map).all (fun p =>
    let t := d.tile p
    t.tensor.drains.isEmpty && !t.check.recording && t.check.copying.isEmpty) && crossSettled d j

/-- Bytes of the bulk records of a job (R319). -/
def bulkTotal (d : Dev) (j : Job) : Nat := ((j.places d.map).map (fun p => bulkSize (d.tile p))).sum

/-- A held write as the pause area's log has it: its step, source, port tile, length and address, then its bytes (R314 order 5,
R317; the layout is the model's, log 60). -/
def logEntry (x : Nat × HeldWrite) : List Byte :=
  let (a, bs) : Nat × List Byte := match x.2.kind with
    | .hbm a bs => (a, bs)
    | .packet k => (0, packetBytes k)
  le 4 x.2.step ++ le 4 (rcWord x.2.src) ++ le 4 x.1 ++ le 4 bs.length ++ le 8 a ++ le 8 0 ++ padTo (roundUp bs.length 16) bs

/-- The held writes of a job, with their port tiles, in acceptance order. -/
def heldLog (d : Dev) (k : Nat) : List (Nat × HeldWrite) :=
  d.brim.ports.flatMap (fun x => (x.2.held.filter (fun h => h.j == k)).map (fun h => (x.1, h)))

/-- The held writes of a job taken out of the port tiles. -/
def takeHeld (k : Nat) (d : Dev) : Dev :=
  { d with brim := { d.brim with ports := d.brim.ports.map (fun x =>
      (x.1, { x.2 with held := x.2.held.filter (fun h => h.j != k) })) } }

/-- The gates as they stood before the pause (R316). -/
def Job.reopen (j : Job) : Job :=
  { j with phase := .idle, req := none, gate0 := j.preGates.getD 0 false, gates := true, succ := [], outcomes := [] }

/-- The held writes of a job move into its log (R314 order 5). -/
def saveHeld (k : Nat) (d : Dev) : Dev :=
  let log := heldLog d k
  takeHeld k (d.onJob k (fun j => { j with phase := .pauseScanOut
                                           saved := some { tiles := [], log := log, links := [], bytes := 0 } }))

/-- PAUSE_QUIESCE_DONE (R314 orders 2 to 5, R316). The held-write log must find room behind the bulk records (log 60). -/
def execPauseQuiesceDone (j : Nat) : State → Out_ :=
  liftAt (decide (j < 32)) (fun d =>
    match d.job? j with
    | none => d
    | some x =>
      if x.phase ≠ .pauseQuiesce ∨ !quiet d x ∨ !settled d x then d
      else if x.img.pause.2 < pauseFixed x.img + bulkTotal d x + ((heldLog d j).map (fun y => (logEntry y).length)).sum then
        (match x.req with
        | some r => finishCmd r 0x42 stRefused 0x1007 [] (d.onJob j Job.reopen)
        | none => d.onJob j Job.reopen)
      else saveHeld j d)

/-! ## The pause area (R317) -/

/-- Where each tile's fixed part begins, from the start of the area. -/
def fixedOffsets : List RC → Nat → List (RC × Nat)
  | [], _ => []
  | c :: r, o => (c, o) :: fixedOffsets r (o + 0xA000 + (kindMem (rcKind c.rx)).2)

/-- The fixed parts of an image's tiles in the order of R237. -/
def Image.fixedParts (i : Image) : List (RC × Nat) := fixedOffsets i.ordered (64 + 16 * i.members.length)

/-- The header and the directory: their fields in the order of R317 (log 60). -/
def pauseHeader (j : Job) (total : Nat) : List Byte :=
  padTo 64 ([0x50, 0x41, 0x55, 0x53] ++ le 4 j.id ++ le 4 (j.crossed.get 0 0) ++ le 4 j.conf ++ le 8 64 ++ le 8 total)
    ++ j.img.fixedParts.flatMap (fun (c, o) => le 4 (rcWord c + 2 ^ 18 * rcKind c.rx) ++ le 8 o
      ++ le 4 (0xA000 + (kindMem (rcKind c.rx)).2))

/-- A tile's fixed part: its state image and its memory (R317, R318). -/
def writeFixed (j : Job) (x : RC × Nat) (t : Tile) (d : Dev) : Dev :=
  match j.posOf d.map x.1 with
  | none => d
  | some p =>
    let m := kindMem p.kind
    let (img, e) := imageBytes (.whole p.kind) j p (d.setTile p t)
    let a := j.img.pause.1 + x.2
    { d with freeCtr := e.freeCtr, brim := (d.brim.hbmWrite a img).hbmWrite (a + 0xA000) (t.mem.readN m.1 m.2) }

/-- The bulk records of tiles, one after another. -/
def allBulk : List Tile → Dev → List Byte × Dev
  | [], d => ([], d)
  | t :: r, d =>
    let (a, d) := bulkBytes t d
    let (b, d) := allBulk r d
    (a ++ b, d)

/-- The pause area written: header, directory, fixed parts, bulk records, held-write log (R317). It answers the bytes saved. -/
def writePause (j : Job) (tiles : List (RC × Tile)) (log : List (Nat × HeldWrite)) (d : Dev) : Nat × Dev :=
  let here := j.img.fixedParts.filterMap (fun x => (tiles.find? (fun y => y.1 == x.1)).map (fun y => (x, y.2)))
  let d := d.each here (fun x d => writeFixed j x.1 x.2 d)
  let (bulk, d) := allBulk (here.map (·.2)) d
  let at_ := pauseFixed j.img + bulk.length
  let held := log.flatMap logEntry
  (at_ + held.length, { d with brim := (((d.brim.hbmWrite j.img.pause.1 (pauseHeader j at_)).hbmWrite
    (j.img.pause.1 + pauseFixed j.img) bulk).hbmWrite (j.img.pause.1 + at_) held) })

/-- A tile's memory as its fixed part holds it. -/
def readFixed (d : Dev) (base : Nat) (x : RC × Nat) : Mem :=
  let m := kindMem (rcKind x.1.rx)
  Mem.writeN [] m.1 (d.brim.hbmRead (base + x.2 + 0xA000) m.2)

/-- The words of a tile's fixed part that lie in lines which cannot be read (R276). -/
def lostWords (d : Dev) (base : Nat) (x : RC × Nat) : List Nat :=
  let m := kindMem (rcKind x.1.rx)
  if d.brim.poisoned.isEmpty then []
  else ((List.range (m.2 / 8)).filter (fun w => poisonedIn d (base + x.2 + 0xA000 + 8 * w) 8)).map (· + m.1 / 8)

/-- The state images, the bulk records or the held-write log of a paused job lie in a line that cannot be read. -/
def imageLost (d : Dev) (j : Job) (s : Saved) : Bool :=
  poisonedIn d j.img.pause.1 (64 + 16 * j.img.members.length)
    || j.img.fixedParts.any (fun x => poisonedIn d (j.img.pause.1 + x.2) 0xA000)
    || poisonedIn d (j.img.pause.1 + pauseFixed j.img) (s.bytes - pauseFixed j.img)

/-- The tiles of a job scanned out to its pause area: state kept, memories and the rest written; single-bit errors are corrected
on the way, words with a double-bit error stay so (R314 order 6, R316). -/
def scanOut (j : Job) (d : Dev) : Dev :=
  let tiles := j.img.fixedParts.filterMap (fun x => (j.posOf d.map x.1).map (fun p => (x.1, (d.tile p).scrub (d.tile p).weak)))
  let links := d.wafer.links.filter (fun l => l.j == j.slot)
  let log := match j.saved with
    | some s => s.log
    | none => []
  let r := writePause j tiles log d
  let s : Saved := { tiles := tiles.map (fun x => (x.1, x.2.unplaced j d.map)), log := log, links := links, bytes := r.1 }
  r.2.onJob j.slot (fun x => { x with saved := some s })

/-- The footprint and the lines of a job freed, its state being saved (R314 order 7). -/
def leaveSaved (k : Nat) (d : Dev) : Dev :=
  let d : Dev := { d with wafer := { d.wafer with links := d.wafer.links.filter (fun l => l.j != k) } }
  (forgetChange k (freeTiles k d)).onJob k Job.offWafer

/-- PAUSE_SCAN_OUT_DONE: the job is PAUSED, its record appended, the successors start (R314, R322, R419). -/
def pauseDone (j : Job) (d : Dev) : Dev :=
  let d := leaveSaved j.slot (scanOut j d)
  let now := d.now
  let seq := d.host.nextSeq
  let d := d.onJob j.slot (fun x => { x with st := .paused, tChange := now, pauseSeq := seq })
  match j.req with
  | none => d
  | some r => answerPause j.slot ((cmdRecord (trCode r.tr) 0x42 stOK 0 j.id d).each j.succ startSuccessor)

/-- PAUSE_SCAN_OUT_DONE. -/
def execPauseScanOutDone (j : Nat) : State → Out_ :=
  liftAt (decide (j < 32)) (fun d =>
    match d.job? j with
    | some x => if x.phase = .pauseScanOut then pauseDone x d else d
    | none => d)

/-! ## The scan-in (R320, R321) -/

/-- A tile as it comes back: its state image on its position, with its addresses, the lines, the epoch, the egress and the rank
now in force, and its memory from the pause area, where what cannot be read is a word with a double-bit error (R276, R316,
R320, R321). -/
def scanTile (d : Dev) (j : Job) (x : RC × Nat) (t : Tile) : Tile :=
  let t := t.replaced j d
  { t with
    mem := readFixed d j.img.pause.1 x
    bad := (t.bad ++ lostWords d j.img.pause.1 x).eraseDups
    rank := ownRank j
    sync := { t.sync with map := j.lines.zipIdx.foldl (fun (m : Tab (Option Nat)) x => Tab.set m x.2 (some x.1)) [] }
    net := { t.net with jslot := some j.slot, epoch := d.map.epoch, egress := egressOf j x.1.ry } }

/-- A held write returns to its port tile: an HBM write to the one that serves it, a fabric packet to the port that the rank
table now names, one for the host to its tether port; a packet's source is where its tile now lies (R320 order 3, R321). -/
def returnHeld (j : Job) (x : Nat × HeldWrite) (d : Dev) : Dev :=
  match x.2.kind with
  | .hbm a _ => holdWrite (portOf a) x.2 d
  | .packet k =>
    let k := { k with src := match k.src with
      | .phys _ => (j.posOf d.map x.2.src).elim k.src Addr.phys
      | a => a }
    let pid := if 144 ≤ x.1 then x.1
      else match (j.ranks.map (fun t => t.find k.rank) : Option RankHit) with
        | some (RankHit.port n) => portId (tetherChoice d n)
        | _ => x.1
    holdWrite pid { x.2 with kind := .packet k } d

/-- Orders 2 and 3 of R320. -/
def scanIn (j : Job) (s : Saved) (d : Dev) : Dev :=
  let new := j.img.fixedParts.filterMap (fun x =>
    match s.tiles.find? (fun y => y.1 == x.1), j.posOf d.map x.1 with
    | some (_, t), some p => some (p, scanTile d j x t)
    | _, _ => none)
  let d := d.each new (fun x d => d.setTile x.1 x.2)
  let d : Dev := { d with wafer := { d.wafer with links := d.wafer.links ++ s.links } }
  d.each s.log (returnHeld j)

/-- Order 4 of R320: gates of lines other than 0 open; line 0 is ready when its step is confirmed. -/
def Job.resumeNow (now : Nat) (j : Job) : Job :=
  { j with
    phase := .idle, gates := true, gate0 := false, req := none, want := none, saved := none
    energy := { j.energy with readyAt := if j.conf = j.crossed.get 0 0 then some now else none } }

/-- A RESUME_JOB whose saved state cannot be read: the job stays PAUSED, the command is refused with 0x0402 (log 177). -/
def resumeFails (j : Job) (d : Dev) : Dev :=
  let d := (freeTiles j.slot d).onJob j.slot (fun x => { x.offWafer with st := .paused, req := none, want := none })
  match j.req with
  | some r => finishCmd r 0x43 stRefused 0x0402 [] d
  | none => d

/-- RESUME_SCAN_IN_DONE (R320, R321): a tile lost meanwhile waits for its spare to stand in the tables (log 168). -/
def execResumeScanInDone (j : Nat) : State → Out_ :=
  liftAt (decide (j < 32)) (fun d =>
    match d.job? j with
    | none => d
    | some x =>
      match x.phase, x.saved with
      | .resuming, some s =>
        if !x.mapReady d || !x.fieldsUp d then d
        else if imageLost d x s then resumeFails x d
        else
        let d := scanIn x s d
        let d := d.onJob j (Job.resumeNow d.now)
        (match x.req with
        | some r => finishCmd r 0x43 stOK 0 (placePayload x) d
        | none => d)
      | _, _ => d)

end Sys2Proof.Machine
end

