-- ==== Sys2Proof/Machine/Recovery.lean ====
section
/-! DEFINITION. Recoveries: the quiesce, the restore of a step, takeover, re-placement, lost tiles and fields, field
tests (R19, R36, R336-R348). -/

namespace Sys2Proof.Machine

/-- A job whose scan-out a failure interrupts gets its held writes back into the port tiles (R316). -/
def unsave (k : Nat) (d : Dev) : Dev :=
  match d.job? k with
  | some j =>
    match j.phase, j.saved with
    | .pauseScanOut, some s => (d.onJob k (fun j => { j with saved := none })).each s.log (returnHeld j)
    | _, _ => d
  | none => d

/-! ## Polls (R343) -/

/-- A tile in the footprint of a running job, Compute or Function, not dead. -/
def polled (d : Dev) (p : Pos) : Bool :=
  p.kind != 2 && !d.map.isDead p && !d.map.isolated.contains p.field
    && d.jobs.any (fun j => j.st == .running && (match j.origin with
      | some o => inFootprint j.img o p
      | none => false))

/-- A START_JOB or RESUME_JOB under way is placed again: none of its tiles has run (log 61). -/
def placeAnew (j : Job) (d : Dev) : Dev :=
  let d := (freeTiles j.slot d).onJob j.slot (fun x => { x.offWafer with st := if j.phase = .starting then .loaded else .paused })
  let x := match d.job? j.slot with
    | some x => x
    | none => j
  placeOne (j.phase == .starting) { x with want := none } d

/-- The running job that a position serves: the one its tile belongs to, or the one whose region group its group serves
(R306). -/
def Dev.usedBy (d : Dev) (p : Pos) : Option Job :=
  match d.jobAt p with
  | some j => some j
  | none => d.jobs.find? (fun j => j.st == .running && (match j.origin with
      | some o => inFootprint j.img o p && !unserved j.holes j.img o p
      | none => false))

/-- A job needs a position: any Compute slot of a group that serves it, since a takeover shifts the slots of the group, and
the Store and Function tiles it uses (R343, R344). The spare is needed by none. -/
def Job.needs (j : Job) (m : MapSt) (p : Pos) : Bool :=
  if p.kind = 0 then !m.isHole p.grp && cIndex (p.px % 16) != m.spare p.grp else (j.places m).contains p

/-- The job takes a place again: one that starts or resumes as at order 1 of its command, since none of its tiles has run
(log 61); one that a re-placement brings back, whose state is in its pause area, from order 2 of R344. -/
def placeElse (j : Job) (d : Dev) : Dev :=
  if j.phase = .rpResume then
    startChange { jobs := [j.slot] } ((freeTiles j.slot d).onJob j.slot (fun x => { x with phase := .rpTable }))
  else placeAnew j d

/-- A tile of a job whose tiles have not begun is lost: the group's spare takes the slot before the tiles begin, or the job
takes another place (R343, R344, log 168). -/
def loseBlank (j : Job) (p : Pos) (d : Dev) : Dev :=
  let spare := spareWorks d.map p
  let d := if p.kind = 0 ∧ !spare then appendLog 0x0504 0 false j.id (rcWord (d.tile p).rc) 0 1 d else d
  let d := condemn p d
  if spare then startChange {} d else placeElse j d

/-- What the loss of a position does (R343, R344): a job that needs it is repaired; where none does, the tile is condemned and
its group follows at the next map change (R348). A job whose tiles are saved needs no position. -/
def losePos (p : Pos) (code : Nat) (d : Dev) : Dev :=
  match d.usedBy p with
  | none => condemn p d
  | some j =>
    if !j.needs d.map p then condemn p d
    else if j.phase = .starting ∨ j.phase = .resuming ∨ j.phase = .rpResume then loseBlank j p d
    else if j.phase.recovering ∧ j.saved.isSome then condemn p d
    else loseTile j p code (unsave j.slot d)

/-- TILE_POLL (R343): the second poll in a row without an answer raises 0x0501. -/
def execTilePoll (t : Pos) (answered : Bool) : State → Out_ :=
  liftAt t.ok (fun d =>
    if !polled d t then d
    else
      let n := if answered then 0 else d.map.missed.get 0 t.ix + 1
      let d : Dev := { d with map := { d.map with missed := d.map.missed.set t.ix n } }
      if n ≠ 2 then d else losePos t 0x0501 (eventTile t 0x0501 0 d))

/-! ## The quiesce of a recovery (R340 orders 2 and 3) -/

/-- Engines abandon the runs of a job. -/
def dropRuns (k : Nat) (d : Dev) : Dev :=
  let gone : List Nat := (d.brim.runs.filter (fun x => x.2.j == k)).map (·.2.id)
  { d with brim := { d.brim with
      runs := d.brim.runs.filter (fun x => x.2.j != k)
      ports := d.brim.ports.map (fun x => (x.1, { x.2 with outs := x.2.outs.filter (fun o => !gone.contains o.2.1) })) } }

/-- Held writes of a job's steps from `s` on are discarded, and with them its packets that are still on their way to a
port that leads off the device (R287, R321). -/
def discardHeld (k s : Nat) (d : Dev) : Dev :=
  { d with
    brim := { d.brim with ports := d.brim.ports.map (fun x =>
      (x.1, { x.2 with held := x.2.held.filter (fun h => h.j != k || decide (h.step < s)) })) }
    wafer := { d.wafer with flights := d.wafer.flights.filter (fun f =>
      !(f.pkt.jslot == k && f.transit.isNone && (match f.pkt.src with
        | .phys _ => true
        | _ => false))) } }

/-- No packet bound for a tile of the job remains. -/
def noneBound (k : Nat) (d : Dev) : Bool := d.wafer.flights.all (fun f => !boundFor k f)

/-- A recovery goes on after its quiesce: a replay restores; a takeover and a re-placement condemn the lost tiles and
write new tables (R343 orders 2 and 3, R344 order 2). A tile lost with its field is not condemned. -/
def afterQuiesce (j : Job) (d : Dev) : Dev :=
  let dead : List Pos := j.lost.filter (fun p => !d.map.isolated.contains p.field)
  let change : Change := { jobs := [j.slot] }
  if j.rbWhy = 0 then d.onJob j.slot (fun x => { x with phase := .rbRestore })
  else startChange change ((d.each dead condemn).onJob j.slot (fun x =>
    { x with phase := if j.rbWhy = 1 then .tkTable else .rpTable }))

/-- Every tile that still works has written its record of the step a rollback returns to: one that has not has still to
see the crossing or to write the record, which the quiesce waits for (R334, R339, log 169). -/
def recordsIn (d : Dev) (j : Job) : Bool :=
  j.img.members.all (fun c => (boundEntry j.img c).isNone || (j.snap? c j.rbStep).isSome || (match j.posOf d.map c with
    | some p => j.lost.contains p || d.map.isolated.contains p.field
    | none => true))

/-- ROLLBACK_QUIESCE_DONE (R340, R342, R343, R344). -/
def execRollbackQuiesceDone (j : Nat) : State → Out_ :=
  liftAt (decide (j < 32)) (fun d =>
    match d.job? j with
    | none => d
    | some x =>
      if x.phase = .rbQuiesce ∧ noneBound j d ∧ recordsIn d x then
        afterQuiesce x (discardHeld j x.rbStep (dropRuns j d))
      else d)

/-! ## A tile at the start of a step (R336, R337, R340 order 4) -/

/-- The step a rollback returns to: the earliest that the failures touch (R339, R342). -/
def rollStep (j : Job) : Nat := j.rbStep

/-- Retained ranges of a tile that come back from the copies of a step: those of a copy still under way are in place,
write-protected (R334). -/
def rangesBack (j : Job) (c : RC) (cur : Tile) (s : Nat) : List (RetRec × Nat) :=
  j.img.rets.zipIdx.filter (fun x => x.1.rc == c && x.1.len != 0
    && !(cur.step == s && cur.check.copying.contains x.2))

/-- Constant segments and retained ranges put into a tile's memory; a word that is bad in the copy is bad in the range
(R336), and a constant whose home record cannot be read is (log 177). -/
def restoreMemory (d : Dev) (j : Job) (c : RC) (cur : Tile) (s : Nat) (t : Tile) : Tile :=
  let t := { t with mem := cur.mem, bad := cur.bad, weak := cur.weak }
  let t := (homeBytes d j.img (j.recOf c)).foldl (fun (t : Tile) x =>
    let t := t.overwrite x.1 x.2
    if homeLost d j.img c then { t with bad := t.bad ++ wordsOf x.1 x.2.length } else t) t
  (rangesBack j c cur s).foldl (fun t x =>
    match j.posOf d.map x.1.host with
    | none => t
    | some q =>
      let h := d.tile q
      let src := x.1.hostOff + s % 2 * x.1.len
      let ws := wordsOf x.1.off x.1.len
      let t := t.overwrite x.1.off (h.mem.readN src x.1.len)
      { t with bad := t.bad ++ ws.filter (fun w => h.bad.contains (w + src / 8 - x.1.off / 8)) }) t

/-- A tile restored to the start of a step, on a position whose tile is `cur`. A tile without boundary slot is reset. -/
def restoredTile (d : Dev) (j : Job) (s : Nat) (c : RC) (cur : Tile) : Tile :=
  let t := match j.snap? c s with
    | some b => b.tile.replaced j d
    | none => { freshTile d j c with step := s }
  let t := { t with
    prog := cur.prog
    rank := ownRank j
    net := { t.net with epoch := d.map.epoch, jslot := some j.slot, egress := egressOf j c.ry }
    dmaqs := t.dmaqs.map (fun q => { q with ring := q.ring.map (fun e => { e with started := false }) })
    check := { cur.check with
      replays := cur.check.replays + 1, recording := false
      copying := if cur.step = s then cur.check.copying else [] } }
  (restoreMemory d j c cur s t).writeFifos

/-- Neighbour-link tokens that come back with the records: those their consumer's record does not hold yet (R335). -/
def linksBack (j : Job) (s : Nat) (tiles : List (RC × Tile)) : List NTok :=
  (j.bounds.filter (fun b => b.step == s)).flatMap (fun b => b.links.filter (fun l =>
    match j.chan l.ci with
    | none => false
    | some r => match tiles.find? (fun x => x.1 == r.cons) with
      | some (_, t) => decide ((l.num + 4096 - (t.chan r.ch).next) % 4096 < 2048)
      | none => false))

/-- The credit of a neighbour channel's producer after a restore: what neither the consumer nor the link holds. -/
def linkCredits (d : Dev) (j : Job) (links : List NTok) (tiles : List (RC × Tile)) (x : RC × Tile) : RC × Tile :=
  (x.1, j.img.chans.zipIdx.foldl (fun t (r, ci) =>
    if r.prod = x.1 ∧ chanPath d.map j r = .neighbour then
      (match tiles.find? (fun y => y.1 == r.cons) with
      | some (_, u) => t.setPort r.port { t.port r.port with
          credit := r.depth - (links.filter (fun l => l.ci == ci)).length - (u.chan r.ch).toks.length }
      | none => t)
    else t) x.2)

/-- The crossings of a job's lines that its restored tiles have seen. -/
def crossedBack (j : Job) (s : Nat) (tiles : List (RC × Tile)) : Tab Nat :=
  (List.range j.img.nLines).map (fun k =>
    (k, if k = 0 then s else tiles.foldl (fun m x => max m (x.2.sync.cross.get 0 k)) 0))

/-- Every tile of a job as a rollback to step `s` restores it; `cur` answers the tile whose memory it builds on. -/
def rollTiles (d : Dev) (j : Job) (s : Nat) (cur : RC → Tile) : List (RC × Tile) × List NTok :=
  let tiles := j.img.ordered.map (fun c => (c, restoredTile d j s c (cur c)))
  let links := linksBack j s tiles
  (tiles.map (linkCredits d j links tiles), links)

/-- A fresh tile for a slot, with the count of 0x0101 that the slot's tile before it held: the third on the slot halts the
job although another tile raises it (R341, R349). -/
def freshSlot (d : Dev) (j : Job) (c : RC) : Tile :=
  let t := freshTile d j c
  match d.wafer.tiles.find? (fun x => x.2.rc == c && (x.2.net.jslot == some j.slot || j.lost.contains (posOf x.1))) with
  | some (_, o) => { t with check := { t.check with failStep := o.check.failStep, failCnt := o.check.failCnt } }
  | none => t

/-- The tile that serves a region coordinate. -/
def servingTile (d : Dev) (j : Job) (c : RC) : Tile :=
  match j.posOf d.map c with
  | some p => d.tile p
  | none => freshTile d j c

/-- The tile that serves a region coordinate now, or a fresh one where that tile is lost. -/
def tileOrFresh (d : Dev) (j : Job) (c : RC) : Tile :=
  match j.posOf d.map c with
  | some p =>
    let t := d.tile p
    if t.net.jslot = some j.slot ∧ t.rc = c ∧ !d.map.isolated.contains p.field then t else freshSlot d j c
  | none => freshSlot d j c

/-- The ingress log of a job delivered again, attempt raised to 1 where it was 0 (R339). -/
def redeliver (j : Job) (d : Dev) : Dev :=
  d.each d.brim.ports (fun x d =>
    d.each (x.2.ingress.filter (fun e => e.1 == j.slot)) (fun e d =>
      deliverHere x.1 j { e.2.1 with attempt := max 1 e.2.1.attempt, epoch := d.map.epoch } d))

/-- A job after a rollback: gates of lines other than 0 open, line 0 gated (R331, R340 order 5). A pause that the
recovery interrupted starts again (R316). -/
def Job.rolled (s now : Nat) (crossed : Tab Nat) (j : Job) : Job :=
  let j := { j with
    phase := .idle, crossed := crossed, gate0 := false, gates := true, lost := [], rbWhy := 0, pauseAfter := false
    rollbacks := j.rollbacks + 1
    energy := { j.energy with readyAt := if j.conf = s then some now else none } }
  j

/-- The pause restarts at order 1. -/
def restartPause (again : Bool) (k : Nat) (d : Dev) : Dev := if again then d.onJob k Job.shutGates else d

/-- The tasks without operands fire again when the job is back at its first step (R161). -/
def refire (j : Job) (s : Nat) (d : Dev) : Dev := if s = 0 then fireIdleTasks j d else d

/-- ROLLBACK_RESTORE_DONE: orders 4 and 5 of R340; a takeover is logged (R343 order 5). -/
def restoreJob (j : Job) (d : Dev) : Dev :=
  let s := rollStep j
  let (tiles, links) := rollTiles d j s (servingTile d j)
  let d := d.each tiles (fun x d => match j.posOf d.map x.1 with
    | some p => d.setTile p x.2
    | none => d)
  let d : Dev := { d with wafer := { d.wafer with links := d.wafer.links.filter (fun l => l.j != j.slot) ++ links } }
  let d := d.onJob j.slot (Job.rolled s d.now (crossedBack j s tiles))
  let d := refire j s d
  let d := redeliver j d
  let d := if j.rbWhy = 1 then d.each j.lost.eraseDups (fun p d => appendLog 0x0502 1 false j.id (rcWord (d.tile p).rc) 0 1 d) else d
  restartPause j.pauseAfter j.slot d

/-- ROLLBACK_RESTORE_DONE. -/
def execRollbackRestoreDone (j : Nat) : State → Out_ :=
  liftAt (decide (j < 32)) (fun d =>
    match d.job? j with
    | some x => if x.phase = .rbRestore then restoreJob x d else d
    | none => d)

/-! ## Takeover (R343) -/

/-- TAKEOVER_LOAD_DONE: each tile that took a new slot loads the home copy of the slot; the rollback follows. A home record
that cannot be read ends the job with 0x0402 (R276, log 177). -/
def execTakeoverLoadDone (j : Nat) : State → Out_ :=
  liftAt (decide (j < 32)) (fun d =>
    match d.job? j with
    | none => d
    | some x =>
      if x.phase ≠ .tkLoad then d
      else
        let new : List (RC × Pos) := x.img.members.filterMap (fun c => match x.posOf d.map c with
          | some p => if (d.tile p).net.jslot = some j ∧ (d.tile p).rc = c then none else some (c, p)
          | none => none)
        match new.find? (fun y => homeLost d x.img y.1) with
        | some (_, p) => faultTile p 0x0402 0 {} ((d.onTile p (fun t =>
            { t with rc := (x.regionOf d.map p).getD t.rc, net := { t.net with jslot := some j } })).onJob j (fun x => { x with phase := .rbQuiesce }))
        | none => (d.each (new.map (fun y => (y.2, freshSlot d x y.1))) (fun y d => d.setTile y.1 y.2)).onJob j
            (fun x => { x with phase := .rbRestore }))

/-! ## Re-placement (R344) -/

/-- The restored tiles of a job written to its pause area. -/
def saveRolled (j : Job) (d : Dev) : Dev :=
  let s := rollStep j
  let (tiles, links) := rollTiles d j s (tileOrFresh d j)
  let j' := { j with crossed := crossedBack j s tiles }
  let r := writePause j' tiles [] d
  r.2.onJob j.slot (fun x => { x with
    crossed := crossedBack j s tiles
    saved := some { tiles := tiles.map (fun y => (y.1, y.2.unplaced j d.map)), log := [], links := links, bytes := r.1 } })

/-- A job whose tiles are saved placed at its old origin, else in the order of R308; PAUSED with 0x1001 where none
passes (R344 order 4). -/
def placeAgain (j : Job) (d : Dev) : Dev :=
  let d := leaveSaved j.slot d
  let x := match d.job? j.slot with
    | some x => x
    | none => j
  let o := match j.origin with
    | some o => if originOk d x o then some o else pickOrigin d x none
    | none => pickOrigin d x none
  match o with
  | some o =>
    (occupy x (d.freeLines.take x.img.nLines) o .rpResume x.req d).onJob j.slot (fun y => { y with pauseAfter := j.pauseAfter })
  | none =>
    let now := d.now
    let seq := d.host.nextSeq + 1
    let d := d.onJob j.slot (fun y => { y with st := .paused, tChange := now, pauseAfter := false, rbWhy := 0, pauseSeq := seq })
    let d := appendLog 0x1001 0 false j.id 0 0 1 d
    match x.req with
    | some r => answerPause j.slot ((cmdRecord (trCode r.tr) 0x42 stOK 0 j.id d).each x.succ startSuccessor)
    | none => d

/-- REPLACEMENT_SCAN_OUT_DONE (R344 orders 3 and 4). -/
def execReplacementScanOutDone (j : Nat) : State → Out_ :=
  liftAt (decide (j < 32)) (fun d =>
    match d.job? j with
    | some x =>
      if x.phase = .rpScanOut then placeAgain x (if x.saved.isSome then d else saveRolled x d) else d
    | none => d)

/-- REPLACEMENT_RESUME_DONE: orders 2 to 5 of R320 on the new footprint, with the ingress log delivered again (R339). -/
def execReplacementResumeDone (j : Nat) : State → Out_ :=
  liftAt (decide (j < 32)) (fun d =>
    match d.job? j with
    | none => d
    | some x =>
      match x.phase, x.saved with
      | .rpResume, some s =>
        if !x.mapReady d || !x.fieldsUp d then d
        else
        let d := scanIn x s d
        let d := d.onJob j (fun y => { Job.rolled (y.crossed.get 0 0) d.now y.crossed y with saved := none })
        let d := refire x (x.crossed.get 0 0) d
        restartPause x.pauseAfter j (redeliver x d)
      | _, _ => d)

/-! ## Isolation of a field (R36, R345, R346) -/

/-- A job is field-safe: every tile has its host in another field. -/
def fieldSafe (m : MapSt) (j : Job) : Bool :=
  j.img.rets.all (fun r => match j.posOf m r.rc, j.posOf m r.host with
    | some p, some q => p.field != q.field
    | _, _ => true)

/-- A job can be re-placed after the loss of a field: it is field-safe and its hosts hold what it needs; a job whose state is
in its pause area needs none. -/
def survives (d : Dev) (j : Job) (f : Nat) : Bool :=
  let ps := tilesIn d.map j f
  j.st == .running && (j.phase == .rpResume
    || (fieldSafe d.map j && hostsWork d.map j (j.lost ++ ps) && recordsKept d j ps))

/-- What the isolation of a field does to a job with tiles in it (R344, R345). A job whose tiles are saved and not placed
again has none in it. -/
def hitByField (f code : Nat) (j : Job) (d : Dev) : Dev :=
  let ps := tilesIn d.map j f
  if j.phase = .starting ∨ j.phase = .resuming ∨ j.phase = .rpResume then placeElse j d
  else if j.phase.recovering ∧ j.saved.isSome then d
  else if survives d j f then startRecovery j.slot 2 j.conf ps (unsave j.slot d)
  else if j.st = .running then
    (stopJob j.slot code (d.tile (ps.headD ⟨0, 0⟩)).rc (d.tile (ps.headD ⟨0, 0⟩)).step true (unsave j.slot d)).onJob j.slot
      (fun x => { x with lost := j.lost ++ ps })
  else d.onJob j.slot (fun x => { x with lost := x.lost ++ ps })

/-- A packet lies in a field (R27). -/
def Flight.inField (f : Nat) (x : Flight) : Bool :=
  match x.place with
  | .router p _ => p.field == f
  | .dest p => p.field == f
  | .own p => p.field == f
  | .port _ => false

/-- A field's supply is isolated: its routers stop with what they hold, the timers of the device hold, new tables are
built around it (R27, R36, R345, R346, R365). -/
def isolateField (f code : Nat) (d : Dev) : Dev :=
  if d.map.isolated.contains f then d
  else
    let x := d.energy.fields.get {} f
    let d : Dev := { d with
      map := { d.map with isolated := d.map.isolated ++ [f], holdTimers := true }
      energy := { d.energy with fields := d.energy.fields.set f { x with
        powered := false, volt := 0, target := 0, duty := 8, suspendedNow := false, thermal := false } }
      wafer := { d.wafer with flights := d.wafer.flights.filter (fun y => !y.inField f) } }
    let hit := d.jobs.filter (fun j => j.onWafer && !(tilesIn d.map j f).isEmpty)
    let halts := hit.any (fun j => j.st == .running && (((hitByField f code j d).job? j.slot).map (·.st) == some .halted))
    let d := appendLog code 4 halts 0 (fieldWord f) 0 1 d
    startChange { isolation := true } (d.each hit (hitByField f code))

/-- FIELD_SHORT (R345, R456): the standby domain keeps the field isolated until the input's power cycle ends. -/
def execFieldShort (f : Nat) : State → Out_ :=
  liftAt (decide (f < 48)) (fun d =>
    let x := d.energy.fields.get {} f
    if !x.powered then d
    else isolateField f 0x0503 { d with
      mod := { d.mod with shortSet := d.mod.shortSet.filter (· != f) ++ [f] } })

/-! ## Field tests (R347, R348, R350) -/

/-- A tile that no work uses, and that no owner holds (R347, R350): every job whose footprint holds it has crossed line 0
since it took the footprint, and in it the tile is a spare or stands where no region group is served. -/
def testable (d : Dev) (p : Pos) : Bool :=
  let t := d.tile p
  let spare := p.kind == 0 && (d.map.isHole p.grp || cIndex (p.px % 16) == d.map.spare p.grp)
  d.jobs.all (fun j => match j.origin with
      | some o => !j.onWafer || !inFootprint j.img o p || ((spare || unserved j.holes j.img o p) && decide (0 < j.beats))
      | none => true)
    && !d.map.isDead p && !t.granted && !t.flow.owners.any (fun x => x.2.isSome)
    && (d.energy.fields.get {} p.field).powered

/-- The planner may test a tile now: tests are not suspended, none runs in the field (R347, R348). -/
def mayTest (d : Dev) (p : Pos) : Bool :=
  !d.map.suspendTests && (d.mod.st == .idle || d.mod.st == .active) && testable d p
    && !d.map.testing.any (fun q => q.field == p.field)

/-- FIELD_TEST_START; how long a tile outside every footprint has been idle is the planner's count (log 11). -/
def execFieldTestStart (t : Pos) : State → Out_ :=
  liftAt t.ok (fun d =>
    if mayTest d t && !d.map.retest.contains t then
      { d with map := { d.map with testing := d.map.testing ++ [t], tests := d.map.tests + 1 } }
    else d)

/-- FIELD_TEST_DONE: a failure is tested again (R348). -/
def execFieldTestDone (t : Pos) (pass : Bool) : State → Out_ :=
  liftAt t.ok (fun d =>
    if d.map.testing.contains t then
      { d with map := { d.map with
          testing := d.map.testing.filter (· != t)
          retest := if pass then d.map.retest else d.map.retest ++ [t] } }
    else d)

/-- FIELD_TEST_RETEST: a second failure condemns the tile with 0x0505 (R348). -/
def execFieldTestRetest (t : Pos) (pass : Bool) : State → Out_ :=
  liftAt t.ok (fun d =>
    if d.map.retest.contains t && mayTest d t then
      (let d : Dev := { d with map := { d.map with
          retest := d.map.retest.filter (· != t), tests := d.map.tests + 1
          testFails := d.map.testFails + (if pass then 0 else 1) } }
       if pass then d else condemn t (eventTile t 0x0505 0 d))
    else d)

end Sys2Proof.Machine
end

