-- ==== Sys2Proof/Machine/Energy.lean ====
section
/-! DEFINITION. The energy ledger: attribution, budget, admission of steps, setpoints and field voltage, the limiter,
temperature, the mirror, and the commands that set and read it (R351-R365, R369). -/

namespace Sys2Proof.Machine

/-! ## Estimates and reservations (R356-R359) -/

/-- ê: the larger of the image's energy_step and the mean of the last counted steps, three at most (R356). -/
def Job.estimate (j : Job) : Nat :=
  let r := j.energy.recent
  max j.img.energyStep (if r.isEmpty then 0 else r.sum / r.length)

/-- A job whose line 0 has been released holds a reservation (R356); the first release comes with O = 0 (log 62). -/
def Job.reserves (j : Job) : Bool :=
  j.st == .running && j.stop == .none && (j.energy.stepOpen || !j.energy.marks.isEmpty)

/-- The reservation ê − e of a job; e counts closed intervals only. -/
def Job.reservation (j : Job) : Nat :=
  if j.reserves then j.estimate - (if j.energy.marks.isEmpty then j.energy.cur else 0) else 0

/-- O, the sum of all reservations. -/
def Dev.reserved (d : Dev) : Nat := (d.jobs.map Job.reservation).sum

/-! ## The regulator (R42, R361) -/

/-- REGULATOR_STEP: the supply moves 5 mV toward its target (R42, R361). -/
def execRegulatorStep (f : Nat) : State → Out_ :=
  liftAt (decide (f < 48)) (fun d =>
    (retargetAll d).onField f (fun x =>
      if !x.powered then x
      else if x.volt < x.target then { x with volt := min x.target (x.volt + 5) }
      else { x with volt := max x.target (x.volt - 5) }))

/-- SUSPENSION_END: the suspension of an interval is over; duty 0 leaves none (R364, R365). -/
def execSuspensionEnd (f : Nat) : State → Out_ :=
  liftAt (decide (f < 48)) (fun d => d.onField f (fun x => if x.duty = 0 then x else { x with suspendedNow := false }))

/-! ## The gate of line 0 (R331, R356-R358, R362) -/

/-- The step-rate floor holds a job back; with step_rate 0 there is none (R362). -/
def floorHeld (j : Job) (now : Nat) : Bool :=
  match j.energy.prevRelease with
  | some p => j.img.stepRate != 0 && decide ((now - p) * j.img.stepRate < 10 ^ 9)
  | none => false

/-- Every condition of the gate but the ledger holds (R331, R362). -/
def gateReady (j : Job) (now : Nat) : Bool :=
  j.st == .running && j.stop == .none && j.phase == .idle && !j.gate0 && decide (j.crossed.get 0 0 ≤ j.conf)
    && !floorHeld j now

/-- When they came to hold. -/
def readySince (j : Job) : Nat :=
  let r := j.energy.readyAt.getD 0
  match j.energy.prevRelease with
  | some p => if j.img.stepRate = 0 then r else max r (p + cdiv (10 ^ 9) j.img.stepRate)
  | none => r

/-- A job waits ahead of another for the ledger (R357). -/
def aheadOf (a b : Job) : Bool :=
  decide (readySince a < readySince b ∨ (readySince a = readySince b ∧ a.slot < b.slot))

/-- The ledger allows a job's step; the second component tells that its estimate is above the allowance (R356, R358). -/
def ledgerAllows (d : Dev) (j : Job) : Bool × Bool :=
  let e := j.estimate
  if d.energy.allow < e then (decide (d.energy.budget = d.energy.allow) && d.reserved == 0, true)
  else (decide ((e : Int) ≤ d.energy.budget - d.reserved), false)

/-- No job that waits for the ledger alone is ahead. -/
def firstInLine (d : Dev) (j : Job) : Bool :=
  d.jobs.all (fun x => x.slot == j.slot || !gateReady x d.now || !aheadOf x j)

/-- The setpoint after a release (R362). The planner opens a gate within 5 µs of the last of its conditions, so one that stayed
shut longer was held for the ledger (R356). -/
def nextSetpoint (j : Job) (now : Nat) : Nat :=
  let s := j.energy.setpoint
  let lower := max 620 (s - 5)
  let raised := max 620 (min (s + 5) j.energy.cap)
  match j.energy.prevRelease with
  | none => s
  | some p =>
    let w := j.energy.readyAt.getD now - p
    let held := now - readySince j
    let rate := j.img.stepRate
    if rate = 0 then (if !j.energy.ledgerWait ∧ held ≤ 5 then raised else if now - p < 10 * held then lower else s)
    else if 10 * w * rate < 9 * 10 ^ 9 then lower
    else if 98 * 10 ^ 9 < 100 * w * rate then raised
    else s

/-- A job's step line is released: setpoint, reservation, the mark that ends its step (R356, R359, R362). -/
def Job.release (now : Nat) (j : Job) : Job :=
  let again := match j.energy.repeated with
    | some r => decide (j.crossed.get 0 0 ≤ r)
    | none => false
  { j with
    gate0 := true
    energy := { j.energy with
      setpoint := nextSetpoint j now, marks := j.energy.marks ++ [(now, again)], prevRelease := some now
      ledgerWait := false, readyAt := none } }

/-- GATE_OPEN (R356). A job that fails on the ledger alone waits for it. -/
def execGateOpen (j : Nat) : State → Out_ :=
  liftAt (decide (j < 32)) (fun d =>
    match d.job? j with
    | none => d
    | some x =>
      if !gateReady x d.now then d
      else
        let (ok, above) := ledgerAllows d x
        if !(ok && firstInLine d x) then d.onJob j (fun x => { x with energy := { x.energy with ledgerWait := true } })
        else
          let d := if above && !x.energy.warned then
              (appendLog 0x0703 0 false x.id 0 0 1 d).onJob j (fun x => { x with energy := { x.energy with warned := true } })
            else d
          retargetAll (d.onJob j (Job.release d.now)))

/-! ## Attribution (R352) -/

/-- The rows of a footprint in a sector of 20 rows and one group. -/
def rowsIn (i : Image) (o : Nat × Nat) (g row : Nat) : Nat :=
  if o.1 ≤ g ∧ g < o.1 + i.w + i.skip then min (o.2 + i.h) (row + 20) - max o.2 row else 0

/-- Group and first row of the sector at an index of the readings. -/
def sectorAt (ix : Nat) : Nat × Nat :=
  let f := ix / 16
  (4 * (f % 8) + ix % 4, 80 * (f / 8) + 20 * (ix % 16 / 4))

/-- The energy attributed to a job in an interval. -/
def attributed (j : Job) (r : Readings) : Nat :=
  match j.origin with
  | none => 0
  | some o =>
    if !j.onWafer then 0
    else (r.sectors.zipIdx.map (fun x => let s := sectorAt x.2; x.1 * rowsIn j.img o s.1 s.2 / 20)).sum

/-! ## Steps closed (R359, R360) -/

/-- A job whose step has closed with an actual energy: counted unless a rollback discarded or a replay repeated it. The
third counted step in a row above 1.10 times the estimate lowers setpoint and cap by 20 mV and restarts the count; the
second component tells that it did (R359, R360). -/
def Job.closeStep (actual : Nat) (again : Bool) (j : Job) : Job × Nat :=
  let e := j.energy
  if again then ({ j with energy := { e with lastStep := actual } }, 0)
  else
    let e := { e with lastStep := actual, recent := keepLast 3 (e.recent ++ [actual]) }
    if 10 * actual ≤ 11 * j.img.energyStep then ({ j with energy := { e with overCnt := 0 } }, 0)
    else if e.overCnt < 2 then ({ j with energy := { e with overCnt := e.overCnt + 1 } }, 0)
    else
      let s := max 620 (e.setpoint - 20)
      ({ j with energy := { e with setpoint := s, cap := s, overCnt := 0 } }, 1)

/-- Steps closed at the releases of an interval of `eInt` from `t0` over 1,000 µs; `done` is the part of it already
given to earlier steps. The second component counts the lowerings of R360. -/
def closeSteps (eInt t0 : Nat) : List (Nat × Bool) → Nat → Job → Job × Nat
  | [], done, j => ({ j with energy := { j.energy with cur := j.energy.cur + (eInt - done), marks := [] } }, 0)
  | (t, again) :: r, done, j =>
    let upTo := max done (eInt * min 1000 (t - t0) / 1000)
    let (j, n) := if j.energy.stepOpen then j.closeStep (j.energy.cur + (upTo - done)) again else (j, 0)
    let (j, m) := closeSteps eInt t0 r upTo { j with energy := { j.energy with cur := 0, stepOpen := true } }
    (j, n + m)

/-- A job after an interval, and the lowerings of R360 in it. -/
def Job.charge (eInt t0 : Nat) (j : Job) : Job × Nat :=
  let j := { j with energy := { j.energy with total := j.energy.total + eInt } }
  closeSteps eInt t0 j.energy.marks 0 j

/-- A job charged for an interval: 0x0702 for every lowering (R359, R360). -/
def chargeJob (eInt t0 k : Nat) (d : Dev) : Dev :=
  match d.job? k with
  | none => d
  | some j =>
    let (j', n) := j.charge eInt t0
    (d.onJob k (fun _ => j')).each (List.range n) (fun _ d => appendLog 0x0702 0 false j.id 0 0 1 d)

/-! ## Budget, limiter, temperature (R355, R363-R365) -/

/-- The budget after an interval, and the values of SET_ENVELOPE that take effect at its end (R354, R355). -/
def Energy.nextBudget (input ceiling : Nat) (e : Energy) : Energy :=
  let b : Int := min (e.allow : Int) (e.budget + (e.allow / e.window : Nat) - input)
  match e.nextEnv with
  | none => { e with budget := b }
  | some (p, w, a, _) => { e with budget := min (a : Int) b, penv := p, window := w, allow := a, nextEnv := none
                                  limCap := min e.limCap ceiling }

/-- What the limiter does: the cap, the duty and whether it lowered (R363, R364). -/
def limit (e : Energy) (ceiling peak highest input : Nat) : Nat × Nat × Bool :=
  let s10 := (keepLast 10 e.recent).sum
  let s1000 := e.recent.sum
  let fall := fun (l : Nat) => if e.limCap ≤ 620 then (e.limCap, e.limDuty - 1, true) else (max 620 (min e.limCap l), e.limDuty, true)
  if peak * 1000 < input ∨ 95 * peak * 10000 < 100 * s10 then fall (highest - 25)
  else if 98 * e.penv * 1000000 < 100 * s1000 then fall (e.limCap - 5)
  else if 100 * s10 < 85 * peak * 10000 ∧ 100 * s1000 < 92 * e.penv * 1000000 then
    (if e.limDuty < 8 then (e.limCap, e.limDuty + 1, false) else (min ceiling (e.limCap + 5), 8, false))
  else (e.limCap, e.limDuty, false)

/-- The limiter at the end of an interval; the first lowering in 1,000 intervals raises 0x0701. -/
def runLimiter (input : Nat) (d : Dev) : Dev :=
  let e := d.energy
  let highest := allFields.foldl (fun m f => max m (targetNow d f)) 0
  let (l, duty, lowered) := limit e d.mod.inForce.ceiling d.mod.inForce.peak highest input
  let since := match e.sinceLower with
    | some n => if n + 1 < 1000 then some (n + 1) else none
    | none => none
  let d : Dev := { d with energy := { e with
    limCap := l, limDuty := duty
    throttled := decide (e.limCap < d.mod.inForce.ceiling ∨ e.limDuty < 8)
    sinceLower := if lowered && since.isNone then some 0 else since } }
  if lowered && since.isNone then appendLog 0x0701 0 false 0 0 0 1 d else d

/-- What the sixteen sense points of a field report. -/
def sense (l : List Nat) (f : Nat) : List Nat := (l.drop (16 * f)).take 16

/-- The hottest junction of a field. -/
def hottest (r : Readings) (f : Nat) : Nat := (sense r.tj f).foldl max 0

/-- A field at the end of an interval: readings, thermal cap, thermal suspend (R51, R353, R365). -/
def runThermal (r : Readings) (f : Nat) (d : Dev) : Dev :=
  let x := d.energy.fields.get {} f
  let t := hottest r f
  let cap := d.mod.inForce.ceiling
  let x' := { x with
    tj := t, rate := r.rate.getD f 0, energy := x.energy + (sense r.sectors f).sum
    tcap := if 88 < t then x.tcap - 5 else if t ≤ 84 then min cap (x.tcap + 5) else x.tcap
    thermal := decide (92 ≤ t) || (x.thermal && decide (88 < t)) }
  if !x.powered then d.onField f (fun _ => { x with tj := t, rate := x'.rate, energy := x'.energy })
  else
    let d := d.onField f (fun _ => x')
    let d := if x'.thermal && !x.thermal then appendLog 0x0704 4 false 0 (fieldWord f) 0 1 d else d
    if 95 ≤ t then isolateField f 0x0705 d else d

/-- Duty and suspension of a field for the next interval (R364, R365); a raise of its target is free again (R361). -/
def runDuty (f : Nat) (d : Dev) : Dev :=
  let busy := !(workingIn d f).isEmpty
  let duty := d.energy.limDuty
  retarget f (d.onField f (fun x =>
    let n := if x.thermal then 0 else if busy then duty else 8
    { x with duty := n, suspendedNow := decide (n < 8), raised := false }))

/-! ## The mirror (R369) -/

/-- The state code of EM_STATUS. -/
def mirrorState : ModSt → Nat
  | .idle => 1
  | .parked => 2
  | _ => 0

/-- What EM_FIELD_n shows. -/
def mirrorField (d : Dev) (f : Nat) : List Nat :=
  let x := d.energy.fields.get {} f
  [x.energy, x.volt, targetNow d f, x.tcap, x.rate, x.tj, x.duty,
    flagAt (d.map.isolated.contains f) 0 + flagAt x.thermal 1 + flagAt (!(workingIn d f).isEmpty) 2]

/-- What EM_JOB_k shows. -/
def mirrorJob (d : Dev) (k : Nat) : List Nat :=
  match d.job? k with
  | none => [0, 0, 0, 0, 0, 0, 0, 0, 0]
  | some j =>
    let e := j.energy
    [j.id, 1 + flagAt e.ledgerWait 1 + flagAt (decide (e.cap < d.mod.inForce.ceiling)) 2, e.setpoint, e.cap, e.overCnt
      , e.total, e.lastStep, j.estimate, j.reservation]

/-- The mirror rewritten: EM_SEQ takes its increment before and its increment after within the one step, so no read falls
between them (log 186). -/
def rewriteMirror (time : Nat) (d : Dev) : Dev :=
  let e := d.energy
  let m : Mirror := {
    seq := e.mirror.seq + 2, time := time, input := e.inputSum, overhead := e.overheadSum, budget := e.budget
    reserved := d.reserved, state := mirrorState d.mod.st, limCap := e.limCap - 400, limDuty := e.limDuty
    throttling := e.throttled, ledgerWait := d.jobs.any (fun j => j.st == .running && j.energy.ledgerWait)
    fields := allFields.map (fun f => (f, mirrorField d f))
    jobs := (List.range 32).map (fun k => (k, mirrorJob d k)) }
  { d with energy := { e with mirror := m } }

/-- A record of the mirror as bytes: each value in its width, filled to the size of the record. -/
def mirrorRecord (size : Nat) (widths vals : List Nat) : List Byte :=
  padTo size ((widths.zip vals).flatMap (fun (n, v) => le n v))

/-- The 4 KiB of the mirror as the register space shows them. -/
def Mirror.bytes (m : Mirror) : List Byte :=
  padTo 0x100 (le 8 m.seq ++ le 8 m.time ++ le 8 m.input ++ le 8 m.overhead ++ le 8 (m.budget % 2 ^ 64).toNat ++ le 8 m.reserved
      ++ le 4 (m.state + 4 * (m.limCap % 1024) + 2 ^ 12 * m.limDuty + flagAt m.throttling 16 + flagAt m.ledgerWait 17))
    ++ padTo 0x700 (allFields.flatMap (fun f => mirrorRecord 0x20 [8, 2, 2, 2, 2, 1, 1, 1] (m.fields.get [] f)))
    ++ (List.range 32).flatMap (fun k => mirrorRecord 0x40 [4, 4, 2, 2, 4, 8, 8, 8, 8] (m.jobs.get [] k))

/-! ## Errors at rest (R76, R269, R326, R327) -/

/-- An error at rest strikes: one bit of a word that has none is a single-bit error, a second one or two at once a double-bit
error; bits of a general register turn unseen (log 180). -/
def applyStrike (x : Strike) (d : Dev) : Dev :=
  match x with
  | .word p i two =>
    if !(p.ok && inMem p.kind (8 * i) 8 && (d.field p.field).powered) then d
    else d.onTile p (fun t =>
      if t.bad.contains i then t
      else if two || t.weak.contains i then { t with bad := t.bad ++ [i], weak := t.weak.filter (· != i) }
      else { t with weak := t.weak ++ [i] })
  | .scalar p n r mask =>
    if p.ok && (d.field p.field).powered then d.onTile p (Tile.onSlot n (fun s => s.setG r (s.g r ^^^ mask))) else d

/-! ## LEDGER_INTERVAL -/

/-- 64-bit counts grown by what their meters report (R351). -/
def addCounts (n : Nat) (old new : List Nat) : List Nat :=
  (List.range n).map (fun i => (old.getD i 0 + new.getD i 0) % 2 ^ 64)

/-- A gate that every condition but the ledger lets open stands shut: it is held for the ledger (R362, R369). -/
def markWaits (d : Dev) : Dev :=
  { d with jobs := d.jobs.map (fun j =>
      if gateReady j d.now && !((ledgerAllows d j).1 && firstInLine d j) then
        { j with energy := { j.energy with ledgerWait := true } }
      else j) }

/-- The record of an interval (R353). -/
def intervalRec (d : Dev) (time overhead : Nat) (r : Readings) (jobs : List Nat) : IntervalRec :=
  { time := time, input := r.input, overhead := overhead, budget := d.energy.budget
    fields := allFields.map (fun f =>
      let x := d.energy.fields.get {} f
      ((sense r.sectors f).sum, x.volt, hottest r f, x.duty, r.rate.getD f 0))
    jobs := jobs }

/-- What the end of a ledger interval does (R351-R365, R369). -/
def closeInterval (r : Readings) (d : Dev) : Dev :=
  let d := d.each r.strikes applyStrike
  let time := (d.now / 1000 + 1) * 1000
  let shares := (List.range 32).map (fun k => match d.job? k with
    | some j => attributed j r
    | none => 0)
  let overhead := r.input - shares.sum
  let clear := match d.energy.nextEnv with
    | some (_, _, _, c) => c
    | none => false
  let ceiling := d.mod.inForce.ceiling
  let e := d.energy.nextBudget r.input ceiling
  let e := { e with recent := keepLast 1000 (e.recent ++ [r.input]), inputSum := e.inputSum + r.input
                    overheadSum := e.overheadSum + overhead, sectorSum := addCounts 768 e.sectorSum r.sectors
                    brimSum := addCounts 29 e.brimSum r.brim }
  let d : Dev := { d with energy := e, mod := { d.mod with mgmtTime := time % 2 ^ 64 } }
  let d : Dev := { d with energy := { d.energy with
    records := keepLast 65536 (d.energy.records ++ [intervalRec d time overhead r shares]) } }
  let d : Dev := if clear then
    { d with jobs := d.jobs.map (fun (j : Job) => { j with energy := { j.energy with cap := ceiling } }) } else d
  let d := d.each (List.range 32) (fun k => chargeJob (shares.getD k 0) (time - 1000) k)
  let d := runLimiter r.input d
  let d := d.each allFields (runThermal r)
  let d := markWaits (d.each allFields runDuty)
  rewriteMirror time d

/-- LEDGER_INTERVAL (R353, R355). The ledger runs while the management processor does. -/
def execLedgerInterval (r : Readings) : State → Out_ :=
  lift (fun d =>
    match d.mod.st with
    | .idle | .active | .parked => closeInterval r d
    | .starting => if 2 ≤ d.mod.order then closeInterval r d else d
    | _ => d)

/-- IDLE_ENTRY: 10 ms after the last RUNNING or HALTED job left (R366). -/
def execIdleEntry : State → Out_ :=
  lift (fun d => if d.mod.st = .active ∧ !d.jobs.any Job.onWafer then { d with mod := { d.mod with st := .idle } } else d)

/-! ## SET_ENVELOPE and READ_LEDGER (R354, R417) -/

/-- Signed eight bytes. -/
def leSigned8 (b : Int) : List Byte := le 8 (b % 2 ^ 64).toNat

/-- SET_ENVELOPE. -/
def execSetEnvelope (r : Req) (penv tw a : Nat) (clearCaps : Bool) : State → Out_ :=
  liftAt (boxOk r.tr r.box) (request r 0x31 true (fun d =>
    let e := d.energy
    let (p0, w0, a0, c0) := e.nextEnv.getD (e.penv, e.window, e.allow, false)
    let p := if penv = 0 then p0 else penv
    let w := if tw = 0 then w0 else tw
    let a := if a = 0 then a0 else a
    if p < 8000 ∨ d.mod.inForce.envelope < p ∨ w < 1 ∨ 1000 < w ∨ a < 1 ∨ p * w * 1000 < a then
      finishCmd r 0x31 stBadArg 0 [] d
    else
      let d : Dev := { d with energy := { e with nextEnv := some (p, w, a, c0 || clearCaps) } }
      finishCmd r 0x31 stOK 0 (le 4 p ++ le 4 w ++ le 8 a ++ leSigned8 e.budget) d))

/-- A ledger record as bytes. -/
def IntervalRec.bytes (x : IntervalRec) : List Byte :=
  le 8 x.time ++ le 8 x.input ++ le 8 x.overhead ++ leSigned8 x.budget
    ++ x.fields.flatMap (fun (e, v, t, d, b) => le 8 e ++ le 2 v ++ le 1 t ++ le 1 d ++ le 2 b ++ le 2 0)
    ++ x.jobs.flatMap (le 8)

/-- READ_LEDGER. -/
def execReadLedger (r : Req) (snap offset time most : Nat) : State → Out_ :=
  liftAt (boxOk r.tr r.box) (request r 0x32 false (fun d =>
    if offset ≠ 0 ∨ snap ≠ 0 then laterPage r 0x32 snap offset d
    else if most < 1 ∨ 65536 < most then answerCmd r 0x32 stBadArg [] d
    else
      let l := (d.energy.records.filter (fun x => decide (time ≤ x.time))).take most
      firstPage r 0x32 0xFFFFFFFF (l.flatMap IntervalRec.bytes) d))

end Sys2Proof.Machine
end

