-- ==== Sys2Proof/Machine/Power.lean ====
section
/-! DEFINITION. Fuses as records, power states and their transitions, the standby domain, brim supplies, the test access
port (R366-R370, R374-R378, R452-R464). -/

namespace Sys2Proof.Machine

/-! ## OTP generations (R374-R378, R398) -/

def Boot.slotAt (b : Boot) (kind n : Nat) : OtpSlot := Tab.get {} (Tab.get [] b.otp kind) n

def Boot.setSlot (kind n : Nat) (x : OtpSlot) (b : Boot) : Boot :=
  { b with otp := Tab.set b.otp kind (Tab.set (Tab.get [] b.otp kind) n x) }

/-- The variants of R3: ordering-code index, ceiling in mV, envelope and 10 ms peak in W, top rate in M beats/s. -/
def variants : List (Nat × Nat × Nat × Nat × Nat) :=
  [(0, 850, 42000, 48000, 1200), (1, 780, 32000, 36000, 1070), (2, 720, 22000, 25000, 930)]

/-- A content that a generation may hold: limits are those of a variant (R3, R377, log 184), entries have types that are not
reserved (R380). -/
def OtpContent.sound : OtpContent → Bool
  | .limits v c e p r => variants.contains (v, c, e, p, r)
  | .defects _ l => l.all (fun e => decide (1 ≤ e.ty ∧ e.ty ≤ 5))
  | _ => true

/-- A limits generation raises a limit above the one before it (R377). -/
def raisesLimit : OtpContent → OtpContent → Bool
  | .limits _ c e p r, .limits _ c' e' p' r' => decide (c' < c ∨ e' < e ∨ p' < p ∨ r' < r)
  | _, _ => false

/-- A slot's generation counts after those before it: it is valid, its content is sound and raises no limit (R375-R380). -/
def OtpSlot.counts (kind n : Nat) (before : List (Nat × OtpContent)) (x : OtpSlot) : Bool :=
  x.valid kind n && x.content.sound && (match before.getLast? with
    | some (_, o) => !raisesLimit x.content o
    | none => true)

/-- The valid generations of a kind in rising order. -/
def Boot.valids (b : Boot) (kind : Nat) : List (Nat × OtpContent) :=
  (List.range 5).foldl (fun l n => if (b.slotAt kind n).counts kind n l then l ++ [(n, (b.slotAt kind n).content)] else l) []

/-- The newest valid generation of a kind (R376). -/
def Boot.newest (b : Boot) (kind : Nat) : Option (Nat × OtpContent) := (b.valids kind).getLast?

/-- The slots of a kind that are blank, lowest first. -/
def Boot.blanks (b : Boot) (kind : Nat) : List Nat :=
  (List.range 5).filter (fun n => (b.slotAt kind n).isBlank)

/-- The settings in force: auto_start, fast_allowed, key0_revoked, uart_en, jtag_mode, udp_port (R378). -/
def Boot.settings (b : Boot) : Bool × Bool × Bool × Bool × Nat × Nat :=
  match b.newest 3 with
  | some (_, .settings a f k u j p) => (a, f, k, u, if j = 3 then 0 else j, p)
  | _ => (false, false, false, false, 0, 0)

def Boot.autoStart (b : Boot) : Bool := b.settings.1

/-- Set bits that run from bit 0 without a gap. -/
def contiguous (l : List Bool) : Bool := !(l.dropWhile id).contains true

/-- The count of a slot that is a thermometer generation with contiguous bits. Its crc no longer fits once bits were set in it,
so the seal alone tells that it was programmed (R376, R398, log 185). -/
def OtpSlot.thermoCount (n : Nat) (x : OtpSlot) : Option Nat :=
  match x.content with
  | .thermometer l =>
    if x.kind = 4 ∧ x.gen = n ∧ x.sealWord = otpSeal ∧ contiguous l then some (l.filter id).length else none
  | _ => none

/-- The newest thermometer generation whose bits are contiguous, and its count (R398). -/
def Boot.thermometer (b : Boot) : Option (Nat × Nat) :=
  ((List.range 5).filterMap (fun n => ((b.slotAt 4 n).thermoCount n).map (fun c => (n, c)))).getLast?

def Boot.count (b : Boot) : Nat := (b.thermometer.map (·.2)).getD 0

/-- A thermometer content of a level. -/
def thermoContent (level : Nat) : OtpContent := .thermometer (List.replicate level true)

/-- Programming cut short leaves its slot without the seal, spent; staging is lost (R375, R376, log 185). -/
def Boot.cutShort (b : Boot) : Boot :=
  let b := match b.programming with
    | some (k, n, c, _) => { b.setSlot k n { OtpSlot.made k n c with sealWord := 0 } with programming := none }
    | none => b
  { b with staging := none, staged := false, commitGens := (255, 255), thermoDue := none }

/-- A read of the FRU EEPROM, 8 KiB, which answers in every state; a write is ignored (R463). -/
def Boot.fruRead (b : Boot) (off n : Nat) : List Byte :=
  slice (padTo 8192 (Config.fruImage b.fru.ordering (le 8 b.fru.serial.toNat) b.fru.mac b.fru.made)) off n

/-! ## Powering down (R368, R458) -/

/-- What the module keeps when all but the standby domain switches off: the isolated shorts, the cause, management time;
everything else is as before a start. What it has sent out stays sent. -/
def Dev.dark (d : Dev) : Dev :=
  { freeCtr := d.freeCtr
    brim := { emitted := d.brim.emitted }
    mod := {
      st := .standby, standbyOn := d.mod.standbyOn, qualified := d.mod.qualified, inputLow := d.mod.inputLow
      cause := d.mod.cause, needWake := d.mod.needWake, mgmtTime := d.mod.mgmtTime, shortSet := d.mod.shortSet
      hbmSides := d.mod.hbmSides, optSides := d.mod.optSides } }

/-- The module powers down to Standby. -/
def powerDown (b : Boot) (d : Dev) : Boot × Dev := (b.cutShort, d.dark)

/-- The emergency power-down, with the cause that the standby domain keeps. -/
def emergency (cause : Nat) (b : Boot) (d : Dev) : Boot × Dev :=
  let (b, d) := powerDown b d
  (b, { d with mod := { d.mod with cause := cause } })

/-- UNDERVOLTAGE: the module starts again once the input is back (R458, R459). -/
def execUndervoltage : State → Out_ :=
  liftBoot (fun b d =>
    if d.mod.standbyOn then
      (let (b, d) := emergency 0x0707 b d
       (b, { d with mod := { d.mod with qualified := false, inputLow := true } }))
    else (b, d))

/-- A cooling emergency: the module waits for WAKE_N (R368, R459). -/
def coolingEmergency (b : Boot) (d : Dev) : Boot × Dev :=
  if d.mod.standbyOn then
    (let (b, d) := emergency 0x0706 b d
     (b, { d with mod := { d.mod with needWake := true } }))
  else (b, d)

/-- COOLANT_EMERGENCY. -/
def execCoolantEmergency : State → Out_ := liftBoot coolingEmergency

/-- CASE_OVERTEMP. -/
def execCaseOvertemp : State → Out_ := liftBoot coolingEmergency

/-- STANDBY_DOMAIN_STOP: the power cycle of the input ends; the cause register keeps its value (R456, R458). -/
def execStandbyDomainStop : State → Out_ :=
  liftBoot (fun b d =>
    let (b, d) := powerDown b d
    (b, { d with mod := { d.mod with st := .off, standbyOn := false, qualified := false, inputLow := false, mgmtTime := 0
                                     shortSet := [] } }))

/-- INPUT_APPLIED: the standby domain comes up and management time starts from 0 (R49, R454). -/
def execInputApplied : State → Out_ :=
  lift (fun d =>
    if d.mod.standbyOn then d
    else { d with mod := { d.mod with st := .standby, standbyOn := true, qualified := false, inputLow := true, mgmtTime := 0 } })

/-- INPUT_QUALIFIED: the converters are enabled; with auto_start a start is held until its conditions hold (R370, R454,
R459). -/
def execInputQualified : State → Out_ :=
  liftBoot (fun b d =>
    if !d.mod.standbyOn then (b, d)
    else
      let go := d.mod.st == .standby && d.mod.inputLow && !d.mod.needWake && b.autoStart
      (b, { d with mod := { d.mod with qualified := true, inputLow := false, heldStart := d.mod.heldStart || go } }))

/-- WAKE_N held low for 10 ms (R367, R370). -/
def execWakeN : State → Out_ :=
  lift (fun d =>
    if d.mod.st = .standby then { d with mod := { d.mod with heldStart := true, needWake := false } } else d)

/-- START_CONDITIONS_MET (R370). -/
def execStartConditionsMet : State → Out_ :=
  lift (fun d =>
    if d.mod.st = .standby ∧ d.mod.heldStart ∧ d.mod.qualified then
      { d with mod := { d.mod with st := .starting, order := 1, heldStart := false } }
    else d)

/-! ## The map read from fuses (R379-R383) -/

/-- A list holds what an entry says. -/
def holdsEntry (l : List DefEntry) (e : DefEntry) : Bool := mergeEntries l [e] == l

/-- Order of entries: type, then position, then detail (R379). -/
def entryBefore (e x : DefEntry) : Bool :=
  decide (e.ty < x.ty ∨ (e.ty = x.ty ∧ (e.pos.ix < x.pos.ix ∨ (e.pos.ix = x.pos.ix ∧ e.detail < x.detail))))

def insertEntry (e : DefEntry) : List DefEntry → List DefEntry
  | [] => [e]
  | x :: r => if entryBefore e x then e :: x :: r else x :: insertEntry e r

def sortEntries (l : List DefEntry) : List DefEntry := l.foldl (fun s e => insertEntry e s) []

/-- The live entries: those of the newest generation with those added since (R382). -/
def MapSt.entries (m : MapSt) : List DefEntry := sortEntries m.live

/-- Tiles that need more repairs than there are spares (R381). -/
def overRepaired (l : List DefEntry) : List Pos :=
  let rows := (l.filter (fun e => e.ty == 2)).map (fun e => (e.pos, bits e.detail 0 4))
  let lanes := (l.filter (fun e => e.ty == 3)).map (fun e => (e.pos, bits e.detail 0 2))
  ((rows.filter (fun x => decide (4 < (rows.filter (· == x)).length))).map (·.1)
    ++ (lanes.filter (fun x => decide (1 < (lanes.filter (· == x)).length))).map (·.1)).eraseDups

/-- Entries with those tiles recorded as dead: the entries that a list does not hold yet. -/
def deadByRepairs (l : List DefEntry) : List DefEntry :=
  ((overRepaired l).map (fun p => ({ ty := 1, pos := p, flag := false, detail := 0 } : DefEntry))).filter (fun e => !holdsEntry l e)

/-- Dead tiles of a list of entries. -/
def deadOf (l : List DefEntry) : List (Pos × Bool) := (l.filter (fun e => e.ty == 1)).map (fun e => (e.pos, e.flag))

/-- A map whose base and added entries are given: dead tiles follow, those over their repairs are recorded, spares follow at
once (R19, R22, R381). A spare entry that no C-index names reads as 12 (log 185). -/
def MapSt.withEntries (base added : List DefEntry) (m : MapSt) : MapSt :=
  let added := added ++ deadByRepairs (mergeEntries base added)
  { m with base := base, added := added, dead := deadOf (mergeEntries base added) }

/-- The spare table of the newest generation, and its entries. -/
def Boot.defects (b : Boot) : Tab Nat × List DefEntry :=
  match b.newest 5 with
  | some (_, .defects n l) => (n.filter (fun x => decide (x.2 ≤ 12)), l)
  | _ => ([], [])

/-- The map of a start: the newest defect-map generation, with the optical and HBM repairs found that stay in force, and the
fields isolated by a short. What a refinement applied ends here (R383). -/
def mapAtStart (b : Boot) (m : MapSt) (shorts : List Nat) : MapSt :=
  let (named, base) := b.defects
  let kept := m.added.filter (fun e => decide (4 ≤ e.ty) && !m.applied.contains e)
  let m := { m with
    named := named, applied := [], isolated := shorts
    condemned := 0, tests := 0, testFails := 0, testing := [], retest := [], missed := [], holdTimers := false }
  let m := m.withEntries base kept
  { m with spares := m.rebuilt, oldSpares := m.rebuilt }

/-! ## POWER_STATE (R366, R367, R417) -/

/-- A POWER_STATE, a TRAIN_LINKS or an applied refinement is in progress (R410). -/
def moving (d : Dev) : Bool :=
  d.mod.move != .none || d.mod.training.isSome
    || (d.map.change.toList ++ d.map.waitingChanges).any (fun c => c.req.isSome && c.ranks.isEmpty)

/-- POWER_STATE. The tests of R347 stop at once; a start from Parked runs orders 4 to 7. -/
def execPowerState (r : Req) (target : Nat) : State → Out_ :=
  fun s =>
    if !boxOk r.tr r.box then .fault .noSuchPlace
    else liftBoot (requestBoot r 0x30 true (fun b d => (b,
      let no := finishCmd r 0x30 stNotPermitted 0 [] d
      if target < 1 ∨ 3 < target then finishCmd r 0x30 stBadArg 0 [] d
      else if moving d then finishCmd r 0x30 stBusy 0 [] d
      else match d.mod.st with
        | .parked =>
          if target = 1 then
            (if !d.mod.failedStacks.isEmpty then no
             else { d with
               mod := { d.mod with st := .starting, order := 4, waves := 0, fromParked := true, move := .toIdle, moveReq := some r }
               map := mapAtStart b d.map d.mod.shortSet })
          else if target = 3 ∧ d.jobs.isEmpty then
            finishCmd r 0x30 stOK 0 (le 1 3) { d with mod := { d.mod with move := .toStandby } }
          else no
        | _ =>
          if target = 2 ∧ !d.jobs.any Job.onWafer then
            { d with mod := { d.mod with st := .parked, move := .toParked, moveReq := some r }
                     map := { d.map with testing := [], retest := [] } }
          else no))) s

/-- Every field off. -/
def fieldsOff (d : Dev) : Dev :=
  d.each allFields (fun f d => d.onField f (fun x =>
    { x with powered := false, volt := 0, target := 0, duty := 8, suspendedNow := false, thermal := false }))

/-- A commanded transition answers its request. -/
def endMove (state : Nat) (d : Dev) : Dev :=
  let d' : Dev := { d with mod := { d.mod with move := .none, moveReq := none } }
  match d.mod.moveReq with
  | some r => finishCmd r 0x30 stOK 0 (le 1 state) d'
  | none => d'

/-- POWER_TRANSITION_DONE: Parked with its fields off, or Idle after a start from Parked (R367). -/
def execPowerTransitionDone : State → Out_ :=
  lift (fun d =>
    match d.mod.move, d.mod.st with
    | .toParked, _ => endMove 2 (fieldsOff { d with wafer := {} })
    | .toIdle, .idle => endMove 1 d
    | _, _ => d)

/-- STANDBY_ENTRY: the sequence of R367 begins 100 ms after its response (R417). -/
def execStandbyEntry : State → Out_ :=
  liftBoot (fun b d => if d.mod.move = .toStandby then powerDown b d else (b, d))

/-! ## Brim supplies (R275, R457) -/

/-- Every job's work ends: running jobs stop; no code is given for it (log 32). -/
def endWork (d : Dev) : Dev :=
  let (c, d) := freeCode d
  d.each (d.jobs.filter (fun j => j.st == .running)) (fun j d => stopJob j.slot c ⟨0, 0⟩ 0 false d)

/-- HBM_OR_OPTICAL_SUPPLY_FAULT: the stacks or the ports of a side lose their supply (R457). -/
def execHbmOrOpticalSupplyFault (side : Nat) (optical : Bool) : State → Out_ :=
  liftAt (decide (side < 4)) (fun d =>
    match d.mod.st with
    | .idle | .active | .parked | .starting =>
      let d := endWork d
      if optical then
        { d with
          mod := { d.mod with optSides := (side :: d.mod.optSides).eraseDups }
          brim := { d.brim with links := d.brim.links.map (fun x => if portSideOf x.1 = side then (x.1, {}) else x) } }
      else
        { d with
          mod := { d.mod with hbmSides := (side :: d.mod.hbmSides).eraseDups }
          brim := { d.brim with
            hbm := d.brim.hbm.filter (fun c => stackSide (c.1 / 2 ^ 37) != side)
            poisoned := d.brim.poisoned.filter (fun l => stackSide (l * 64 / 2 ^ 37) != side) } }
    | _ => d)

/-- STACK_REPORTS_ABOVE_85C: the refresh rate doubles or returns (R275). -/
def execStackReportsAbove85C (stack : Nat) (above : Bool) : State → Out_ :=
  liftAt (decide (stack < 24)) (fun d =>
    let l := d.brim.hot.filter (· != stack)
    { d with brim := { d.brim with hot := if above then l ++ [stack] else l } })

/-! ## The test access port (R464) -/

/-- The TAP is powered and out of reset. -/
def tapOn (d : Dev) : Bool :=
  d.mod.st != .off && d.mod.st != .standby && (d.mod.inForce.jtagMode == 1 || d.mod.inForce.jtagMode == 2)

/-- The instruction that takes effect: one that the state does not accept acts as BYPASS. -/
def tapEffect (d : Dev) (i : TapInsn) : TapInsn :=
  let named := d.mod.st == .active || d.mod.st == .idle || d.mod.st == .parked
  match i with
  | .idcode => if named then .idcode else .bypass
  | .samplePreload => if named then .samplePreload else .bypass
  | .extest => if d.mod.st = .parked then .extest else .bypass
  | .brimDebug => if d.mod.st = .parked ∧ d.mod.inForce.jtagMode = 2 then .brimDebug else .bypass
  | .bypass => .bypass
  | .other => .bypass

/-- TAP_INSTRUCTION. A brim debug instruction that is accepted has no effect the spec gives. -/
def execTapInstruction (i : TapInsn) : State → Out_ := fun s =>
  if !tapOn s.dev then .next s
  else
    let e := tapEffect s.dev i
    if e = .brimDebug then .refused .serviceDocumentation
    else lift (fun d =>
      let d : Dev := { d with mod := { d.mod with tap := e } }
      if e = .idcode then d.emit (.tdo 0xB2304A6D) else d) s

/-- ALERT_N is low (R462). -/
def alertLow (d : Dev) : Bool :=
  d.mod.heldStart || d.mod.st == .recovery || d.mod.cause != 0 || !d.map.isolated.isEmpty || !d.mod.shortSet.isEmpty
    || d.jobs.any (fun j => j.st == .halted)

end Sys2Proof.Machine
end

