-- ==== Sys2Proof/Machine/Bringup.lean ====
section
/-! DEFINITION. The start of the module: boot ROM and fuses, flacon, trainings, power waves, neighbour test, map build,
firmware broadcast, recovery mode, generations programmed (R371-R398). -/

namespace Sys2Proof.Machine

/-! ## Orders 1 and 2 -/

/-- The limits and settings that come into force when the management processor starts (R376-R378). -/
def Boot.inForce (b : Boot) : InForce :=
  let (_, fast, _, uart, jtag, udp) := b.settings
  match b.newest 2 with
  | some (_, .limits v c e p r) =>
    { variant := v, ceiling := c, envelope := e, peak := p, rate := r, fastAllowed := fast, uartEn := uart, jtagMode := jtag
      udpPort := udp }
  | _ => {}

/-- The ledger as it starts (R354, R355, R363, R365). -/
def freshEnergy (i : InForce) : Energy :=
  let a := i.envelope * 100 * 1000
  { fields := allFields.map (fun f => (f, { tcap := i.ceiling })), penv := i.envelope, window := 100, allow := a, budget := a
    limCap := i.ceiling }

/-- A kept cause is reported as the first record of the start, and then cleared (R368, R459). -/
def reportCause (detail : Nat) (d : Dev) : Dev :=
  let d := appendLog d.mod.cause 0 false 0 0 detail 1 d
  { d with mod := { d.mod with cause := 0 } }

/-- Recovery mode (R393): a start that ends in it reports a kept cause before anything else. -/
def Dev.recover (d : Dev) : Dev :=
  let d := if d.mod.cause = 0 then d else reportCause 0 d
  { d with mod := { d.mod with st := .recovery } }

/-- MODULE_START: order 1 of R371. A kind other than the thermometer without a valid generation means recovery mode
(R376). -/
def execModuleStart : State → Out_ :=
  liftBoot (fun b d =>
    if d.mod.st ≠ .starting ∨ d.mod.order ≠ 1 then (b, d)
    else if [1, 2, 3, 5].any (fun k => (b.newest k).isNone) then (b, d.recover)
    else (b, { d with
      mod := { d.mod with order := 2, inForce := b.inForce }
      host := {}
      energy := freshEnergy b.inForce
      map := mapAtStart b {} d.mod.shortSet }))

/-- A flacon verifies (R391). -/
def verifies (b : Boot) (f : Flacon) : Bool :=
  f.wellFormed && f.authentic && f.major == 1 && decide (f.key < 2) && !(f.key == 0 && b.settings.2.2.1)
    && decide (f.level ≤ 128) && decide (b.count ≤ f.level)

def Boot.bank (b : Boot) (second : Bool) : Option Flacon := if second then b.bankB else b.bankA

/-- The HBM repairs and optical fuses in force, in their order (R379). -/
def MapSt.repairs (m : MapSt) : List DefEntry := sortEntries (m.live.filter (fun e => decide (4 ≤ e.ty)))

/-- The stored training record passes the checks of R387. -/
def storedGood (b : Boot) (d : Dev) : Bool :=
  match b.slot, b.newest 5 with
  | some r, some (g, _) => r.good && r.mapGen == g && r.repairs == d.map.repairs
  | _, _ => false

/-- The stored training record serves a fast start (R387). -/
def fastStart (b : Boot) (d : Dev) : Bool := d.mod.inForce.fastAllowed && storedGood b d

/-- The detail of a start's first record: rollback level in [7:0], bank in [8], the fast path of HBM in [9] and of optics in
[10]; the spec gives no layout (R371 order 8, log 32). -/
def startDetail (level : Nat) (second fastHbm fastOpt : Bool) : Nat :=
  level % 256 + flagAt second 8 + flagAt fastHbm 9 + flagAt fastOpt 10

/-- The first record of a start: the kept cause as its code, which is then cleared (R459); with none a free code (log 32). A
start after a fallback logs it. -/
def firstRecord (detail : Nat) (d : Dev) : Dev :=
  let (c, d) := if d.mod.cause = 0 then freeCode d else (d.mod.cause, d)
  let d := reportCause detail { d with mod := { d.mod with cause := c } }
  if d.mod.fellBack then
    (let (c, d) := freeCode d
     appendLog c 0 false 0 0 0 1 { d with mod := { d.mod with fellBack := false } })
  else d

/-- FLACON_VERIFY: the active bank, else the other, which becomes active; else recovery mode (R371 order 2, R373, R391). -/
def execFlaconVerify : State → Out_ :=
  liftBoot (fun b d =>
    if d.mod.st ≠ .starting ∨ d.mod.order ≠ 2 then (b, d)
    else
      let go := fun (second : Bool) (f : Flacon) =>
        let b' := { b with activeB := second, runningB := second, running := some f, newBank := b.newBank && second == b.activeB }
        let fast := fastStart b d
        (b', firstRecord (startDetail f.level second fast fast)
          { d with mod := { d.mod with order := 3, fastHbm := fast, fastOpt := fast, hbmEnded := [], optEnded := [] } })
      match (b.bank b.activeB).filter (verifies b), (b.bank (!b.activeB)).filter (verifies b) with
      | some f, _ => go b.activeB f
      | none, some f => go (!b.activeB) f
      | none, none => (b, d.recover))

/-! ## Order 3: trainings (R373, R387) -/

/-- An entry added to the live map and the refinement record. -/
def addEntry (ty detail : Nat) (d : Dev) : Dev :=
  { d with map := { d.map with added := d.map.added ++ [{ ty := ty, pos := ⟨0, 0⟩, flag := false, detail := detail }] } }

/-- What training says of a stack: its lane repairs, and 0x0409 when it failed. A stack of a side without supply fails. -/
def applyStack (r : StackResult) (d : Dev) : Dev :=
  let fails := r.outcome == 3 || d.mod.hbmSides.contains (stackSide r.stack)
  let d := d.each r.repairs (fun (c, l, n) d => addEntry 5 (r.stack + 32 * c + 1024 * l + 2 ^ 18 * n) d)
  let left := d.mod.failedStacks.filter (· != r.stack)
  let d : Dev := { d with mod := { d.mod with failedStacks := if fails then left ++ [r.stack] else left } }
  if fails then appendLog 0x0409 0 false 0 0 r.stack 1 d else d

/-- Lanes fused out by the map's entries: receive and transmit masks (R380). -/
def fusedMask (m : MapSt) (n dir : Nat) : Nat :=
  (m.live.filter (fun e => e.ty == 4 && bits e.detail 0 6 == n && bits e.detail 9 1 == dir)).foldl
    (fun x e => if x.testBit (bits e.detail 6 3) then x else x + 2 ^ bits e.detail 6 3) 0

/-- Lanes of a direction that training lost: logged, and at a start fused out live (R373, R451). -/
def loseLanes (n dir mask : Nat) (fuse : Bool) (d : Dev) : Dev :=
  let fused := fusedMask d.map n dir
  let lost := (List.range (portLanes n)).filter (fun l => !mask.testBit l && !fused.testBit l)
  let left := ((List.range (portLanes n)).filter mask.testBit).length
  d.each lost (fun l d =>
    let d := appendLog 0x0801 3 false 0 (portId n) (l + 8 * dir + 16 * left) 1 d
    if fuse then addEntry 4 (n + 64 * l + 512 * dir) d else d)

/-- A port as training leaves it: aligned on the lanes in service, or down without any (R371, R437). -/
def applyPort (fuse : Bool) (r : PortResult) (d : Dev) : Dev :=
  let dark := d.mod.optSides.contains (portSideOf r.port)
  let rx := if dark then 0 else (r.rxMask % 2 ^ portLanes r.port) &&& (255 - fusedMask d.map r.port 0)
  let tx := if dark then 0 else (r.txMask % 2 ^ portLanes r.port) &&& (255 - fusedMask d.map r.port 1)
  let d := if dark then d else loseLanes r.port 1 tx fuse (loseLanes r.port 0 rx fuse d)
  let old := d.link r.port
  let d := d.setLink r.port {
    st := if rx = 0 ∨ tx = 0 then .down else .aligned
    rxMask := rx, txMask := tx, fusedRx := fusedMask d.map r.port 0, fusedTx := fusedMask d.map r.port 1
    lastRetrain := old.lastRetrain, logged0802 := old.logged0802 }
  if rx = 0 ∨ tx = 0 then d else sendCap r.port d

/-- Every stack has ended its training of this start, and every port (R371). -/
def Module.hbmDone (m : Module) : Bool := (List.range 24).all m.hbmEnded.contains
def Module.optDone (m : Module) : Bool := (List.range 50).all m.optEnded.contains

/-- The trainings of a start have ended: order 4, or Parked with a failed stack (R373). -/
def afterTraining (d : Dev) : Dev :=
  if !(d.mod.hbmDone && d.mod.optDone) then d
  else if d.mod.failedStacks.isEmpty then { d with mod := { d.mod with order := 4, waves := 0, hbmSides := [], optSides := [] } }
  else { d with mod := { d.mod with st := .parked, hbmSides := [], optSides := [] } }

/-- Order 3 runs (R371). -/
def training3 (d : Dev) : Bool := d.mod.st == .starting && d.mod.order == 3

/-- HBM_TRAINING_DONE: stacks end their training, each once; the stage ends with the last of the 24. A stack ends on the fast
path only where the start took it (R387). -/
def execHbmTrainingDone (rs : List StackResult) : State → Out_ :=
  liftAt (rs.all (fun r => decide (r.stack < 24))) (fun d =>
    let new := rs.filter (fun r => !d.mod.hbmEnded.contains r.stack)
    if training3 d && (d.mod.fastHbm || new.all (fun r => decide (2 ≤ r.outcome))) then
      (let d := d.each new applyStack
       afterTraining { d with mod := { d.mod with hbmEnded := d.mod.hbmEnded ++ new.map (·.stack) } })
    else d)

/-- OPTICAL_TRAINING_DONE: ports end their training, each once; the stage ends with the last of the 50. Each ends in full where
the start did not take the fast path (R387). -/
def execOpticalTrainingDone (rs : List PortResult) : State → Out_ :=
  liftAt (rs.all (fun r => decide (r.port < 50))) (fun d =>
    let new := rs.filter (fun r => !d.mod.optEnded.contains r.port)
    if training3 d && (d.mod.fastOpt || new.all (·.full)) then
      (let d := d.each new (applyPort true)
       afterTraining { d with mod := { d.mod with optEnded := d.mod.optEnded ++ new.map (·.port) } })
    else d)

/-! ## Orders 4 to 6 -/

/-- A field as its wave powers it: one that a short isolated in this power cycle stays off, one that shorts now is
isolated with 0x0503 (R373, R456). -/
def powerField (shorts : List Nat) (f : Nat) (d : Dev) : Dev :=
  if d.mod.shortSet.contains f then d
  else if shorts.contains f then
    appendLog 0x0503 4 false 0 (fieldWord f) 0 1 ({ d with
      mod := { d.mod with shortSet := d.mod.shortSet ++ [f] }
      map := { d.map with isolated := d.map.isolated ++ [f] } })
  else d.onField f (fun x => { x with
    powered := true, volt := 600, target := 600, duty := 8, suspendedNow := false, thermal := false })

/-- FIELD_WAVE_POWERED: wave w powers field row w, in order (R371 order 4). -/
def execFieldWavePowered (wave : Nat) (shorts : List Nat) : State → Out_ :=
  liftAt (decide (wave < 6)) (fun d =>
    if d.mod.st = .starting ∧ d.mod.order = 4 ∧ d.mod.waves = wave then
      (let d := d.each ((List.range 8).map (· + 8 * wave)) (powerField shorts)
       { d with mod := { d.mod with waves := wave + 1, order := if wave = 5 then 5 else 4 } })
    else d)

/-- A live Compute position. -/
def liveCompute (m : MapSt) (p : Pos) : Bool := p.kind == 0 && !m.isDead p

/-- The nearest live Compute position along a row, within the tap reach of 3 (R24, R384). -/
def nearest (m : MapSt) (p : Pos) (step : Nat → Pos) : Option Pos :=
  ([1, 2, 3].map step).find? (fun q => q.ok && q != p && liveCompute m q)

/-- The testers of a tile (R384). -/
def testersOf (m : MapSt) (p : Pos) : List Pos :=
  (nearest m p (fun k => ⟨p.px + k, p.py⟩)).toList ++ (nearest m p (fun k => ⟨p.px - k, p.py⟩)).toList
    ++ ([⟨p.px, p.py + 1⟩, ⟨p.px, p.py - 1⟩] : List Pos).filter (fun q => q.ok && q != p && q.kind == 0)

/-- A tile condemned by a test of the start: 0x0505. -/
def condemnTested (p : Pos) (d : Dev) : Dev :=
  if d.map.isDead p then d else condemnAs false p (appendLog 0x0505 1 false 0 (rcWord (d.tile p).rc) 0 1 d)

/-- NEIGHBOUR_TEST_DONE: tiles with two disagreeing testers, Store and Function tiles that failed twice, routers that
answered no probe (R384). A pair names a tile and a tester that disagreed with it. -/
def execNeighbourTestDone (disagree : List (Pos × Pos)) (selfFailed : List Pos) (routersFailed : List Pos) : State → Out_ :=
  liftAt ((disagree.map (·.1) ++ disagree.map (·.2) ++ selfFailed ++ routersFailed).all Pos.ok) (fun d =>
    if d.mod.st ≠ .starting ∨ d.mod.order ≠ 5 then d
    else
      let m := d.map
      let pairs := (disagree.filter (fun x => liveCompute m x.1 && (testersOf m x.1).contains x.2)).eraseDups
      let bad := (pairs.map (·.1)).eraseDups.filter (fun p => decide (2 ≤ (pairs.filter (fun x => x.1 == p)).length))
      let d := d.each bad condemnTested
      let d := d.each routersFailed (condemnAs true)
      let d := d.each (selfFailed.filter (fun p => p.kind != 0)) condemnTested
      { d with mod := { d.mod with order := 6 } })

/-- MAP_BUILD_DONE: live map, spares, holes, remap, turn tables (R371 order 6, R385). -/
def execMapBuildDone (turns : TurnTables) : State → Out_ :=
  lift (fun d =>
    if d.mod.st ≠ .starting ∨ d.mod.order ≠ 6 ∨ !turnsOk d.map turns then d
    else
      let m := d.map
      { d with
        map := { m with
          spares := m.rebuilt, oldSpares := m.rebuilt, turns := turnTab turns, oldTurns := turnTab turns
          epoch := false, released := true, change := none, waitingChanges := [] }
        mod := { d.mod with order := 7 } })

/-! ## Orders 7 and 8 -/

/-- The thermometer raised to the running flacon's level (R398); where a bit fails to program, the whole level goes into the
next blank slot. -/
def raiseThermometer (failed : Bool) (b : Boot) (d : Dev) : Boot × Dev :=
  let level := match b.running with
    | some f => f.level
    | none => 0
  if level ≤ b.count then (b, d)
  else
    let next := fun (b : Boot) (d : Dev) => match b.blanks 4 with
      | n :: _ => ({ b with programming := some (4, n, thermoContent level, none) }, d)
      | [] =>
        let (c, d) := freeCode d
        (b, appendLog c 0 false 0 0 0 1 d)
    match b.thermometer with
    | some (n, _) =>
      if failed then next b d else (b.setSlot 4 n { b.slotAt 4 n with content := thermoContent level }, d)
    | none => next b d

/-- The raise that a start's order 8 asks for waits while a generation is being programmed: the device programs one at a time
(R376, R398, log 145). -/
def thermoRaise (b : Boot) (d : Dev) : Boot × Dev :=
  match b.thermoDue, b.programming with
  | some failed, none => raiseThermometer failed { b with thermoDue := none } d
  | _, _ => (b, d)

/-- The segments that a tile still lacks after the reports of the broadcast and of its re-broadcasts: a tile discards a copy of
one it holds (R394). -/
def stillLacks (p : Pos) : List (List (Pos × List Nat)) → List Nat
  | [] => []
  | [r] => (r.filter (fun x => x.1 == p)).flatMap (·.2)
  | r :: l => ((r.filter (fun x => x.1 == p)).flatMap (·.2)).filter (stillLacks p l).contains

/-- The tiles that the reports name. -/
def reporting (d : Dev) (lacking : List (List (Pos × List Nat))) : List Pos :=
  ((lacking.flatten.map (·.1)).eraseDups).filter (fun p => !d.map.isDead p && !d.map.isolated.contains p.field)

/-- FIRMWARE_BROADCAST_DONE: the bitmaps that the tiles report after the broadcast and after each re-broadcast, at most three.
The stage goes on while a segment is lacking and a re-broadcast is left; tiles that lack one after the third are condemned, the
map is brought up to date, the module is Idle (R371 order 8, R394, R398). The 120 s of a new bank end with a start from Standby
(R392). -/
def execFirmwareBroadcastDone (lacking : List (List (Pos × List Nat))) (bitsFailed : Bool) : State → Out_ :=
  fun s =>
    if !lacking.flatten.all (fun x => x.1.ok) then .fault .noSuchPlace
    else liftBoot (fun b d =>
      let lacks := ((reporting d lacking).map (fun p => (p.ix, stillLacks p lacking))).filter (fun x => !x.2.isEmpty)
      if d.mod.st ≠ .starting ∨ d.mod.order ≠ 7 ∨ 4 < lacking.length ∨ (lacking.length < 4 ∧ lacks ≠ []) then (b, d)
      else
        let d : Dev := { d with wafer := { d.wafer with
          firmware := (b.running.map (·.firmware)).getD [], fwLacks := lacks } }
        let d := d.each (lacks.map (fun x => posOf x.1)) condemnTested
        let sp := d.map.rebuilt
        let first := !d.mod.fromParked
        let d : Dev := { d with
          map := { d.map with spares := sp, oldSpares := sp }
          mod := { d.mod with st := .idle, order := 8, fromParked := false } }
        thermoRaise { b with newBank := b.newBank && !first, thermoDue := some bitsFailed } d) s

/-- FLACON_FALLBACK: the first start from a new bank did not reach order 8 in 120 s, a start that a failed stack ended in
Parked among them; it starts once more from the other bank (R373, R392). -/
def execFlaconFallback : State → Out_ :=
  liftBoot (fun b d =>
    if b.newBank ∧ ((d.mod.st = .starting ∧ !d.mod.fromParked)
        ∨ (d.mod.st = .parked ∧ d.mod.order = 3 ∧ b.runningB = b.activeB)) then
      (let (b, d) := powerDown b d
       ({ b with activeB := !b.activeB, newBank := false },
        { d with mod := { d.mod with st := .starting, order := 1, fellBack := true } }))
    else (b, d))

/-! ## Generations (R376, R383, R392) -/

/-- The content of a flacon's item when it differs from the newest valid generation of its kind. -/
def newItem (b : Boot) (kind : Nat) (item : Option OtpContent) : Option OtpContent :=
  item.filter (fun c => (b.newest kind).map (·.2) != some c)

/-- The staged flacon: the inactive bank. -/
def Boot.stagedBank (b : Boot) : Option Flacon := b.bank (!b.activeB)

/-- FW_COMMIT after its generations: the staged bank is active for the next start (R392, R416). -/
def markBank (r : Req) (f : Flacon) (b : Boot) (d : Dev) : Boot × Dev :=
  let second := !b.activeB
  ({ b with activeB := second, newBank := true, staged := false, commitGens := (255, 255) },
    finishCmd r 0x11 stOK 0 (le 1 (flagAt second 0) ++ le 1 f.level ++ le 1 b.commitGens.1 ++ le 1 b.commitGens.2 ++ le 4 0
      ++ le 8 f.version) d)

/-- The next generation that FW_COMMIT programs: settings, then limits; the bank is marked when none is left. -/
def commitNext (r : Req) (f : Flacon) (b : Boot) (d : Dev) : Boot × Dev :=
  let write := fun (kind : Nat) (c : OtpContent) => match b.blanks kind with
    | n :: _ => ({ b with programming := some (kind, n, c, some r) }, d)
    | [] => (b, finishCmd r 0x11 stOtp 0 [] d)
  match newItem b 3 f.settings, newItem b 2 f.limits with
  | some c, _ => write 3 c
  | none, some c => write 2 c
  | none, none => markBank r f b d

/-- The map after a defect-map generation is programmed: the refinement record keeps what the generation does not hold (R382). -/
def MapSt.rebased (b : Boot) (m : MapSt) : MapSt :=
  let (named, base) := b.defects
  let mine := fun (l : List DefEntry) => l.filter (fun e => !holdsEntry base e)
  { m with
    named := named, base := base.filter (holdsEntry m.live)
    added := mine m.live, applied := m.applied.filter (fun e => !holdsEntry base e) }

/-- GENERATION_PROGRAMMED: the seal is written; the command that asked for the generation goes on, and a thermometer that waited
for the OTP is raised. -/
def execGenerationProgrammed : State → Out_ :=
  liftBoot (fun b d =>
    match b.programming with
    | none => (b, d)
    | some (k, n, c, req) =>
      let b := { b.setSlot k n (.made k n c) with programming := none }
      let b := { b with commitGens := if k = 3 then (n, b.commitGens.2) else if k = 2 then (b.commitGens.1, n) else b.commitGens }
      let (b, d) := if k = 5 then (b, { d with map := d.map.rebased b }) else (b, d)
      let (b, d) := match req with
        | none => (b, d)
        | some r =>
          if k = 5 then (b, finishCmd r 0x61 stOK 0 (le 1 n ++ le 3 0 ++ le 4 d.map.live.length) d)
          else match b.stagedBank with
            | some f => commitNext r f b d
            | none => (b, d)
      thermoRaise b d)

end Sys2Proof.Machine
end

