-- ==== Sys2Proof/Machine/RealFn.lean ====
section
/-! DEFINITION. Correctly rounded real functions of FP32 values (R104, R110): an enclosure of the exact value in
rationals with `p` fraction bits, refined until both ends round alike. Where the second precision does not decide,
the result is a free value (log 21); so is a result where the real function has no value (log 22). -/

namespace Sys2Proof.Machine

/-- An enclosure of a real number: both ends in units of 2^-p. -/
structure Encl where
  lo : Int
  hi : Int
  deriving DecidableEq, Repr

/-- The least integer not below a quotient. -/
def cdivI (a b : Int) : Int := -(Int.fdiv (-a) b)

/-- A rational in units of 2^-p. -/
def Encl.ofQ (p : Nat) (q : Q) : Encl := ⟨Int.fdiv (q.n * 2 ^ p) q.d, cdivI (q.n * 2 ^ p) q.d⟩

def Encl.neg (a : Encl) : Encl := ⟨-a.hi, -a.lo⟩

def Encl.add (a b : Encl) : Encl := ⟨a.lo + b.lo, a.hi + b.hi⟩

/-- The product of two enclosures. -/
def Encl.mul (p : Nat) (a b : Encl) : Encl :=
  let xs := [a.lo * b.lo, a.lo * b.hi, a.hi * b.lo, a.hi * b.hi]
  ⟨Int.fdiv (xs.foldl min (a.lo * b.lo)) (2 ^ p), cdivI (xs.foldl max (a.lo * b.lo)) (2 ^ p)⟩

/-- The reciprocal of an enclosure of positive numbers. -/
def Encl.inv (p : Nat) (a : Encl) : Encl := ⟨Int.fdiv (2 ^ (2 * p)) a.hi, cdivI (2 ^ (2 * p)) a.lo⟩

/-- Widened by an error of `e` units. -/
def Encl.wide (a : Encl) (e : Int) : Encl := ⟨a.lo - e, a.hi + e⟩

/-- The sum of the series of the exponential of 0 ≤ a < 1: terms a^k / k!, the rest below twice the last term. -/
def expTerms (p : Nat) : Nat → Nat → Encl → Encl → Encl → Encl
  | 0, _, _, t, s => ⟨s.lo, s.hi + 2 * t.hi + 1⟩
  | n + 1, k, a, t, s =>
    let t' : Encl := ⟨Int.fdiv (t.lo * a.lo) (2 ^ p * k), cdivI (t.hi * a.hi) (2 ^ p * k)⟩
    expTerms p n (k + 1) a t' (s.add t')

/-- Repeated squaring. -/
def sqTimes (p : Nat) : Nat → Encl → Encl
  | 0, a => a
  | n + 1, a => sqTimes p n (a.mul p a)

/-- The exponential of a rational of magnitude at most 512. -/
def exReal (p : Nat) (x : Q) : Encl :=
  let r := Encl.ofQ p (x.abs.mul ⟨1, 1024⟩)
  let one : Encl := ⟨2 ^ p, 2 ^ p⟩
  let e := sqTimes p 10 (expTerms p (p / 4 + 20) 1 r one one)
  if x.n < 0 then e.inv p else e

/-- The sum of t^(2k+1) / (2k+1), alternating or not, for an argument t given by its numerator and denominator. Each
term is cut by less than 2 units. -/
def oddSeries (alt : Bool) (n2 d2 : Int) : Nat → Nat → Int → Int → Int
  | 0, _, _, s => s
  | n + 1, k, t, s =>
    let s := if alt && k % 2 == 1 then s - Int.fdiv t (2 * k + 1) else s + Int.fdiv t (2 * k + 1)
    oddSeries alt n2 d2 n (k + 1) (Int.fdiv (t * n2) d2) s

/-- atanh or atan of a rational of magnitude at most 1/3. -/
def oddFn (p : Nat) (alt : Bool) (t : Q) : Encl :=
  let n := p / 3 + 8
  let v := oddSeries alt (t.n * t.n) (t.d * t.d) n 0 (Int.fdiv (t.n.natAbs * 2 ^ p) t.d) 0
  let e : Encl := (⟨v, v⟩ : Encl).wide (4 * n + 16)
  if t.n < 0 then e.neg else e

/-- ln 2. -/
def ln2 (p : Nat) : Encl := let e := oddFn p false ⟨1, 3⟩; e.add e

/-- pi. -/
def piReal (p : Nat) : Encl :=
  let a := oddFn p true ⟨1, 5⟩
  let b := oddFn p true ⟨1, 239⟩
  ⟨16 * a.lo - 4 * b.hi, 16 * a.hi - 4 * b.lo⟩

/-- The natural logarithm of a positive rational. -/
def lnReal (p : Nat) (x : Q) : Encl :=
  let e0 := ilog2 x.n.natAbs x.d
  let m0 := x.mul (Q.pow2 (-e0))
  let big := Q.lt ⟨4, 3⟩ m0
  let e := if big then e0 + 1 else e0
  let m := if big then m0.mul ⟨1, 2⟩ else m0
  let t := (m.add ⟨-1, 1⟩).div (m.add ⟨1, 1⟩)
  let l := oddFn p false t
  let k := ln2 p
  (l.add l).add (if e ≥ 0 then ⟨e * k.lo, e * k.hi⟩ else ⟨e * k.hi, e * k.lo⟩)

/-- The square root of a positive rational. -/
def sqrtReal (p : Nat) (x : Q) : Encl :=
  let n := x.n.natAbs * 2 ^ (2 * p)
  let s := Nat.sqrt (n / x.d)
  if s * s * x.d = n then ⟨s, s⟩ else ⟨s, s + 1⟩

/-- The alternating series of the sine (first term a, k = 1) or the cosine (first term 1, k = 0) at an argument with
square `a2`, all in units of 2^-p. -/
def trigSeries (p : Nat) (a2 : Int) : Nat → Nat → Int → Int → Int
  | 0, _, _, s => s
  | n + 1, k, t, s =>
    let t' := -Int.fdiv (Int.fdiv (t * a2) (2 ^ p)) ((k + 1) * (k + 2))
    trigSeries p a2 n (k + 2) t' (s + t')

/-- The sine (q = 0) or the cosine (q = 1) of a rational, the argument reduced exactly. -/
def trigReal (p : Nat) (q : Nat) (x : Q) : Encl :=
  let w := p + 160
  let pi := piReal w
  let xs := Int.fdiv (x.n * 2 ^ w) x.d
  let half := Int.fdiv pi.lo 2
  let k := Int.fdiv (xs + Int.fdiv half 2) half
  let r := Int.fdiv (xs - k * half) (2 ^ (w - p))
  let a2 := Int.fdiv (r * r) (2 ^ p)
  let n := p / 4 + 20
  let s := trigSeries p a2 n 1 r r
  let c := trigSeries p a2 n 0 (2 ^ p) (2 ^ p)
  let m := (k + q) % 4
  let v := if m = 0 then s else if m = 1 then c else if m = 2 then -s else -c
  (⟨v, v⟩ : Encl).wide (16 * n + 64)

/-- The terms (−1)^n x^(2n+1) / (n! (2n+1)) of the error function. -/
def erfSeries (p : Nat) (x2 : Int) : Nat → Nat → Int → Int → Int
  | 0, _, _, s => s
  | n + 1, k, t, s =>
    erfSeries p x2 n (k + 1) (-Int.fdiv (Int.fdiv (t * x2) (2 ^ p)) (k + 1)) (s + Int.fdiv t (2 * k + 1))

/-- The error function of a rational of magnitude below 4. -/
def erfReal (p : Nat) (x : Q) : Encl :=
  let w := p + 40
  let a := Int.fdiv (x.abs.n * 2 ^ w) x.d
  let n := w / 3 + 100
  let v := erfSeries w (Int.fdiv (a * a) (2 ^ w)) n 0 a 0
  let s : Encl := (⟨v, v⟩ : Encl).wide (2 ^ 32)
  let two := (sqrtReal w ⟨1, 1⟩).add (sqrtReal w ⟨1, 1⟩)
  let rp := (Encl.mk (Nat.sqrt ((piReal w).lo.natAbs * 2 ^ w)) (Nat.sqrt ((piReal w).hi.natAbs * 2 ^ w) + 1)).inv w
  let e := (s.mul w two).mul w rp
  let e : Encl := ⟨Int.fdiv e.lo (2 ^ 40), cdivI e.hi (2 ^ 40)⟩
  if x.n < 0 then e.neg else e

/-- The quotient 1 / (1 + exp(−x)), for a rational of magnitude at most 512. -/
def sigmaReal (p : Nat) (x : Q) : Encl := ((exReal p x.neg).add ⟨2 ^ p, 2 ^ p⟩).inv p

/-- The functions of R104 and R110 that have no exact rational value in general. -/
inductive RealOp where
  | ex | ex2 | ln | lg2 | sqrt | rsqrt | sin | cos | tanh | erf | silu | gelu
  deriving DecidableEq, Repr

def RealOp.code : RealOp → Nat
  | .ex => 0 | .ex2 => 1 | .ln => 2 | .lg2 => 3 | .sqrt => 4 | .rsqrt => 5 | .sin => 6 | .cos => 7 | .tanh => 8
  | .erf => 9 | .silu => 10 | .gelu => 11

/-- 2^-400 and the number that lies that much below 1: stand-ins with the rounding of every value that small or that
near to 1. -/
def tinyQ : Q := ⟨1, 2 ^ 400⟩
def nearOne : Q := ⟨2 ^ 400 - 1, 2 ^ 400⟩

/-- An end of an enclosure as a rational. -/
def qAt (p : Nat) (i : Int) : Q := ⟨i, 2 ^ p⟩

/-- The argument of the logistic factor: y for SiLU; twice the argument of the hyperbolic tangent for GELU (R104). -/
def gateArg (o : RealOp) (y : Q) : Q :=
  if o = .silu then y
  else Q.mul ⟨2 * 7978845608, 10000000000⟩ (y.add (Q.mul ⟨44715, 1000000⟩ (y.mul (y.mul y))))

/-- Both ends of an enclosure of the function at a rational x with fraction bits p; both equal where a bound decides
the rounding. The callers keep to the function's domain. -/
def realAt (o : RealOp) (p : Nat) (x : Q) : Q × Q :=
  let one : Q := ⟨1, 1⟩
  let ends := fun (e : Encl) => (qAt p e.lo, qAt p e.hi)
  let big := fun (n : Nat) => Q.lt ⟨n, 1⟩ x.abs
  match o with
  | .ex => if big 400 then (if x.n < 0 then (tinyQ, tinyQ) else (Q.pow2 200, Q.pow2 200)) else ends (exReal p x)
  | .ex2 =>
    if big 400 then (if x.n < 0 then (tinyQ, tinyQ) else (Q.pow2 200, Q.pow2 200))
    else
      let k := x.floor
      let f := x.add ⟨-k, 1⟩
      if f.n = 0 then (Q.pow2 k, Q.pow2 k)
      else
        let a := (Encl.ofQ p f).mul p (ln2 p)
        ((qAt p (exReal p (qAt p a.lo)).lo).mul (Q.pow2 k), (qAt p (exReal p (qAt p a.hi)).hi).mul (Q.pow2 k))
  | .ln => if x.n = x.d then (⟨0, 1⟩, ⟨0, 1⟩) else ends (lnReal p x)
  | .lg2 =>
    let e := ilog2 x.n.natAbs x.d
    let m := x.mul (Q.pow2 (-e))
    if m.n = m.d then (⟨e, 1⟩, ⟨e, 1⟩)
    else ends ((lnReal p x).mul p ((ln2 p).inv p))
  | .sqrt => ends (sqrtReal p x)
  | .rsqrt => ends (sqrtReal p (one.div x))
  | .sin => ends (trigReal p 0 x)
  | .cos => ends (trigReal p 1 x)
  | .tanh =>
    if big 100 then (if x.n < 0 then (nearOne.neg, nearOne.neg) else (nearOne, nearOne))
    else
      let s := sigmaReal p (x.mul ⟨2, 1⟩)
      ends ⟨2 * s.lo - 2 ^ p, 2 * s.hi - 2 ^ p⟩
  | .erf =>
    if !(x.abs.lt ⟨4, 1⟩) then
      (let v : Q := ⟨2 ^ 30 - 1, 2 ^ 30⟩; if x.n < 0 then (v.neg, v.neg) else (v, v))
    else ends (erfReal p x)
  | .silu | .gelu =>
    let w := gateArg o x
    let y := fun (q : Q) => x.mul q
    if Q.lt ⟨400, 1⟩ w.abs then (if w.n < 0 then (y tinyQ, y tinyQ) else (y nearOne, y nearOne))
    else
      let s := sigmaReal p w
      if x.n < 0 then (y (qAt p s.hi), y (qAt p s.lo)) else (y (qAt p s.lo), y (qAt p s.hi))

/-- A rational rounded to FP32; zero only when it is exactly zero loses its sign. -/
def roundQ (mode : Nat) (q : Q) : Word := toF32 mode (Val.ofQ q)

/-- The canonical NaN in place of every NaN (R57). -/
def canon (w : Word) : Word := if (ofF32 w).isNan then 0x7FC00000 else w

/-- An FP32 result that the spec leaves open; a NaN is the canonical one (R57, log 22). -/
def freeF32 (code : Nat) (arg : Word) (mode : Nat) : Word := canon (Config.freeReal code arg mode)

/-- The function at a rational, rounded once: two precisions, then a free value (log 21). -/
def realRound (o : RealOp) (mode : Nat) (arg : Word) (x : Q) : Word :=
  let (a, b) := realAt o 192 x
  if roundQ mode a = roundQ mode b then roundQ mode a
  else
    let (a, b) := realAt o 800 x
    if roundQ mode a = roundQ mode b then roundQ mode a else freeF32 o.code arg mode

/-- A function of R104 or R110 of an FP32 word. A NaN gives the canonical NaN; where R104 or the real function gives a
value, that value rounded once; at an infinity, outside the domain, and for the sign of the zero a −0 gives, the spec
states nothing for the functions of R110: free values (log 22). -/
def realFn (o : RealOp) (mode : Nat) (arg : Word) : Word :=
  let free := freeF32 o.code arg mode
  let gate := o == .silu || o == .gelu
  match ofF32 arg with
  | .nan => 0x7FC00000
  | .inf s => if gate then (if s then 0 else 0x7F800000) else free
  | .zero s =>
    if gate then arg
    else match o with
      | .ex | .ex2 | .cos => 0x3F800000
      | .sin | .tanh | .erf | .sqrt => if s then free &&& 0x80000000 else 0
      | _ => free
  | .num x =>
    if x.n < 0 && (o == .ln || o == .lg2 || o == .sqrt || o == .rsqrt) then free else realRound o mode arg x

end Sys2Proof.Machine
end

