-- ==== Sys2Proof/Machine/Finish.lean ====
section
/-! DEFINITION. Finishing: the stages of R101, output scales (R64, R102), the integer path (R103), activations
(R104), the sillage histogram (R107, R108), fulling (R146-R149), and the end of a drain (R97, R100). -/

namespace Sys2Proof.Machine

/-- A register of the captured set, by its offset in the finishing set. -/
def DrainJob.reg (j : DrainJob) (off : Nat) : Nat := (j.regs.get 0 (0x100 + 0x40 * j.fin + off)).toNat

/-- The captured control word. -/
def DrainJob.cw (j : DrainJob) : FinCw := finCw (j.reg 0)

/-- The captured fulling register of the set that the control word selects. -/
def DrainJob.fulReg (j : DrainJob) (off : Nat) : Nat := (j.regs.get 0 (0x300 + 0x10 * j.cw.ful + off)).toNat

/-- The captured fulling mode (R146). -/
def DrainJob.mode (j : DrainJob) : Option Nat := if j.cw.ful = 0 then none else some (bits (j.fulReg 0) 0 2)

/-- The slots of the window in slot order: row and column in the accord. -/
def DrainJob.cells (j : DrainJob) : List (Nat × Nat) :=
  (List.range j.rows).flatMap (fun r => (List.range j.cols).map (fun c => (r, c)))

/-- An element that the mask unselects (R153). -/
def DrainJob.unselected (j : DrainJob) (r c : Nat) : Bool :=
  match j.mask with
  | some m => !selected m true r c
  | none => false

/-- The integer path (R103). -/
def DrainJob.intPath (j : DrainJob) (int : Bool) : Bool :=
  let w := j.cw
  int && w.scaleMode == 0 && !w.bias && !w.res && (w.act == 0 || w.act == 1) && (w.fmt == 5 || w.fmt == 6) && w.sc == 0

/-! ## Stages 1 to 4 -/

/-- A word of tile memory. -/
def memWord (m : Mem) (a : Nat) : Word := BitVec.ofNat 32 (m.readLe a 4)

/-- The index into the activation table: none for a NaN u (R104). -/
def tblIndex (j : DrainJob) (y : Word) : Option Nat :=
  let lo : Word := BitVec.ofNat 32 (j.reg 0x1C)
  let inv : Word := BitVec.ofNat 32 (j.reg 0x20)
  let u := mulF32 (toF32 0 ((ofF32 y).add (ofF32 lo).negate)) inv
  match ofF32 u with
  | .nan => none
  | .inf s => some (if s then 0 else 255)
  | .zero _ => some 0
  | .num q => some (min 255 q.floor.toNat)

/-- Base of the activation table. -/
def DrainJob.tbl (j : DrainJob) : Nat := 16 * bits (j.reg 0x18) 0 14

/-- The greater (or the lesser) of two values that are not NaN; of two zeros that differ in sign the spec names none: a
free sign (log 22). -/
def pickF32 (greater : Bool) (y b : Word) : Word :=
  if (ofF32 y).isZero && (ofF32 b).isZero && y != b then Config.freeReal 21 y 0 &&& 0x80000000
  else if greater then (if (ofF32 y).lt (ofF32 b) then b else y)
  else if (ofF32 b).lt (ofF32 y) then b else y

/-- The activation of R104. -/
def activate (m : Mem) (j : DrainJob) (y : Word) : Word :=
  let v := ofF32 y
  let a := j.cw.act
  if a = 0 then y
  else if v.isNan then 0x7FC00000
  else if a = 1 then (if Val.lt (.zero false) v then y else 0)
  else if a = 2 then
    let lo : Word := BitVec.ofNat 32 (j.reg 0x10)
    let hi : Word := BitVec.ofNat 32 (j.reg 0x14)
    let y := if (ofF32 lo).isNan then y else pickF32 true y lo
    if (ofF32 hi).isNan then y else pickF32 false y hi
  else if a = 3 then realFn .gelu 0 y
  else if a = 4 then realFn .silu 0 y
  else match tblIndex j y with
    | none => 0x7FC00000
    | some i => addF32 (mulF32 (memWord m (j.tbl + 8 * i)) y) (memWord m (j.tbl + 8 * i + 4))

/-- The value of an element before its activation (stages 1 to 3 of R101). -/
def preAct (m : Mem) (j : DrainJob) (int : Bool) (w : Word) (r c : Nat) : Word :=
  let k := j.cw
  let n := j.n0 + c
  let y := if int then toF32 0 (Val.ofQ ⟨sgn w, 1⟩) else w
  let y := if k.scaleMode = 1 then mulF32 y (BitVec.ofNat 32 (j.reg 0x04))
    else if k.scaleMode = 2 then mulF32 y (memWord m (16 * bits (j.reg 0x08) 0 14 + 4 * n)) else y
  let y := if k.bias then addF32 y (memWord m (16 * bits (j.reg 0x08) 16 14 + 4 * n)) else y
  if k.res then
    addF32 y (memWord m (16 * bits (j.reg 0x0C) 0 14 + (j.m0 + r) * 16 * bits (j.reg 0x0C) 14 14 + 4 * n))
  else y

/-- The byte ranges that stages 1 to 4 read: nothing for an element that the mask unselects (R101, R153). -/
def finReads (m : Mem) (j : DrainJob) (int : Bool) (acc : Accord) : List (Nat × Nat) :=
  let k := j.cw
  if j.intPath int then []
  else
    (j.cells.filter (fun x => !j.unselected x.1 x.2)).flatMap (fun (r, c) =>
      let n := j.n0 + c
      (if k.scaleMode = 2 then [(16 * bits (j.reg 0x08) 0 14 + 4 * n, 4)] else [])
        ++ (if k.bias then [(16 * bits (j.reg 0x08) 16 14 + 4 * n, 4)] else [])
        ++ (if k.res then [(16 * bits (j.reg 0x0C) 0 14 + (j.m0 + r) * 16 * bits (j.reg 0x0C) 14 14 + 4 * n, 4)] else [])
        ++ (if k.act = 5 then ((tblIndex j (preAct m j int (acc.vals.get 0 (32 * r + c)) r c)).map
            (fun i => (j.tbl + 8 * i, 8))).toList else []))

/-! ## Stage 5: conversion and output scales -/

/-- What finishing knows of an element: slot row and column, the value that is recorded and converted, the code
written, whether the conversion overflowed. -/
structure Fin where
  r : Nat
  c : Nat
  val : Val
  code : Nat
  sat : Bool
  deriving DecidableEq, Repr

/-- Where a drain's conversions draw: R70, with the element of R211 for a drain by instruction. -/
def DrainJob.bits12 (j : DrainJob) (w : Draw) (r c : Nat) : Nat :=
  let m := j.m0 + r
  let n := j.n0 + c
  srBits w (if j.explicit then m * 4096 + n else m * j.width + n) (32 * r + c)

/-- The values that stage 5 takes: an unselected element is +0; the integer path applies ReLU to the integer
(R103, R153). -/
def stageVal (m : Mem) (j : DrainJob) (acc : Accord) (r c : Nat) : Val :=
  let w := acc.vals.get 0 (32 * r + c)
  if j.unselected r c then .zero false
  else if j.intPath acc.int then
    Val.ofQ ⟨if j.cw.act = 1 then max 0 (sgn w) else sgn w, 1⟩
  else ofF32 (activate m j (preAct m j acc.int w r c))

/-- floor(log2 |x|) of a value that is a number. -/
def valLog2 : Val → Int
  | .num q => ilog2 q.n.natAbs q.d
  | _ => 0

/-- The larger magnitude. -/
def maxMag (a b : Val) : Val :=
  let x := if a.neg then a.negate else a
  let y := if b.neg then b.negate else b
  if x.lt y then y else x

/-- The scale byte of an output block (R64). -/
def scaleByte (fmt : Nat) (vs : List Val) : Nat :=
  if vs.any (fun v => v.isNan || (match v with
    | .inf _ => true
    | _ => false)) then 0xFF
  else
    let top := vs.foldl maxMag (.zero false)
    if top.isZero then 0
    else
      let e : Int := if fmt = 0 then 8 else if fmt = 1 then 16 else 6
      (valLog2 top - e + 127).toNat

/-- The output blocks that a row of the window touches, with their scale bytes (R64, R102). -/
def rowScales (j : DrainJob) (vs : List Val) : List (Nat × Nat) :=
  let b := sBlock j.cw.sc
  (List.range ((j.n0 + j.cols - 1) / b - j.n0 / b + 1)).map (fun i =>
    let blk := j.n0 / b + i
    (blk, scaleByte j.cw.fmt ((vs.zipIdx).filterMap (fun (v, c) => if (j.n0 + c) / b = blk then some v else none))))

/-- An element converted under its block's scale byte (R64). -/
def scaledCode (fmt mode r12 byte : Nat) (v : Val) : Nat × Bool :=
  if byte = 0xFF then (nanCode fmt, false) else convert fmt mode r12 (v.scale (127 - byte))

/-- The conversion of one row: element records and the scale bytes of its blocks. -/
def finRow (narrow : Bool) (w : Draw) (j : DrainJob) (vs : List Val) (r : Nat) : List Fin × List (Nat × Nat) :=
  let k := j.cw
  let mode := regimeMode narrow k.fmt k.rnd
  let scs := if k.sc = 0 then [] else rowScales j vs
  ((vs.zipIdx).map (fun (v, c) =>
    let r12 := j.bits12 w r c
    let x := if j.unselected r c then (0, false) else if k.sc = 0 then convert k.fmt mode r12 v
      else scaledCode k.fmt mode r12 (((scs.find? (fun s => s.1 == (j.n0 + c) / sBlock k.sc)).map (·.2)).getD 0) v
    { r := r, c := c, val := v, code := x.1, sat := x.2 }), scs)

/-! ## Stage 6: the sillage histogram (R107) -/

/-- The offset in a copy of the counter that a value counts in. -/
def histBin : Val → Nat
  | .nan => 0x104
  | .inf _ => 0x108
  | .zero _ => 0x100
  | .num q => 4 * (min 63 (max 0 (ilog2 q.n.natAbs q.d + 48)).toNat)

/-- An element recorded at a copy's base. -/
def histPut (base : Nat) (x : Fin) (h : Tab Nat) : Tab Nat :=
  let up := fun (h : Tab Nat) (o : Nat) => h.set (base + o) (satInc 0xFFFFFFFF (h.get 0 (base + o)) 1)
  let h := up h (histBin x.val)
  if x.sat then up h 0x10C else h

/-! ## Stages 7 and 8: fulling and writes -/

/-- The value of a code as written, with its block's scale byte (R146); fulling sees an unselected element as zero (R153). -/
def writtenVal (j : DrainJob) (scs : List (Nat × Nat)) (x : Fin) : Val :=
  if j.unselected x.r x.c then .zero false
  else scaledVal j.cw.fmt (if j.cw.sc = 0 then none
    else (scs.find? (fun s => s.1 == (j.n0 + x.c) / sBlock j.cw.sc)).map (·.2)) x.code

/-- One value ranks above another by magnitude, NaN above all (R146, R147). -/
def rankAbove (a b : Val) : Bool :=
  if a.isNan then !b.isNan
  else if b.isNan then false
  else
    let x := if a.neg then a.negate else a
    let y := if b.neg then b.negate else b
    y.lt x

/-- The positions of a group that N:M fulling keeps, ascending (R147). -/
def nmKept (slots : Nat) (vs : List Val) : List Nat :=
  let xs := (vs.zipIdx).filter (fun x => !x.1.isZero)
  (xs.filter (fun x => decide ((xs.filter (fun y => rankAbove y.1 x.1
      || (!rankAbove x.1 y.1 && decide (y.2 < x.2)))).length < slots))).map (·.2)

/-- The metadata word of a group (R133, R134). -/
def nmWord (code : Nat) (kept : List Nat) : Nat :=
  let w := if code = 1 then 2 else 3
  ((kept.zipIdx).foldl (fun a (x, i) => a + x * 2 ^ (w * i)) 0) + kept.length * 2 ^ (if code = 1 then 4 else 12)

/-- The writes of a row in N:M output: slots and metadata of the groups the window touches (R147, R470). -/
def nmWrites (j : DrainJob) (code : Nat) (scs : List (Nat × Nat)) (r : Nat) (xs : List Fin) : List (Nat × List Byte) :=
  let gm := nmGroup code
  let sz := fmtSize j.cw.fmt
  let dst := j.dst + (j.m0 + r) * j.ld
  let info := 16 * bits (j.fulReg 0) 2 14 + (j.m0 + r) * nmMetaRow code j.width
  (List.range ((j.n0 + j.cols - 1) / gm - j.n0 / gm + 1)).flatMap (fun i =>
    let g := j.n0 / gm + i
    let cell := fun (q : Nat) => xs.find? (fun x => j.n0 + x.c == gm * g + q)
    let kept := nmKept (nmSlots code) ((List.range gm).map (fun q => match cell q with
      | some x => writtenVal j scs x
      | none => .zero false))
    let codes := kept.map (fun q => ((cell q).map (·.code)).getD 0)
    [(dst + g * nmSlots code * sz, (codes ++ List.replicate (nmSlots code - codes.length) 0).flatMap (le sz)),
     (info + g * nmMeta code, le (nmMeta code) (nmWord code kept))])

/-- The writes of a row in dense output. -/
def denseWrites (j : DrainJob) (r : Nat) (xs : List Fin) : List (Nat × List Byte) :=
  [(j.dst + (j.m0 + r) * j.ld + j.n0 * fmtSize j.cw.fmt, unelems j.cw.fmt (xs.map (·.code)))]

/-- The scale bytes of a row; padding after the last block of the row is 0 (R62, R64). The spec does not say which drain writes
the padding: the one that covers the row's last block does (DESIGN CHOICE, log 178). -/
def scaleWrites (j : DrainJob) (r : Nat) (scs : List (Nat × Nat)) : List (Nat × List Byte) :=
  let b := sBlock j.cw.sc
  let osc := 16 * bits (j.reg 0x18) 16 14 + (j.m0 + r) * sStride j.width j.cw.sc
  let last := cdiv j.width b
  (scs.map (fun (i, v) => (osc + i, le 1 v)))
    ++ (if scs.any (fun s => s.1 + 1 == last) ∧ last < sStride j.width j.cw.sc then
          [(osc + last, List.replicate (sStride j.width j.cw.sc - last) 0)] else [])

/-- Ranges written in order by a unit of the tile: the first that leaves the memory (0x0404) or meets a double-bit
error in a word it covers in part (0x0401) stops the rest (R76). -/
def storeAll (kind : Nat) : List (Nat × List Byte) → Tile → Tile × Option Nat
  | [], t => (t, none)
  | (a, bs) :: r, t =>
    if !inMem kind a bs.length then (t, some 0x0404)
    else match t.store a bs with
      | none => (t, some 0x0401)
      | some t => storeAll kind r t

/-- One block of block-sparse output: whether it is kept, its 256 codes row by row, its 16 row scale bytes. -/
structure FulBlock where
  bi : Nat
  bj : Nat
  kept : Bool
  codes : List Nat
  scales : List Nat
  deriving DecidableEq, Repr

/-- The blocks of the window, in row order (R146, R148). Nothing is below a threshold that is NaN, and every block is kept
(DESIGN CHOICE, log 178). -/
def fulBlocks (j : DrainJob) (rows : List (List Fin × List (Nat × Nat))) : List FulBlock :=
  let thr := ofF32 (BitVec.ofNat 32 (j.fulReg 4))
  let lines := (List.range ((j.m0 + j.rows - 1) / 16 - j.m0 / 16 + 1)).map (· + j.m0 / 16)
  let cols := (List.range ((j.n0 + j.cols - 1) / 16 - j.n0 / 16 + 1)).map (· + j.n0 / 16)
  lines.flatMap (fun bi => cols.map (fun bj =>
    let cells := (List.range 256).map (fun i =>
      let m := 16 * bi + i / 16
      let n := 16 * bj + i % 16
      if m < j.m0 then none
      else match rows[m - j.m0]? with
        | none => none
        | some (xs, scs) => (xs.find? (fun x => j.n0 + x.c == n)).map (fun x => (x.code, writtenVal j scs x)))
    let vals := cells.map (fun x => (x.map (·.2)).getD (.zero false))
    let mag := fun (v : Val) => if v.neg then v.negate else v
    let keep := if bits (j.fulReg 0) 0 2 = 0 then vals.any (fun v => !v.isZero)
      else vals.any (fun v => v.isNan || !(mag v).lt thr)
    { bi := bi, bj := bj, kept := keep, codes := cells.map (fun x => (x.map (·.1)).getD 0)
      scales := (List.range 16).map (fun i =>
        if 16 * bi + i < j.m0 then 0
        else match rows[16 * bi + i - j.m0]? with
          | some (_, scs) => ((scs.find? (fun s => s.1 == bj)).map (·.2)).getD 0
          | none => 0) }))

/-- A block written, dropped, or found without room (R148, R149). -/
def putBlock (p : Pos) (j : DrainJob) (b : FulBlock) (d : Dev) : Dev × Option Nat :=
  let t := d.tile p
  let sz := fmtSize j.cw.fmt
  let reg := 0x308 + 0x10 * j.cw.ful
  let blk := (t.ctlReg reg).toNat
  let next := bits blk 0 16
  let info := 16 * bits (j.fulReg 0) 2 14
  let e := info + 16 + (b.bi * lineEntries j.width + b.bj / 16) * 48
  let present := t.mem.readLe e 2
  let clear := present - flagAt (bit present (b.bj % 16)) (b.bj % 16)
  let go := fun (ws : List (Nat × List Byte)) (f : Tile → Tile) (d : Dev) =>
    match storeAll p.kind ws (d.tile p) with
    | (t, c) => (d.setTile p (if c.isNone then f t else t), c)
  if b.kept then
    (if next = bits blk 16 12 then
      let (d, c) := go [(e, le 2 clear)] (fun t => { t with ctl := t.ctl.set reg (t.ctlReg reg ||| 0x80000000) }) d
      (if c.isNone then eventOnce p 0x0107 0 d else d, c)
    else
      go ([(16 * bits (j.fulReg 0) 16 14 + next * 256 * sz, unelems j.cw.fmt b.codes),
           (e, le 2 (clear + 2 ^ (b.bj % 16))), (e + 16 + 2 * (b.bj % 16), le 2 next), (info, le 2 (next + 1))]
          ++ (if j.cw.sc = 1 then [(16 * bits (j.reg 0x18) 16 14 + next * 16, b.scales.flatMap (le 1))] else []))
        (fun t => { t with ctl := t.ctl.set reg (BitVec.ofNat 32 (blk - next + (next + 1) % 65536)) }) d)
  else go [(e, le 2 clear), (e + 16 + 2 * (b.bj % 16), le 2 0)] id d

/-- Blocks in order, until one cannot be written. -/
def putBlocks (p : Pos) (j : DrainJob) : List FulBlock → Dev → Dev × Option Nat
  | [], d => (d, none)
  | b :: r, d =>
    match putBlock p j b d with
    | (d, none) => putBlocks p j r d
    | (d, some c) => (d, some c)

/-! ## The end of a drain (R97, R100) -/

/-- The accord is FREE; the counters and the event of R100. -/
def endDrain (p : Pos) (j : DrainJob) (d : Dev) : Dev :=
  let a := (d.tile p).acc j.accord
  let sat := a.int && a.sat
  let d := d.onTile p (fun t =>
    let t := t.setAcc j.accord { a with st := .free, vals := [] }
    let t := { t with tensor := { t.tensor with drains := t.tensor.drains.drop 1 } }
    let t := if sat then t.count 7 1 else t
    wakeCause 10 (t.count 6 1))
  if sat then eventOnce p 0x0103 0 d else d

/-- Ranges that block-sparse output may write. -/
def blockRanges (t : Tile) (j : DrainJob) : List (Nat × Nat) :=
  let blk := (t.ctlReg (0x308 + 0x10 * j.cw.ful)).toNat
  let sz := fmtSize j.cw.fmt
  [(16 * bits (j.fulReg 0) 2 14, 16 + cdiv (j.m0 + j.rows) 16 * lineEntries j.width * 48),
   (16 * bits (j.fulReg 0) 16 14 + bits blk 0 16 * 256 * sz, 9 * 256 * sz)]

/-- A drain's whole work, once no range it writes is still being copied (R334). Its random bits take the step in which the drain
was issued, also when it runs after that step's crossing (DESIGN CHOICE, log 178): reads, values, conversion, histogram, writes; then the accord is FREE. -/
def runDrain (p : Pos) (j : DrainJob) (d0 : Dev) : Dev :=
  let d := d0
  let t := d.tile p
  let acc := t.acc j.accord
  let reads := finReads t.mem j acc.int acc
  let fail := fun (c : Nat) (d : Dev) => faultTile p c 0 { insn := j.insn } d
  if reads.any (fun r => !inMem p.kind r.1 r.2) then fail 0x0404 d
  else match t.sweep reads with
    | none => fail 0x0401 d
    | some t =>
      let d := d.setTile p t
      let w := { drawOf d p j.cw.stream with step := j.step }
      let rows := (List.range j.rows).map (fun r =>
        finRow (narrowAt d p) w j ((List.range j.cols).map (stageVal t.mem j acc r)) r)
      let base := 0x400 + 0x400 * j.cw.bank + (if j.began = t.step then 0 else 0x200)
      let d := if j.cw.hist then
          d.onTile p (fun t => { t with hist := (rows.flatMap (·.1)).foldl (fun h x => histPut base x h) t.hist }) else d
      let blocks := j.mode == some 0 || j.mode == some 1
      let ws := (rows.zipIdx).flatMap (fun ((xs, scs), r) =>
        if blocks then []
        else (if j.mode == some 2 then nmWrites j 1 scs r xs else if j.mode == some 3 then nmWrites j 2 scs r xs
              else denseWrites j r xs) ++ (if j.cw.sc = 0 then [] else scaleWrites j r scs))
      let held := (ws.map (fun x => (x.1, x.2.length)) ++ (if blocks then blockRanges t j else [])).any
        (fun x => copyProtected d p x.1 x.2)
      if held && !t.check.recording then d0
      else match storeAll p.kind ws (d.tile p) with
      | (t, some c) => fail c (d.setTile p t)
      | (t, none) =>
        match (if blocks then putBlocks p j (fulBlocks j rows) (d.setTile p t) else (d.setTile p t, none)) with
        | (d, some c) => fail c d
        | (d, none) => endDrain p j d

/-- A tile whose finishing may work: its job runs and is in no recovery; a tile that writes its boundary record and
one whose job is pausing still finish their drains (R99, R314, R334). -/
def Dev.drainLive (d : Dev) (p : Pos) : Bool :=
  match d.jobAt p with
  | some j => j.running && !d.map.isDead p && (d.energy.fields.get {} p.field).powered
      && !(d.energy.fields.get {} p.field).suspendedNow
  | none => false

/-- DRAIN_COMPLETE (R97, R101): the oldest drain in finishing hands over its last element, or a checker of finishing
finds an error. -/
def execDrainComplete (t : Pos) (upset : Option DrainUpset) : State → Out_ :=
  liftAt t.ok (fun d =>
    match (d.tile t).tensor.drains with
    | [] => d
    | j :: _ =>
      if !d.drainLive t then d
      else match upset with
        | some (.storage a) => raiseCheck t 2 a j.step d
        | some .convert => raiseCheck t 3 0 j.step d
        | some .activate => raiseCheck t 4 0 j.step d
        | none => runDrain t j d)

end Sys2Proof.Machine
end

