-- ==== Sys2Proof/Machine/Mailbox.lean ====
section
/-! DEFINITION. Mailbox commands of identity, firmware, training, maps and rank tables, HBM copies and tests; malformed
frames, snapshots, doorbells (R383, R386-R397, R404-R421, R440). -/

namespace Sys2Proof.Machine

/-! ## Identity (R395-R397, R399-R401) -/

/-- IDENT. -/
def identWord (d : Dev) : Nat := 0x2304 + 0xB0 * 2 ^ 16 + d.mod.inForce.variant % 4 * 2 ^ 24

/-- VERSIONS_0-VERSIONS_6. -/
def versionWords : List Nat := [0x00020301, 0x00020204, 0x00010102, 0x00010100, 0x00010200, 0x00020201, 0x00010100]

def asciiBytes (s : String) : List Byte := s.toList.map (fun c => BitVec.ofNat 8 c.toNat)

/-- The identity seed in force: the content of the newest valid generation of kind 1 (R376, R377). -/
def Boot.seed (b : Boot) : List Byte :=
  padTo 32 (match b.newest 1 with
    | some (_, .seed bs) => bs
    | _ => Config.noSeed)

/-- The identity private key. -/
def deviceSecret (b : Boot) : List Byte := (Config.sha512 (asciiBytes "Treonazan device identity v1" ++ b.seed)).take 32

def devicePublic (b : Boot) : List Byte := padTo 32 (Config.ed25519Public (deviceSecret b))

/-- The signature of an object, its signature field being 0 (R396). -/
def deviceSign (b : Boot) (context : String) (object : List Byte) : List Byte :=
  padTo 64 (Config.ed25519Sign (deviceSecret b) (Config.sha512 (asciiBytes context ++ object ++ List.replicate 64 0)))

/-- An object with its signature at its end. -/
def withSignature (b : Boot) (context : String) (object : List Byte) : List Byte := object ++ deviceSign b context object

/-- An object that ends in this device's signature of its kind. -/
def signatureGood (b : Boot) (context : String) (bs : List Byte) : Bool :=
  decide (64 ≤ bs.length)
    && Config.ed25519Verify (devicePublic b)
        (Config.sha512 (asciiBytes context ++ bs.take (bs.length - 64) ++ List.replicate 64 0)) (bs.drop (bs.length - 64))

/-- Module state as HELLO and IDENTIFY show it. -/
def stateCode : ModSt → Nat
  | .active => 0
  | .idle => 1
  | .parked => 2
  | .recovery => 4
  | _ => 3

/-- The session that HELLO agrees on: major and minor, none when no major fits (R407). -/
def chooseVersion (maxMajor maxMinor minMajor : Nat) : Option (Nat × Nat) :=
  (([3, 2] : List Nat).find? (fun m => decide (minMajor ≤ m ∧ m ≤ maxMajor))).map (fun m =>
    let own := if m = 3 then 1 else 3
    (m, if m = maxMajor then min maxMinor own else own))

/-- A session opened, the least recently used of 16 replaced; what it held goes with it. -/
def openSession (s : Session) (d : Dev) : Dev :=
  let mine := d.host.sessions.filter (fun x => x.tr == s.tr)
  let old : Option Nat :=
    if mine.length < 16 then none
    else (mine.foldl (fun (m : Option Session) x => match m with
      | some y => if x.used < y.used then some x else m
      | none => some x) none).map (·.id)
  let stays := fun (id : Nat) => old != some id
  let h := d.host
  { d with host := { h with
      sessions := h.sessions.filter (fun x => x.tr != s.tr || stays x.id) ++ [s]
      partials := h.partials.filter (fun x => stays x.session)
      snapshots := h.snapshots.filter (fun x => stays x.session)
      nextSession := (h.nextSession + 1) % 2 ^ 32 } }

/-- Response payload of HELLO. -/
def helloPayload (d : Dev) (major minor session : Nat) : List Byte :=
  le 1 major ++ le 1 minor ++ le 1 (stateCode d.mod.st) ++ le 1 d.mod.order ++ le 4 session ++ le 8 d.now ++ le 4 (identWord d)
    ++ le 4 d.host.nextSeq ++ versionWords.flatMap (le 4)

/-- HELLO. -/
def execHello (tr : Transport) (box seq maxMajor maxMinor minMajor : Nat) (push : Bool) : State → Out_ :=
  liftAt (boxOk tr box) (fun d =>
    match readRequest { tr := tr, box := box, session := 0, major := maxMajor, seq := seq, job := 0 } d with
    | none => d
    | some d =>
      match chooseVersion maxMajor maxMinor minMajor with
      | none =>
        respond { tr := tr, box := box, session := 0, major := 3, seq := seq, job := 0 } 0x01 0 stBadVersion 0 0xFFFFFFFF
          (helloPayload d 0 0 0) d
      | some (mj, mi) =>
        let id := d.host.nextSession
        let d := openSession { id := id, tr := tr, major := mj, minor := mi, push := push, used := d.now, kept := [], running := [] } d
        respond { tr := tr, box := box, session := id, major := mj, seq := seq, job := 0 } 0x01 0 stOK 0 0xFFFFFFFF
          (helloPayload d mj mi id) d)

/-- A byte per kind 0x01-0x05. -/
def perKind (f : Nat → Nat) : List Byte := ([1, 2, 3, 4, 5] : List Nat).flatMap (fun k => le 1 (f k))

/-- Newest valid generation of a kind; the thermometer's is the newest with contiguous bits. -/
def Boot.newestGen (b : Boot) (k : Nat) : Nat :=
  if k = 4 then (b.thermometer.map (·.1)).getD 0xFF else ((b.newest k).map (·.1)).getD 0xFF

/-- Isolated fields as a mask. -/
def MapSt.isolatedMask (m : MapSt) : Nat := m.isolated.eraseDups.foldl (fun x f => x + 2 ^ f) 0

/-- The flacon running. -/
def Boot.runLevel (b : Boot) : Nat := (b.running.map (·.level)).getD 0
def Boot.runVersion (b : Boot) : Nat := (b.running.map (·.version)).getD 0

/-- Response payload of IDENTIFY. -/
def identifyPayload (b : Boot) (d : Dev) : List Byte :=
  le 4 (identWord d) ++ le 8 Config.serial.toNat ++ devicePublic b
    ++ le 4 d.mod.inForce.ceiling ++ le 4 d.mod.inForce.envelope ++ le 4 d.mod.inForce.peak ++ le 4 d.mod.inForce.rate
    ++ le 8 b.runVersion ++ le 1 (flagAt b.runningB 0) ++ le 1 b.runLevel ++ le 1 b.count ++ le 1 (stateCode d.mod.st)
    ++ perKind b.newestGen ++ perKind (fun k => (b.blanks k).length) ++ le 2 d.map.holeGroups.length ++ le 4 d.map.condemned
    ++ le 8 d.map.isolatedMask

/-- IDENTIFY. -/
def execIdentify (r : Req) : State → Out_ := fun s =>
  if !boxOk r.tr r.box then .fault .noSuchPlace
  else liftBoot (requestBoot r 0x02 false (fun b d => (b, answerCmd r 0x02 stOK (identifyPayload b d) d))) s

def MapSt.spareTable (m : MapSt) : List Byte := spareBytes m.shown

/-- The measurement of R397. -/
def attestation (b : Boot) (d : Dev) (nonce : List Byte) : List Byte :=
  let body := nonce ++ devicePublic b ++ padTo 64 ((b.running.map (·.digest)).getD []) ++ le 8 b.runVersion
    ++ le 1 (flagAt b.runningB 0) ++ le 1 b.runLevel ++ le 2 d.mod.inForce.ceiling ++ le 1 d.mod.inForce.variant ++ le 1 b.count
    ++ le 1 0xB0 ++ le 1 0 ++ perKind b.newestGen ++ perKind (fun k => (b.blanks k).length) ++ le 6 0
    ++ padTo 64 (Config.sha512 (match b.newest 5 with
      | some (_, c) => c.bytes
      | none => []))
    ++ padTo 64 (Config.sha512 (d.map.entries.flatMap DefEntry.bytes ++ d.map.spareTable)) ++ le 8 d.now
  withSignature b "LNW-ATTEST" body

/-- ATTEST. -/
def execAttest (r : Req) (nonce : List Byte) : State → Out_ := fun s =>
  if !boxOk r.tr r.box then .fault .noSuchPlace
  else liftBoot (requestBoot r 0x03 false (fun b d =>
    (b, if nonce.length < 32 then answerCmd r 0x03 stBadArg [] d
        else answerCmd r 0x03 stOK (attestation b d (nonce.take 32)) d))) s

/-! ## Firmware (R389-R392, R416) -/

/-- A manifest entry: type, flags, offset, length, digest (R389). -/
def manifestEntry (bs : List Byte) (i : Nat) : Nat × Nat × Nat × Nat × List Byte :=
  let o := 0x100 + 96 * i
  (fieldLe bs o 2, fieldLe bs (o + 2) 2, fieldLe bs (o + 4) 8, fieldLe bs (o + 12) 8, slice bs (o + 32) 64)

/-- Item types the device knows. -/
def knownItem (t : Nat) : Bool := decide ((1 ≤ t ∧ t ≤ 7) ∨ t = 0x10 ∨ t = 0x11)

/-- Most bytes of a tile-firmware item. -/
def itemLimit (t : Nat) : Nat := if t = 5 ∨ t = 6 then 16384 else if t = 7 then 8192 else 2 ^ 26

/-- A settings content from its bytes (R378). -/
def settingsOf (bs : List Byte) : OtpContent :=
  let v := fieldLe bs 0 1
  .settings (bit v 0) (bit v 1) (bit v 2) (bit v 3) (bits v 4 2) (fieldLe bs 2 2)

/-- A variant-limits content from its bytes (R377). -/
def limitsOf (bs : List Byte) : OtpContent :=
  let x := Config.limitsFields bs
  .limits x.1 x.2.1 x.2.2.1 x.2.2.2.1 x.2.2.2.2

/-- A flacon read from its bytes (R389-R391). -/
def parseFlacon (bs : List Byte) : Flacon :=
  let n := fieldLe bs 0x14 4
  let items := (List.range n).map (manifestEntry bs)
  let item := fun (t : Nat) => (items.find? (fun x => x.1 == t)).map (fun x => slice bs x.2.2.1 x.2.2.2.1)
  let digest := Config.sha512 (slice bs 0 0x20 ++ slice bs 0x100 (96 * n))
  let key := fieldLe bs 6 1
  { major := fieldLe bs 4 1, minor := fieldLe bs 5 1, key := key, level := fieldLe bs 7 1, version := fieldLe bs 0x18 8
    wellFormed := slice bs 0 4 == [0x46, 0x4C, 0x43, 0x4E] && fieldLe bs 8 8 == bs.length && fieldLe bs 0x10 4 == 0xB0
      && decide (0x100 + 96 * n ≤ bs.length)
      && items.all (fun x => decide (x.2.2.1 + x.2.2.2.1 ≤ bs.length) && decide (x.2.2.2.1 ≤ itemLimit x.1)
          && (knownItem x.1 || !bit x.2.1 0))
      && ([1, 2, 3, 4, 5, 6, 7] : List Nat).all (fun t => items.any (fun x => x.1 == t))
    authentic := Config.ed25519Verify (Config.rinsetKey key) digest (slice bs 0x20 64)
      && items.all (fun x => Config.sha512 (slice bs x.2.2.1 x.2.2.2.1) == x.2.2.2.2)
    settings := (item 0x10).map settingsOf, limits := (item 0x11).map limitsOf, digest := digest
    firmware := ([5, 6, 7] : List Nat).map (fun t => (item t).getD []) }

/-- The inactive bank written. -/
def Boot.setInactive (f : Option Flacon) (b : Boot) : Boot := if b.activeB then { b with bankA := f } else { b with bankB := f }

/-- What a piece of a flacon does (R413, R416). -/
def stagePiece (r : Req) (p : Piece) (b : Boot) (d : Dev) : Boot × Dev :=
  let logged := p.offset == 0 || !p.more
  let bad := fun (b : Boot) (d : Dev) =>
    ({ b with staging := none, staged := false }, finish logged r 0x10 stBadArg 0 [] d)
  let before : Option (List Byte) :=
    if p.offset = 0 then some []
    else match b.staging with
      | some (s, t, bs) => if s = r.session ∧ t = p.total ∧ bs.length = p.offset then some bs else none
      | none => none
  if (match b.staging with
      | some (s, _, _) => s != r.session
      | none => false) then (b, finish logged r 0x10 stBusy 0 [] d)
  else match before with
  | none => bad b d
  | some bs =>
    let all := bs ++ p.bytes
    let b := if p.offset = 0 then { b.setInactive none with staged := false } else b
    if 2 ^ 26 < p.total ∨ p.total < all.length ∨ (!p.more ∧ all.length ≠ p.total) then bad b d
    else
      let b := if p.more then { b with staging := some (r.session, p.total, all) }
        else { b.setInactive (some (parseFlacon all)) with staging := none, staged := true }
      (b, finish logged r 0x10 stOK 0 (le 4 all.length) d)

/-- FW_STAGE. -/
def execFwStage (r : Req) (p : Piece) : State → Out_ := fun s =>
  if !boxOk r.tr r.box then .fault .noSuchPlace
  else liftBoot (requestBoot r 0x10 (p.offset == 0 || !p.more) (stagePiece r p)) s

/-- What FW_COMMIT does with the staged flacon (R392). -/
def commitFlacon (r : Req) (b : Boot) (d : Dev) : Boot × Dev :=
  let no := fun st => (b, finishCmd r 0x11 st 0 [] d)
  match (if b.staged then b.stagedBank else none) with
  | none => no stBadArg
  | some f =>
    if b.programming.isSome then no stBusy
    else if f.major ≠ 1 then no stBadVersion
    else if !verifies b f then no stBadSignature
    else if (match f.limits, b.newest 2 with
        | some c, some (_, o) => raisesLimit c o || !c.sound
        | some c, none => !c.sound
        | none, _ => false) then no stBadArg
    else if ((newItem b 3 f.settings).isSome && (b.blanks 3).isEmpty) || ((newItem b 2 f.limits).isSome && (b.blanks 2).isEmpty) then
      no stOtp
    else commitNext r f { b with commitGens := (255, 255) } d

/-- FW_COMMIT. -/
def execFwCommit (r : Req) : State → Out_ := fun s =>
  if !boxOk r.tr r.box then .fault .noSuchPlace
  else liftBoot (requestBoot r 0x11 true (commitFlacon r)) s

/-! ## Training (R386-R388, R416) -/

/-- A supplied training record that passes R387. -/
def recordGood (b : Boot) (d : Dev) (bs : List Byte) : Bool :=
  slice bs 0 4 == [0x54, 0x52, 0x4E, 0x52] && fieldLe bs 4 1 == 1 && slice bs 8 32 == devicePublic b
    && signatureGood b "LNW-TRAIN" bs && fieldLe bs 6 1 == b.newestGen 5
    && Config.savedWith bs (d.map.repairs.flatMap DefEntry.bytes)

/-- A port begins to retrain: its link drops, with 0x0803 when it was up (R388, R451). -/
def startRetrain (cause n : Nat) (d : Dev) : Dev :=
  let l := d.link n
  let lanes := ((List.range 8).filter l.rxMask.testBit).length
  let d := if l.st = .up then appendLog 0x0803 3 false 0 (portId n) (lanes + 16 * cause) 1 d else d
  d.setLink n { l with st := .training }

/-- TRAIN_LINKS begins: the named stacks and ports retrain, fast from saved settings or in full. -/
def beginTraining (r : Req) (stackMask portMask : Nat) (fast : Bool) (d : Dev) : Dev :=
  let d := d.each ((List.range 50).filter portMask.testBit) (startRetrain 2)
  { d with mod := { d.mod with training := some { req := r, stackMask := stackMask, portMask := portMask, fast := fast } } }

/-- TRAIN_LINKS with its whole record, empty when none was sent: mode 0 is fast where the stored record passes R387, mode 1
from the supplied one, mode 2 in full (R388, R416). -/
def trainWith (r : Req) (stackMask portMask mode : Nat) (bs : List Byte) (b : Boot) (d : Dev) : Boot × Dev :=
  let no := fun st => (b, finishCmd r 0x20 st 0 [] d)
  if d.jobs.any Job.onWafer then no stNotPermitted
  else if 2 < mode ∨ 2 ^ 24 ≤ stackMask ∨ 2 ^ 50 ≤ portMask ∨ (mode = 1 ∧ bs.isEmpty) then no stBadArg
  else if moving d then no stBusy
  else if mode = 1 then
    (if !recordGood b d bs then no stBadSignature
     else ({ b with slot := some { mapGen := fieldLe bs 6 1, repairs := d.map.repairs, bytes := bs, good := true } },
       beginTraining r stackMask portMask true d))
  else (b, beginTraining r stackMask portMask (mode == 0 && storedGood b d) d)

/-- TRAIN_LINKS. -/
def execTrainLinks (r : Req) (p : Piece) (stackMask portMask mode : Nat) : State → Out_ := fun s =>
  if !boxOk r.tr r.box then .fault .noSuchPlace
  else liftBoot (requestBoot r 0x20 true (fun b d =>
    match takePiece r 0x20 [stackMask, portMask, mode] p d with
    | (.bad, d) => (b, finishCmd r 0x20 stBadArg 0 [] d)
    | (.got n, d) => (b, answerCmd r 0x20 stOK (le 4 n) d)
    | (.whole bs, d) => trainWith r stackMask portMask mode bs b d)) s

/-- Lanes in service of a port: the fewer of its two directions. -/
def lanesOf (l : Link) : Nat :=
  min ((List.range 8).filter l.rxMask.testBit).length ((List.range 8).filter l.txMask.testBit).length

/-- TRAIN_LINKS_DONE: what the named resources came to; one that trains in full ends on no fast path (R388, R416). -/
def execTrainLinksDone (ss : List StackResult) (ps : List PortResult) : State → Out_ :=
  liftAt (ss.all (fun r => decide (r.stack < 24)) && ps.all (fun r => decide (r.port < 50))) (fun d =>
    match d.mod.training with
    | none => d
    | some x =>
      let ss := ss.filter (fun y => x.stackMask.testBit y.stack)
      let ps := ps.filter (fun y => x.portMask.testBit y.port)
      if !(x.fast || (ss.all (fun y => decide (2 ≤ y.outcome)) && ps.all (·.full))) then d
      else
      let d := (d.each ss applyStack).each ps (applyPort false)
      let d : Dev := { d with mod := { d.mod with training := none } }
      let a := (List.range 24).flatMap (fun k => le 1 (match ss.find? (fun x => x.stack == k) with
        | some x => x.outcome
        | none => 0xFF))
      let b := (List.range 50).flatMap (fun n => le 1 (if ps.any (fun x => x.port == n) then lanesOf (d.link n) else 0xFF))
      finishCmd x.req 0x20 stOK 0 (a ++ b) d)

/-- Bytes of the two bodies of a training record: 4 for each of the 64 lanes of the 32 channels of 24 stacks, 64 for each of the
8 lanes of 48 fabric ports and the 4 of two tether ports (R386). -/
def hbmBody : Nat := 24 * 32 * 64 * 4
def optBody : Nat := (48 * 8 + 2 * 4) * 64

/-- The training record as it stands; the settings in its two bodies are values the spec does not give (R386, log 10). -/
def trainingRecord (b : Boot) (d : Dev) : List Byte × Dev :=
  let hbm := padTo hbmBody (Config.freeBytes d.freeCtr)
  let opt := padTo optBody (Config.freeBytes (d.freeCtr + 1))
  (withSignature b "LNW-TRAIN" ([0x54, 0x52, 0x4E, 0x52] ++ le 1 1 ++ le 1 0 ++ le 1 (b.newestGen 5) ++ le 1 0 ++ devicePublic b
      ++ le 8 d.now ++ le 4 hbmBody ++ le 4 optBody ++ le 8 0 ++ hbm ++ opt),
    { d with freeCtr := d.freeCtr + 2 })

/-- SAVE_TRAINING: the snapshot is taken, and the slot written, at offset 0. -/
def execSaveTraining (r : Req) (snap offset : Nat) (recordOnly : Bool) : State → Out_ := fun s =>
  if !boxOk r.tr r.box then .fault .noSuchPlace
  else
    let first := offset == 0 && snap == 0
    liftBoot (requestBoot r 0x21 (first && !recordOnly) (fun b d =>
      if !first then (b, laterPage r 0x21 snap offset d)
      else
        let (bs, d) := trainingRecord b d
        if recordOnly then (b, firstPage r 0x21 0xFFFFFFFF bs d)
        else
          let seq := d.host.nextSeq
          ({ b with slot := some { mapGen := b.newestGen 5, repairs := d.map.repairs, bytes := bs, good := true } },
            firstPage r 0x21 seq bs (cmdRecord (trCode r.tr) 0x21 stOK 0 r.job d)))) s

/-! ## Events (R422) -/

/-- READ_EVENTS. -/
def execReadEvents (r : Req) (fromSeq most : Nat) : State → Out_ :=
  liftAt (boxOk r.tr r.box) (request r 0x51 false (fun d =>
    if most < 1 ∨ 125 < most then answerCmd r 0x51 stBadArg [] d
    else
      let oldest := match d.host.log with
        | x :: _ => x.seq
        | [] => d.host.nextSeq
      let l := (d.host.log.filter (fun x => decide (fromSeq ≤ x.seq))).take most
      answerCmd r 0x51 stOK (le 4 oldest ++ le 4 d.host.nextSeq ++ le 2 l.length ++ le 6 0 ++ l.flatMap LogRec.toBytes) d))

/-! ## Maps (R382, R383, R420) -/

/-- The refinement record. -/
def refinementRecord (b : Boot) (d : Dev) : List Byte :=
  let l := sortEntries d.map.added
  withSignature b "LNW-REFINE" ([0x52, 0x46, 0x4E, 0x52] ++ le 1 (b.newestGen 5) ++ le 3 0 ++ devicePublic b ++ le 8 d.now
    ++ le 4 l.length ++ le 12 0 ++ l.flatMap DefEntry.bytes)

/-- The count of corrected lines of every stack, 4 bytes each: R276 has MAP_READ report it and R420 gives it no place (log 149). -/
def correctedBytes (d : Dev) : List Byte := (List.range 24).flatMap (fun s => le 4 (d.brim.corrected.get 0 s))

/-- What MAP_READ returns. -/
def mapObject (b : Boot) (d : Dev) : List Byte :=
  let l := d.map.entries
  let x := refinementRecord b d
  le 1 (b.newestGen 5) ++ le 1 0 ++ le 2 d.map.holeGroups.length ++ le 4 l.length ++ le 4 (32 + 7680 + 8 * l.length)
    ++ le 4 x.length ++ le 8 d.map.isolatedMask ++ le 8 0 ++ d.map.spareTable ++ l.flatMap DefEntry.bytes ++ x
    ++ correctedBytes d

/-- MAP_READ. -/
def execMapRead (r : Req) (snap offset : Nat) : State → Out_ := fun s =>
  if !boxOk r.tr r.box then .fault .noSuchPlace
  else liftBoot (requestBoot r 0x60 false (fun b d =>
    (b, if offset ≠ 0 ∨ snap ≠ 0 then laterPage r 0x60 snap offset d
        else firstPage r 0x60 0xFFFFFFFF (mapObject b d) d))) s

/-- An entry from its bytes. -/
def entryOf (bs : List Byte) : DefEntry :=
  let v := fieldLe bs 1 3
  { ty := fieldLe bs 0 1, pos := ⟨bits v 0 9, bits v 9 9⟩, flag := bit v 18, detail := fieldLe bs 4 4 }

/-- The entries of a refinement record. -/
def recordEntries (bs : List Byte) : List DefEntry :=
  (List.range (fieldLe bs 0x30 4)).map (fun i => entryOf (slice bs (0x40 + 8 * i) 8))

/-- The checks of both modes: a status, or the entries (R383). -/
def refineChecks (b : Boot) (base : List DefEntry) (bs : List Byte) : Except Nat (List DefEntry) :=
  let l := recordEntries bs
  if slice bs 0 4 ≠ [0x52, 0x46, 0x4E, 0x52] ∨ bs.length ≠ 0x40 + 8 * fieldLe bs 0x30 4 + 64 then .error stBadArg
  else if !signatureGood b "LNW-REFINE" bs || slice bs 8 32 != devicePublic b then .error stBadSignature
  else if fieldLe bs 4 1 ≠ b.newestGen 5 ∨ l.any (fun e => e.ty < 1 ∨ 5 < e.ty) ∨ 5181 < (({} : MapSt).withEntries base (mergeEntries [] l)).live.length then
    .error stBadArg
  else .ok l

/-- Apply mode with its whole record: merged, and the map built and switched again. -/
def applyRefinement (r : Req) (bs : List Byte) (b : Boot) (d : Dev) : Dev :=
  let no := fun st => finishCmd r 0x61 st 0 [] d
  if d.jobs.any Job.onWafer then no stNotPermitted
  else if moving d then no stBusy
  else match refineChecks b d.map.live bs with
    | .error st => no st
    | .ok l =>
      let new := l.filter (fun e => !holdsEntry d.map.live e)
      let m := d.map.withEntries d.map.base (mergeEntries d.map.added new)
      startChange { req := some r } { d with map := { m with applied := m.applied ++ new } }

/-- MAP_REFINE_COMMIT in apply mode. -/
def execMapRefineApply (r : Req) (p : Piece) : State → Out_ := fun s =>
  if !boxOk r.tr r.box then .fault .noSuchPlace
  else liftBoot (requestBoot r 0x61 true (fun b d => (b, pieceCommand r 0x61 [0] p (fun bs d => applyRefinement r bs b d) d))) s

/-- Commit mode with its whole record: a new defect-map generation, with the recomputed spare table. -/
def commitRefinement (r : Req) (bs : List Byte) (b : Boot) (d : Dev) : Boot × Dev :=
  let no := fun st => (b, finishCmd r 0x61 st 0 [] d)
  let (named, base) := b.defects
  if b.programming.isSome then no stBusy
  else match refineChecks b base bs with
    | .error st => no st
    | .ok l =>
      match b.blanks 5 with
      | [] => no stOtp
      | n :: _ =>
        let m := MapSt.withEntries base (mergeEntries [] l) { named := named }
        ({ b with programming := some (5, n, .defects m.shown m.entries, some r) }, d)

/-- MAP_REFINE_COMMIT in commit mode. -/
def execMapRefineCommit (r : Req) (p : Piece) : State → Out_ := fun s =>
  if !boxOk r.tr r.box then .fault .noSuchPlace
  else liftBoot (requestBoot r 0x61 true (fun b d =>
    match takePiece r 0x61 [1] p d with
    | (.bad, d) => (b, finishCmd r 0x61 stBadArg 0 [] d)
    | (.got n, d) => (b, answerCmd r 0x61 stOK (le 4 n) d)
    | (.whole bs, d) => commitRefinement r bs b d)) s

/-! ## SET_RANK_TABLE (R440) -/

/-- Ranges are sorted, apart, and within the ranks. -/
def rangesOk : List (Nat × Nat × Nat × Nat) → Bool
  | [] => true
  | [(a, b, _, _)] => decide (a ≤ b ∧ b ≤ 131071)
  | (a, b, _, _) :: (c, e, p, n) :: r => decide (a ≤ b ∧ b < c) && rangesOk ((c, e, p, n) :: r)

/-- The ports of a range exist. -/
def portsOk (p n : Nat) : Bool :=
  decide (1 ≤ n ∧ n ≤ 8) && (if p = 48 then decide (n ≤ 2) else decide (p + n - 1 ≤ 47))

/-- A rank table from its bytes; none when it is refused. -/
def parseRanks (d : Dev) (j : Job) (bs : List Byte) : Option RankTable :=
  let n := fieldLe bs 0x14 4
  let rows := fieldLe bs 0x18 2
  let t : RankTable := {
    fjob := fieldLe bs 8 2, own := bits (fieldLe bs 0x0C 4) 0 17, ndev := fieldLe bs 0x10 4
    ranges := (List.range n).map (fun i =>
      let o := 0x40 + 12 * i
      (fieldLe bs o 4, fieldLe bs (o + 4) 4, fieldLe bs (o + 8) 1, fieldLe bs (o + 9) 1))
    rows := (List.range rows).map (fun i => fieldLe bs (0x40 + 12 * n + i) 1)
    egressDefault := fieldLe bs 0x1A 1 }
  let sum := fieldLe bs 0x3C 4
  if slice bs 0 4 == [0x52, 0x4E, 0x4B, 0x54] && fieldLe bs 4 1 == 1 && decide (n ≤ 4096)
      && decide (rows = 0 ∨ rows = j.img.h) && decide (0x40 + 12 * n + rows ≤ bs.length)
      && crc32c (slice bs 0 0x3C ++ le 4 0 ++ bs.drop 0x40) == sum
      && !d.jobs.any (fun x => x.slot != j.slot && (match x.ranks with
        | some u => u.fjob == t.fjob
        | none => false))
      && decide (t.own < t.ndev ∧ t.ndev = j.img.ndev) && rangesOk t.ranges && t.ranges.all (fun x => portsOk x.2.2.1 x.2.2.2)
      && t.rows.all (fun e => decide (e ≤ 47)) && decide (t.egressDefault ≤ 47) then some t
  else none

/-- SET_RANK_TABLE: a running job's table comes with a table change; another job's is stored (R420). -/
def execSetRankTable (r : Req) (p : Piece) : State → Out_ :=
  liftAt (boxOk r.tr r.box) (jobRequest r 0x62 true (fun j => pieceCommand r 0x62 [r.job] p (fun bs d =>
    if j.st = .halted then finishCmd r 0x62 stNotPermitted 0 [] d
    else match parseRanks d j bs with
      | none => finishCmd r 0x62 stBadArg 0 [] d
      | some t =>
        if j.st = .running then startChange { ranks := [(j.slot, t)], req := some r } d
        else finishCmd r 0x62 stOK 0 (le 1 (flagAt d.map.epoch 0))
          (d.onJob j.slot (fun x => { x with ranks := some t, oldRanks := some t })))))

/-! ## HBM_COPY (R421) -/

/-- A range that HBM_COPY may name. -/
def copyRangeOk (a n : Nat) : Bool :=
  match devAddr a with
  | .hbm _ _ => hbmRangeOk a n
  | .tile px py off => (Pos.ok ⟨px, py⟩) && decide (a % 4 = 0) && inMem (Pos.kind ⟨px, py⟩) off n
  | .unmapped => n == 0

/-- A tile-space range in the footprint of a RUNNING or HALTED job. -/
def copyHeld (d : Dev) (a : Nat) : Bool :=
  match devAddr a with
  | .tile px py _ => d.jobs.any (fun j => j.onWafer && (match j.origin with
      | some o => inFootprint j.img o ⟨px, py⟩
      | none => false))
  | _ => false

/-- Two ranges share a byte. -/
def copyMeets (a b n : Nat) : Bool :=
  match devAddr a, devAddr b with
  | .tile px py x, .tile qx qy y => px == qx && py == qy && decide (x < y + n ∧ y < x + n)
  | .hbm _ _, .hbm _ _ => hbmMeet a n b n
  | _, _ => false

/-- Bytes read by device address; a line or a word with an error no code corrects gives none, so free bytes stand in the place
of the range (R269, R276, log 10). -/
def readAny (a n : Nat) (d : Dev) : List Byte × Dev :=
  match devAddr a with
  | .tile px py off =>
    (match (d.tile ⟨px, py⟩).load off n with
     | some (bs, t) => (bs, d.setTile ⟨px, py⟩ t)
     | none => openBytes n d)
  | _ => if poisonedIn d a n then openBytes n d else (d.brim.hbmRead a n, d)

/-- Bytes written by device address; a part of a word with a double-bit error leaves its error standing (R76). -/
def writeAny (a : Nat) (bs : List Byte) (d : Dev) : Dev :=
  match devAddr a with
  | .tile px py off => d.onTile ⟨px, py⟩ (fun t => match t.store off bs with
      | some t => t
      | none => t.overwrite off bs)
  | _ => { d with brim := d.brim.hbmWrite a bs }

/-- HBM_COPY: copy. -/
def execHbmCopy (r : Req) (src dst len : Nat) : State → Out_ :=
  liftAt (boxOk r.tr r.box) (request r 0x70 true (fun d =>
    if !copyRangeOk src len || !copyRangeOk dst len || (len != 0 && copyMeets src dst len) then finishCmd r 0x70 stBadArg 0 [] d
    else if copyHeld d src || copyHeld d dst then finishCmd r 0x70 stNotPermitted 0 [] d
    else
      let (bs, d) := readAny src len d
      finishCmd r 0x70 stOK 0 [] (writeAny dst bs d)))

/-- HBM_COPY: write. -/
def execHbmCopyWrite (r : Req) (dst len : Nat) (data : List Byte) : State → Out_ :=
  liftAt (boxOk r.tr r.box) (request r 0x70 true (fun d =>
    if 4000 < len ∨ data.length < len ∨ !copyRangeOk dst len then finishCmd r 0x70 stBadArg 0 [] d
    else if copyHeld d dst then finishCmd r 0x70 stNotPermitted 0 [] d
    else finishCmd r 0x70 stOK 0 [] (writeAny dst (data.take len) d)))

/-- HBM_COPY: read. -/
def execHbmCopyRead (r : Req) (src len : Nat) : State → Out_ :=
  liftAt (boxOk r.tr r.box) (request r 0x70 false (fun d =>
    if 4000 < len ∨ !copyRangeOk src len then answerCmd r 0x70 stBadArg [] d
    else if copyHeld d src then answerCmd r 0x70 stNotPermitted [] d
    else
      let (bs, d) := readAny src len d
      answerCmd r 0x70 stOK bs d))

/-! ## Tests, frames, snapshots, doorbells -/

/-- TEST_CONTROL (R348, R421). -/
def execTestControl (r : Req) (suspend logSquash : Bool) : State → Out_ :=
  liftAt (boxOk r.tr r.box) (request r 0x80 true (fun d =>
    let d : Dev := { d with map := { d.map with suspendTests := suspend, logSquash := logSquash } }
    finishCmd r 0x80 stOK 0 (le 1 (flagAt suspend 0 + flagAt logSquash 1) ++ le 3 0 ++ le 4 d.map.tests ++ le 4 d.map.testFails) d))

/-- MALFORMED_FRAME: no answer on a datagram transport; BAD_ARGUMENT in a mailbox, its opcode field a free value, since
none could be read (R406, log 10). -/
def execMalformedFrame (tr : Transport) (box seq : Nat) : State → Out_ :=
  liftAt (boxOk tr box) (fun d =>
    let r : Req := { tr := tr, box := box, session := 0, major := 3, seq := seq, job := 0 }
    if tr ≠ .tether then d
    else match readRequest r d with
      | none => d
      | some d =>
        let (op, d) := freeCode d
        respond r op 0 stBadArg 0 0xFFFFFFFF [] d)

/-- SNAPSHOT_EXPIRY: 10 s without a read (R412). -/
def execSnapshotExpiry (snap : Nat) : State → Out_ :=
  lift (fun d => { d with host := { d.host with snapshots := d.host.snapshots.filter (fun x => x.id != snap) } })

/-- The done bit of a mailbox written with 1: idle (R404). -/
def clearDone (n : Nat) (d : Dev) : Dev :=
  if d.carries .tether && d.host.doorbells.get 0 n == 2 then
    { d with host := { d.host with doorbells := d.host.doorbells.set n 0 } }
  else d

/-- DOORBELL_DONE. -/
def execDoorbellDone (n : Nat) : State → Out_ := liftAt (decide (n < 16)) (clearDone n)

end Sys2Proof.Machine
end

