-- ==== Sys2Proof/Machine/Links.lean ====
section
/-! DEFINITION. Optical links and the tether: blocks, credits, capability exchange, lanes, arriving packets, discards,
tether registers and the HBM window (R399, R402, R423, R430-R451). -/

namespace Sys2Proof.Machine

/-! ## Credits and blocks (R430-R435) -/

/-- The counts of a link's virtual lanes. -/
def laneCounts (m : Tab Nat) : List Nat := (List.range 4).map (fun v => m.get 0 v)

/-- A CREDIT frame with the counts freed. -/
def emitCredits (n : Nat) (d : Dev) : Dev := d.emit (.credit n (laneCounts (d.link n).freed))

/-- A count grows modulo 65,536. -/
def grow (m : Tab Nat) (v k : Nat) : Tab Nat := m.set v ((m.get 0 v + k) % 65536)

/-- The markers that count: of a lane in service, its CRC-8 good (R430). -/
def markersOf (l : Link) (ms : List Marker) : List Marker :=
  (List.range 8).filterMap (fun lane => if l.rxMask.testBit lane then ms.find? (fun m => m.lane == lane && m.good) else none)

/-- The mask on which more than half of the lanes in service agree (R430). -/
def blockMask (l : Link) (ms : List Marker) : Option Nat :=
  let votes := (markersOf l ms).map (·.mask)
  votes.find? (fun m => decide (laneCount l.rxMask < 2 * votes.count m))

/-- A block's header checks: its CRC-8, the mask of its markers, lanes in service (R430, R431, R434). -/
def blockGood (l : Link) (hdr : List Byte) (ms : List Marker) : Bool :=
  hdr.length == 16 && crc8 (hdr.take 15) == fieldLe hdr 15 1
    && (match blockMask l ms with
      | some m => m == fieldLe hdr 10 1 && m &&& l.rxMask == m
      | none => false)

/-- Credits lost in discarded blocks are freed: what the header says was sent less what was received (R435). -/
def settleBlock (hdr : List Byte) (l : Link) : Link :=
  let sent := fun v => fieldLe hdr (2 + 2 * v) 2
  let lost := fun v => (sent v + 65536 - l.recv.get 0 v) % 65536
  { l with
    bseq := fieldLe hdr 0 2
    laneDue := l.laneDue && fieldLe hdr 11 1 != l.laneSeq
    freed := ([0, 1, 2, 3] : List Nat).foldl (fun m v => grow m v (lost v)) l.freed
    recv := ([0, 1, 2, 3] : List Nat).foldl (fun (m : Tab Nat) v => Tab.set m v (sent v)) l.recv }

/-- LINK_BLOCK. -/
def execLinkBlock (port : Nat) (hdr : List Byte) (marker : List Marker) : State → Out_ :=
  liftAt (decide (port < 50)) (fun d =>
    let l := d.link port
    if (l.st == .up || l.st == .aligned) && blockGood l hdr marker then
      (let l' := settleBlock hdr l
       let d := d.setLink port l'
       if laneCounts l'.freed = laneCounts l.freed then d else emitCredits port d)
    else d)

/-- A count newer than the last one accepted. -/
def newer (c old : Nat) : Bool := decide (0 < (c + 65536 - old) % 65536 ∧ (c + 65536 - old) % 65536 < 32768)

/-- CREDIT_FRAME: what the peer has freed lets waiting packets go (R435). -/
def execCreditFrame (port : Nat) (counts : List Nat) : State → Out_ :=
  liftAt (decide (port < 50)) (fun d =>
    let l := d.link port
    if l.st ≠ .up then d
    else pumpPort port (d.setLink port { l with
      peerFreed := ([0, 1, 2, 3] : List Nat).foldl (fun (m : Tab Nat) v =>
        let c := counts.getD v (l.peerFreed.get 0 v) % 65536
        if newer c (l.peerFreed.get 0 v) then Tab.set m v c else m) l.peerFreed }))

/-- LINK_CREDIT_REPEAT. -/
def execLinkCreditRepeat (port : Nat) : State → Out_ :=
  liftAt (decide (port < 50)) (fun d => if (d.link port).st = .up then emitCredits port d else d)

/-! ## Capability exchange (R436, R437) -/

/-- The version both ends accept: the highest common major, and the minor within it; at a major that is not this port's
newest the spec gives its minor none, so the peer's stands. -/
def agree (n : Nat) (c : Cap) : Option (Nat × Nat) :=
  let (mj, mi, lo) := ownVersion n
  let m := min mj c.major
  if c.kind ≠ (if n < 48 then 0 else 1) ∨ m < max lo c.minMajor then none
  else some (m, if c.major = mj then min mi c.minor else if m = mj then mi else c.minor)

/-- Version negotiation failed: 0x0802, once per port per hour. -/
def refusePeer (n : Nat) (c : Cap) (d : Dev) : Dev :=
  let l := d.link n
  let again := match l.logged0802 with
    | some t => decide (d.now - t < 3600000000)
    | none => false
  let d := d.setLink n { l with st := .failed, logged0802 := if again then l.logged0802 else some d.now }
  if again then d else appendLog 0x0802 3 false 0 (portId n) (c.major + 256 * c.minMajor + 65536 * c.kind) 1 d

/-- The link comes up with the peer's credits, and what waited goes; CAP, sent since alignment, ends (R437). -/
def bringUp (n major minor : Nat) (c : Cap) (d : Dev) : Dev :=
  let l := d.link n
  let l := { l with
    st := .up, major := major, minor := minor, peerSerial := c.serial
    credits := (c.credits.take 4).zipIdx.map (fun x => (x.2, x.1)), sent := [], peerFreed := [], recv := [], freed := [] }
  let d := d.setLink n l
  let d := appendLog 0x0804 3 false 0 (portId n) (lanesOf l + 16 * major + 256 * minor + 4096 * (c.serial % 2 ^ 20)) 1 d
  pumpPort n d

/-- CAP_FRAME. -/
def execCapFrame (port : Nat) (c : Cap) : State → Out_ :=
  liftAt (decide (port < 50)) (fun d =>
    let l := d.link port
    if l.st ≠ .aligned ∧ l.st ≠ .failed then d
    else match agree port c with
      | some (mj, mi) => bringUp port mj mi c d
      | none => refusePeer port c d)

/-- CAP_REPEAT: a failed port repeats CAP every second. -/
def execCapRepeat (port : Nat) : State → Out_ :=
  liftAt (decide (port < 50)) (fun d => if (d.link port).st = .failed then sendCap port d else d)

/-! ## Lanes (R438, R439) -/

/-- A mask without a lane. -/
def dropLane (m lane : Nat) : Nat := if m.testBit lane then m - 2 ^ lane else m

/-- LANE_LOSS: a receive lane goes out of service; the LANE frame says so. -/
def execLaneLoss (port lane : Nat) : State → Out_ :=
  liftAt (decide (port < 50) && decide (lane < 8)) (fun d =>
    let l := d.link port
    if l.st ≠ .up ∨ !l.rxMask.testBit lane then d
    else
      let rx := dropLane l.rxMask lane
      let seq := (l.laneSeq + 1) % 256
      let d := d.setLink port { l with rxMask := rx, laneSeq := seq, laneDue := true }
      appendLog 0x0801 3 false 0 (portId port) (lane + 16 * laneCount rx) 1 (d.emit (.lane port rx seq)))

/-- LANE_REPEAT: until the peer has applied it. -/
def execLaneRepeat (port : Nat) : State → Out_ :=
  liftAt (decide (port < 50)) (fun d =>
    let l := d.link port
    if l.st = .up ∧ l.laneDue then d.emit (.lane port l.rxMask l.laneSeq) else d)

/-- LANE_FRAME: the peer's mask narrows what this port transmits on. -/
def execLaneFrame (port mask seq : Nat) : State → Out_ :=
  liftAt (decide (port < 50)) (fun d =>
    let l := d.link port
    if l.st ≠ .up ∨ l.laneApplied = seq then d
    else d.setLink port { l with txMask := l.txMask &&& mask, laneApplied := seq })

/-- A lane of a port is missing beyond those fused out. -/
def lacksLane (n : Nat) (l : Link) : Bool :=
  decide (laneCount l.rxMask + laneCount l.fusedRx < portLanes n ∨ laneCount l.txMask + laneCount l.fusedTx < portLanes n)

/-- The cause of a link's fall holds: 0 all lanes of a direction lost, 1 no block for 10 µs, 3 a lane of a 1.x link lost
(R439, R451). -/
def fallCause (n : Nat) (l : Link) (cause : Nat) : Bool :=
  if cause = 0 then l.rxMask == 0 || l.txMask == 0
  else if cause = 1 then true
  else cause == 3 && l.major == 1 && lacksLane n l

/-- LINK_DOWN: 0x0803; queues and held writes stay. -/
def execLinkDown (port cause : Nat) : State → Out_ :=
  liftAt (decide (port < 50)) (fun d =>
    let l := d.link port
    if l.st ≠ .up ∨ !fallCause port l cause then d
    else appendLog 0x0803 3 false 0 (portId port) (laneCount l.rxMask + 16 * cause) 1 (d.setLink port { l with st := .down }))

/-- LINK_RETRAIN: at most once in 10 s. -/
def execLinkRetrain (port : Nat) : State → Out_ :=
  liftAt (decide (port < 50)) (fun d =>
    let l := d.link port
    let soon : Bool := match l.lastRetrain with
      | some t => decide (d.now - t < 10000000)
      | none => false
    if l.st ≠ .down ∨ soon then d else d.setLink port { l with st := .training, lastRetrain := some d.now })

/-- LINK_RETRAIN_DONE. A port that a TRAIN_LINKS retrains ends with that command. -/
def execLinkRetrainDone (res : PortResult) : State → Out_ :=
  liftAt (decide (res.port < 50)) (fun d =>
    let named : Bool := match d.mod.training with
      | some x => x.portMask.testBit res.port
      | none => false
    if (d.link res.port).st = .training ∧ !named then applyPort false res d else d)

/-! ## Arriving packets (R250 order 4, R339, R442-R444, R449) -/

/-- The job that a fabric job identifier names. -/
def jobOfFjob (d : Dev) (fjob : Nat) : Option Job :=
  d.jobs.find? (fun j => match j.ranks with
    | some t => t.fjob == fjob
    | none => false)

/-- A frame is off the link: its credits are received and freed (R435). -/
def takeFrame (n : Nat) (k : Packet) (d : Dev) : Dev :=
  let l := d.link n
  emitCredits n (d.setLink n { l with recv := grow l.recv k.vl (frameCredits k), freed := grow l.freed k.vl (frameCredits k) })

/-- A discarded frame, counted under its cause (R442, R451). -/
def discardFrame (n cause fjob : Nat) (k : Packet) (d : Dev) : Dev := tallyDiscard n cause fjob (takeFrame n k d)

/-- The header as order 4 of R250 sets it; a packet from the host takes its tether port tile as its source. -/
def arriving (n srcRank : Nat) (j : Job) (k : Packet) : Packet :=
  { k with jslot := j.slot, rank := srcRank, hops := 0, epoch := j.epoch, pfx := none, xdev := decide (n < 48)
           src := if n < 48 then k.src else .port (portId n) }

/-- A packet that names no tile of the job is answered with NACK 0x0304 to the device or host it came from. -/
def nackAbroad (n fjob : Nat) (t : RankTable) (k : Packet) (d : Dev) : Dev :=
  let a := { portAnswer (portId n) k .nack 0x0304 [] with xdev := true, rank := k.rank }
  if 48 ≤ n then fabricOut n fjob 1 a d
  else match t.find k.rank with
    | .port m =>
      if m = n then fabricOut n fjob 1 a d
      else d.portToPort (portId n) (portId (tetherChoice d m)) { a with pfx := some a.dst } (some (fjob, 1))
    | _ => d

/-- A packet for this device: delivered, and from another device entered in the ingress log. -/
def deliverFrame (n fjob : Nat) (j : Job) (t : RankTable) (k : Packet) (d : Dev) : Dev :=
  let known := match k.dst with
    | .region c => (regionAddr d j c).isSome
    | _ => true
  if !known then nackAbroad n fjob t k d
  else
    let d := if n < 48 then d.onPort (portId n) (fun x => { x with ingress := x.ingress ++ [(j.slot, k, 2)] }) else d
    deliverHere (portId n) j k d

/-- What a port tile does with a DATA frame. -/
def handleFrame (n fjob fhops srcRank : Nat) (k : Packet) (d : Dev) : Dev :=
  match jobOfFjob d fjob with
  | none => discardFrame n 0 fjob k d
  | some j =>
    match (d.rankTable j k.epoch).orElse (fun _ => j.ranks) with
    | none => discardFrame n 0 fjob k d
    | some t =>
      if 48 ≤ n ∨ k.rank = t.own then
        (if j.origin.isNone then discardFrame n 4 fjob k d
         else
          let a := arriving n srcRank j k
          if n < 48 ∧ !bufferRoom d (portId n) (HeldKind.packet a).bytes then d
          else deliverFrame n fjob j t a (takeFrame n k d))
      else match t.find k.rank with
        | .port m =>
          let m := tetherChoice d m
          if m = n then discardFrame n 2 fjob k d
          else if 16 ≤ fhops then discardFrame n 3 fjob k d
          else (takeFrame n k d).portToPort (portId n) (portId m) { k with pfx := some k.dst } (some (fjob, fhops + 1))
        | _ => discardFrame n 1 fjob k d

/-- DATA_FRAME. A packet that finds no room in the ingress log waits on its link. -/
def execDataFrame (port fjob fhops srcRank : Nat) (p : Packet) : State → Out_ :=
  liftAt (decide (port < 50)) (fun d =>
    if (d.link port).st = .up then handleFrame port fjob fhops srcRank p d else d)

/-- DISCARD_SUMMARY: one 0x0805 record per port, cause and fjob of the second (R451). -/
def execDiscardSummary : State → Out_ :=
  lift (fun d =>
    let l := d.brim.discards
    ({ d with brim := { d.brim with discards := [] } } : Dev).each l (fun (n, cause, fjob, count) d =>
      appendLog 0x0805 3 false 0 (portId n) (cause % 16 + 65536 * fjob) count d))

/-! ## The tether's memory and registers (R399, R402, R423, R447, R448) -/

/-- HBM answers the window: not in Parked and not before its training has ended. -/
def windowOpen (d : Dev) : Bool :=
  match d.mod.st with
  | .idle | .active => true
  | .starting => d.mod.hbmDone && !d.mod.fromParked
  | _ => false

/-- A window read: 0xFF bytes while HBM does not answer; unbacked addresses and tile space read 0 (R402). -/
def windowRead (a n : Nat) (d : Dev) : List Byte × Dev :=
  if !windowOpen d then (List.replicate n 0xFF, d)
  else if bit a 47 then (List.replicate n 0, d)
  else if poisonedIn d a n then openBytes n d
  else (d.brim.hbmRead a n, d)

def windowWrite (a : Nat) (bs : List Byte) (d : Dev) : Dev :=
  if windowOpen d && !bit a 47 then { d with brim := d.brim.hbmWrite a bs } else d

/-- MEM_REQ: on a tether port that is up; a length outside 4 to 256 B in steps of 4 is no MEM_REQ of R447. -/
def execMemReq (port tag : Nat) (write : Bool) (addr len : Nat) (data : List Byte) : State → Out_ :=
  liftAt (decide (port < 50)) (fun d =>
    if port < 48 ∨ (d.link port).st ≠ .up ∨ len < 4 ∨ 256 < len ∨ len % 4 ≠ 0 then d
    else if write then windowWrite addr (padTo len data) d
    else
      let (bs, d) := windowRead addr len d
      d.emit (.memResp port tag bs))

/-- The event ring's control written: enable resets prod and cons; base and size stay while it is set; ovf clears on a 1
(R423, R448). -/
def writeEvrCtl (tport : Nat) (enable : Bool) (size : Nat) (clearOvf : Bool) (d : Dev) : Dev :=
  let h := d.host
  let h := { h with evrOvf := h.evrOvf && !clearOvf, evrSize := if h.evrEnable then h.evrSize else size % 8 }
  let h := if enable then { h with evrEnable := true, evrProd := 0, evrCons := 0, evrPort := 48 + tport } else { h with evrEnable := false }
  { d with host := h }

/-- EVR_ENABLE. -/
def execEvrEnable (tport : Nat) (size : Nat) : State → Out_ :=
  liftAt (decide (tport < 2)) (fun d => if d.tetherOpen tport then writeEvrCtl tport true size false d else d)

/-- The bits of a listed register that are no reserved field (R369, R399-R404, R423); none for an offset that no table lists. -/
def regFields (off : Nat) : Option Nat :=
  if off = 0 then some 0x03FFFFFF
  else if off = 4 then some 0x00FFFFFF
  else if off < 0x58 ∨ (0x100 ≤ off ∧ off < 0x11C) ∨ off = 0x120 ∨ off = 0x124 then some 0xFFFFFFFF
  else if 0x1000 ≤ off ∧ off < 0x1040 then some 0xF
  else if off = 0x2008 then some 0x1F
  else if off = 0x200C ∨ off = 0x2010 then some 0xFFFF
  else if 0x2000 ≤ off ∧ off < 0x2018 then some 0xFFFFFFFF
  else if off = 0x40030 then some 0x3FFFF
  else if 0x40000 ≤ off ∧ off < 0x40030 then some 0xFFFFFFFF
  else if 0x40100 ≤ off ∧ off < 0x40700 then
    some (if off % 0x20 < 0x10 then 0xFFFFFFFF else if off % 0x20 = 0x10 then 0xFFFFFF else 0)
  else if 0x40800 ≤ off ∧ off < 0x41000 then some (if off % 0x40 < 0x30 then 0xFFFFFFFF else 0)
  else none

/-- The 32 bits that a register of the space holds at a 4-aligned offset below the window; an offset that no table lists
reads 0 (R399-R401, R404, R369, R423). -/
def regValue (b : Boot) (d : Dev) (off : Nat) : Nat :=
  let h := d.host
  let half := fun (x : Nat) => if off % 8 = 0 then x % 2 ^ 32 else x / 2 ^ 32 % 2 ^ 32
  if off = 0 then identWord d
  else if off = 4 then familyParams.length + 0x100
  else if off = 8 ∨ off = 0xC then half Config.serial.toNat
  else if 0x10 ≤ off ∧ off < 0x58 then familyParams.getD ((off - 0x10) / 4) 0
  else if 0x100 ≤ off ∧ off < 0x11C then versionWords.getD ((off - 0x100) / 4) 0
  else if off = 0x120 ∨ off = 0x124 then half b.runVersion
  else if 0x1000 ≤ off ∧ off < 0x1040 then
    (let st := h.doorbells.get 0 ((off - 0x1000) / 4)
     2 * st + flagAt (st == 2) 3)
  else if off = 0x2000 ∨ off = 0x2004 then half h.evrBase.toNat
  else if off = 0x2008 then flagAt h.evrEnable 0 + 2 * h.evrSize + flagAt h.evrOvf 4
  else if off = 0x200C then h.evrProd
  else if off = 0x2010 then h.evrCons
  else if off = 0x2014 then h.evrLost
  else if 0x10000 ≤ off ∧ off < 0x30000 then ofLe (h.areas.readN off 4)
  else if 0x40000 ≤ off ∧ off < 0x41000 then fieldLe d.energy.mirror.bytes (off - 0x40000) 4
  else 0

/-- A read of 32 bits: reserved bits to which a 1 was written read free values from then on (R12, log 12). -/
def readRegister (b : Boot) (off : Nat) (d : Dev) : List Byte × Dev :=
  if 0x100000 ≤ off then windowRead (off - 0x100000) 4 d
  else
    let m := d.host.taint.get 0 off
    let v := BitVec.ofNat 32 (regValue b d off)
    if m = 0 then (le 4 v.toNat, d) else (le 4 (v ||| (d.free.1 &&& m)).toNat, d.free.2)

/-- A 1 in a reserved field is remembered (R12). -/
def taintRegister (off : Nat) (v : Word) (d : Dev) : Dev :=
  match (if off % 4 = 0 then regFields off else none) with
  | none => d
  | some m =>
    let extra : Word := v &&& ~~~(BitVec.ofNat 32 m)
    if extra = 0 then d
    else { d with host := { d.host with taint := d.host.taint.set off (d.host.taint.get 0 off ||| extra) } }

/-- 32 bits of the tether space written (R399). A ring of a doorbell is the request it announces, a command of its own. -/
def writeRegister (tport off : Nat) (v : Word) (d : Dev) : Dev :=
  let d := taintRegister off v d
  let h := d.host
  let x := v.toNat
  if off % 4 ≠ 0 then d
  else if 0x100000 ≤ off then windowWrite (off - 0x100000) (le 4 x) d
  else if 0x01000 ≤ off ∧ off < 0x01040 then (if bit x 3 then clearDone ((off - 0x01000) / 4) d else d)
  else if off = 0x02000 then
    (if h.evrEnable then d else { d with host := { h with evrBase := BitVec.ofNat 64 (h.evrBase.toNat / 2 ^ 32 * 2 ^ 32 + x) } })
  else if off = 0x02004 then
    (if h.evrEnable then d else { d with host := { h with evrBase := BitVec.ofNat 64 (h.evrBase.toNat % 2 ^ 32 + x * 2 ^ 32) } })
  else if off = 0x02008 then writeEvrCtl tport (bit x 0) (bits x 1 3) (bit x 4) d
  else if off = 0x02010 then { d with host := { h with evrCons := bits x 0 16 } }
  else if 0x10000 ≤ off ∧ off < 0x30000 ∧ off % 0x2000 < 0x1000 then
    { d with host := { h with areas := h.areas.writeN off (le 4 x) } }
  else d

/-- An access of a tether port to the space. 64 bits are the two words in their order; an access that is not aligned reads 0
and writes nothing (R399, R447, log 187). -/
def regAccess (b : Boot) (tport off : Nat) (a : RegAccess) (d : Dev) : Dev :=
  let answer := fun (tag : Nat) (x : List Byte × Dev) => x.2.emit (.regResp (48 + tport) tag (padTo 8 x.1))
  match a with
  | .write32 v => writeRegister tport off v d
  | .write64 v =>
    if off % 8 ≠ 0 then d else writeRegister tport (off + 4) (v.extractLsb' 32 32) (writeRegister tport off (v.extractLsb' 0 32) d)
  | .read32 tag => answer tag (if off % 4 ≠ 0 then ([], d) else readRegister b off d)
  | .read64 tag =>
    answer tag (if off % 8 ≠ 0 then ([], d)
      else
        let (lo, d) := readRegister b off d
        let (hi, d) := readRegister b (off + 4) d
        (lo ++ hi, d))

/-- REGISTER_WRITE: a write, or a read, which has no row of its own (log 187). -/
def execRegisterWrite (tport off : Nat) (val : RegAccess) : State → Out_ := fun s =>
  if !decide (tport < 2) then .fault .noSuchPlace
  else liftBoot (fun b d => (b, if d.tetherOpen tport then regAccess b tport off val d else d)) s

end Sys2Proof.Machine
end

