-- ==== Sys2Proof/Machine/MemoryInsn.lean ====
section
/-! DEFINITION. Loads, stores, MCOPY, conversions and accumulating stores (R195-R199). -/

namespace Sys2Proof.Machine

/-- The base of the control window in tile space (R184). -/
def windowBase : Nat := 0x180000

/-- An address of the control window. -/
def inWindow (a : Nat) : Bool := decide (windowBase ≤ a ∧ a < windowBase + 0x10000)

/-- A load of 1, 2 or 4 bytes: alignment, then the window (words only, R186), then tile memory. -/
def loadOp (p : Pos) (ts n : Nat) (rd rs1 : Reg) (imm : BitVec 15) (f : Nat → Word) (d : Dev) : Res :=
  let a := addrOf (((d.tile p).slot ts).g rs1) imm
  let put := fun (v : Word) (d : Dev) => Res.done (d.onTile p (fun t => t.onSlot ts (fun s => s.setG rd v)))
  if a % n ≠ 0 then .fault 0x0405 0
  else if inWindow a then
    (if n = 4 then (let r := ctlLoad d p (a - windowBase); put r.1 r.2) else .fault 0x0405 0)
  else withRead p ts a n d (fun bs d => put (f (ofLe bs)) d)

/-- A store of 1, 2 or 4 bytes of rd. -/
def storeOp (p : Pos) (ts n : Nat) (rd rs1 : Reg) (imm : BitVec 15) (d : Dev) : Res :=
  let s := (d.tile p).slot ts
  let a := addrOf (s.g rs1) imm
  if a % n ≠ 0 then .fault 0x0405 0
  else if inWindow a then
    (if n ≠ 4 then .fault 0x0405 0
     else if s.spec.isSome then .fault 0x0602 0
     else .done (d.onTile p (ctlStore p (a - windowBase) (s.g rd))))
  else withWrite p ts a (le n (s.g rd).toNat) d .done

/-- LB (R195). -/
def execLb (t : Pos) (ts : Nat) (rd rs1 : Reg) (imm : BitVec 15) : State → Out_ :=
  liftAt (slotOk t ts) (runThread t ts (encI 0x20 rd rs1 imm)
    (loadOp t ts 1 rd rs1 imm (fun v => (BitVec.ofNat 8 v).signExtend 32)))

/-- LBU (R195). -/
def execLbu (t : Pos) (ts : Nat) (rd rs1 : Reg) (imm : BitVec 15) : State → Out_ :=
  liftAt (slotOk t ts) (runThread t ts (encI 0x21 rd rs1 imm) (loadOp t ts 1 rd rs1 imm (BitVec.ofNat 32)))

/-- LH (R195). -/
def execLh (t : Pos) (ts : Nat) (rd rs1 : Reg) (imm : BitVec 15) : State → Out_ :=
  liftAt (slotOk t ts) (runThread t ts (encI 0x22 rd rs1 imm)
    (loadOp t ts 2 rd rs1 imm (fun v => (BitVec.ofNat 16 v).signExtend 32)))

/-- LHU (R195). -/
def execLhu (t : Pos) (ts : Nat) (rd rs1 : Reg) (imm : BitVec 15) : State → Out_ :=
  liftAt (slotOk t ts) (runThread t ts (encI 0x23 rd rs1 imm) (loadOp t ts 2 rd rs1 imm (BitVec.ofNat 32)))

/-- LW (R186, R195). -/
def execLw (t : Pos) (ts : Nat) (rd rs1 : Reg) (imm : BitVec 15) : State → Out_ :=
  liftAt (slotOk t ts) (runThread t ts (encI 0x24 rd rs1 imm) (loadOp t ts 4 rd rs1 imm (BitVec.ofNat 32)))

/-- SB (R195). -/
def execSb (t : Pos) (ts : Nat) (rd rs1 : Reg) (imm : BitVec 15) : State → Out_ :=
  liftAt (slotOk t ts) (runThread t ts (encI 0x25 rd rs1 imm) (storeOp t ts 1 rd rs1 imm))

/-- SH (R195). -/
def execSh (t : Pos) (ts : Nat) (rd rs1 : Reg) (imm : BitVec 15) : State → Out_ :=
  liftAt (slotOk t ts) (runThread t ts (encI 0x26 rd rs1 imm) (storeOp t ts 2 rd rs1 imm))

/-- SW (R186, R195). -/
def execSw (t : Pos) (ts : Nat) (rd rs1 : Reg) (imm : BitVec 15) : State → Out_ :=
  liftAt (slotOk t ts) (runThread t ts (encI 0x27 rd rs1 imm) (storeOp t ts 4 rd rs1 imm))

/-- MCOPY (R195, R199). -/
def execMcopy (t : Pos) (ts : Nat) (rd rs1 rs2 : Reg) : State → Out_ :=
  liftAt (slotOk t ts) (runThread t ts (encA 0x28 rd rs1 rs2 0) (fun d =>
    let s := (d.tile t).slot ts
    let src := (s.g rs1).toNat
    let dst := (s.g rd).toNat
    let n := (s.g rs2).toNat
    if src % 4 ≠ 0 ∨ dst % 4 ≠ 0 then .fault 0x0405 0
    else if n % 4 ≠ 0 ∨ badOverlap src n dst n then .fault 0x0104 0
    else withRead t ts src n d (fun bs d => withWrite t ts dst bs d .done)))

/-- A reserved rounding code, or SR on a Function tile (R65, R71, R199). -/
def badRnd (kind rnd : Nat) : Bool := !rndOk rnd || (kind == 1 && rnd == 2)

/-- CVT (R196, R199). -/
def execCvt (t : Pos) (ts : Nat) (rd rs1 rs2 : Reg) (imm : BitVec 10) : State → Out_ :=
  liftAt (slotOk t ts) (runThread t ts (encA 0x29 rd rs1 rs2 imm) (fun d =>
    let s := (d.tile t).slot ts
    let src := (s.g rs1).toNat
    let dst := (s.g rd).toNat
    let cnt := bits (s.g rs2).toNat 0 24
    let stream := bits (s.g rs2).toNat 24 8
    let sf := bits imm.toNat 0 4
    let df := bits imm.toNat 4 4
    let rnd := bits imm.toNat 8 2
    if !fmtOk sf || !fmtOk df || badRnd t.kind rnd then .fault 0x0104 0
    else if src % fmtSize sf ≠ 0 ∨ dst % fmtSize df ≠ 0 then .fault 0x0405 0
    else if badOverlap src (cnt * fmtSize sf) dst (cnt * fmtSize df) then .fault 0x0104 0
    else withRead t ts src (cnt * fmtSize sf) d (fun bs d =>
      let w := drawOf d t stream
      let out := ((elems sf bs).zipIdx).map (fun (c, i) =>
        (cvtElem (narrowAt d t) sf df rnd (srBits w i (i % 1024)) c).1)
      withWrite t ts dst (unelems df out) d .done)))

/-- CVST (R197, R199); the address is aligned to the element like a store's. -/
def execCvst (t : Pos) (ts : Nat) (rd rs1 rs2 : Reg) (imm : BitVec 10) : State → Out_ :=
  liftAt (slotOk t ts) (runThread t ts (encA 0x2A rd rs1 rs2 imm) (fun d =>
    let s := (d.tile t).slot ts
    let dst := (s.g rs1).toNat
    let df := bits imm.toNat 0 4
    let rnd := bits imm.toNat 4 2
    if !fmtOk df || badRnd t.kind rnd then .fault 0x0104 0
    else if dst % fmtSize df ≠ 0 then .fault 0x0405 0
    else
      let e := dst / fmtSize df % 2 ^ 24
      let r := srBits (drawOf d t (bits (s.g rs2).toNat 0 8)) e (e % 1024)
      let c := (cvtElem (narrowAt d t) fFP32 df rnd r (s.g rd).toNat).1
      withWrite t ts dst (le (fmtSize df) c) d .done))

/-- ACC (R198, R199). -/
def execAcc (t : Pos) (ts : Nat) (rd rs1 rs2 : Reg) (imm : BitVec 10) : State → Out_ :=
  liftAt (slotOk t ts) (runThread t ts (encA 0x2B rd rs1 rs2 imm) (fun d =>
    let s := (d.tile t).slot ts
    let a := (s.g rs1).toNat
    let f := bits imm.toNat 0 4
    if !longFmt f then .fault 0x0104 0
    else if a % fmtSize f ≠ 0 then .fault 0x0405 0
    else withUpdate t ts a (fmtSize f) d (fun bs d =>
      let v := decodeFmt (if f = 6 then 6 else fFP32) (s.g rd).toNat
      let c := tileLongSum d t (bits (s.g rs2).toNat 0 8) f (bit imm.toNat 4) a (ofLe bs) v
      withWrite t ts a (le (fmtSize f) c) d .done)))

/-- The source formats of ACCV for a destination (R198, R199). -/
def accvSrcOk (df sf : Nat) : Bool := if df = 6 then sf == 5 || sf == 6 else decide (sf ≤ 4)

/-- ACCV (R198, R199). -/
def execAccv (t : Pos) (ts : Nat) (rd rs1 rs2 : Reg) (imm : BitVec 10) : State → Out_ :=
  liftAt (slotOk t ts) (runThread t ts (encA 0x2C rd rs1 rs2 imm) (fun d =>
    let s := (d.tile t).slot ts
    let src := (s.g rs1).toNat
    let dst := (s.g rd).toNat
    let cnt := bits (s.g rs2).toNat 0 24
    let stream := bits (s.g rs2).toNat 24 8
    let df := bits imm.toNat 0 4
    let sf := bits imm.toNat 4 4
    if !longFmt df || !accvSrcOk df sf then .fault 0x0104 0
    else if src % fmtSize sf ≠ 0 ∨ dst % fmtSize df ≠ 0 then .fault 0x0405 0
    else if badOverlap src (cnt * fmtSize sf) dst (cnt * fmtSize df) then .fault 0x0104 0
    else withRead t ts src (cnt * fmtSize sf) d (fun bs d =>
      withUpdate t ts dst (cnt * fmtSize df) d (fun olds d =>
        let out := tileLongSums d t stream df (bit imm.toNat 8) dst (elems df olds) ((elems sf bs).map (decodeFmt sf))
        withWrite t ts dst (unelems df out) d .done))))

end Sys2Proof.Machine
end

