-- ==== Sys2Proof/Machine/Packets.lean ====
section
/-! DEFINITION. What each packet type does at its destination, and the timers of packets that await an answer (R208,
R220, R230, R231, R241, R250-R266, R279). -/

namespace Sys2Proof.Machine

/-! ## Data: PUT, GET, RADD -/

/-- The DMA queue of a Store tile whose submission window a range touches (R278, R279). -/
def windowAt (t : Tile) (a n : Nat) : Option (Nat × DmaQ) :=
  (t.dmaqs.zipIdx.find? (fun x => decide (a < x.1.area + 32 ∧ x.1.area < a + n))).map (fun x => (x.2, x.1))

/-- A PUT of a tile of the queue's job on this device that is exactly the window (R279). -/
def isSubmission (d : Dev) (q : DmaQ) (k : Packet) : Option Pos :=
  match k.src with
  | .phys s =>
    if !k.xdev && k.data.length == 32 && putOff k == q.area && (d.tile s).net.jslot == some k.jslot
        && decide (q.ring.length < 64) then some s else none
  | _ => none

/-- The target's counter gains the data units of a packet (R252). -/
def gainDcc (p : Pos) (k : Packet) (units : Nat) (d : Dev) : Dev :=
  if putDce k then addCc p (putDcc k) units d else d

/-- A submission enters the ring, in the SRAM that follows the window (R278, R279). -/
def submit (p s : Pos) (i : Nat) (q : DmaQ) (k : Packet) (d : Dev) : Dev :=
  let e : RingDesc := { pos := q.next, src := (d.tile s).rc, sbit := k.sbit, started := false }
  d.onTile p (fun t => (t.overwrite (q.entry q.next) k.data).setDmaq i
    { q with ring := q.ring ++ [e], next := (q.next + 1) % 64 })

/-- A range of the target that its interface does not accept: outside its memory, or a DMA window (R250, R279). -/
def rangeNack (d : Dev) (p : Pos) (a n : Nat) : Option Nat :=
  if !inMem p.kind a n then some 0x0305
  else if (windowAt (d.tile p) a n).isSome then some 0x0407
  else none

/-- A PUT at its target: a submission, a NACK, a wait for a range being copied (R334), or the data written, counted and
acknowledged. -/
def putAt (p : Pos) (k : Packet) (d : Dev) : Option Dev :=
  let a := putOff k
  let n := k.data.length
  if isDup (d.tile p) k then some (ackTo p k (d.onTile p (Tile.netCount 3)))
  else match windowAt (d.tile p) a n with
    | some (i, q) =>
      (match (if inMem p.kind a n then isSubmission d q k else none) with
      | some s => some (ackTo p k (gainDcc p k 2 (remember p k (submit p s i q k d))))
      | none => some (answerTo p k .nack (if inMem p.kind a n then 0x0407 else 0x0305) [] d))
    | none =>
      if !inMem p.kind a n then some (answerTo p k .nack 0x0305 [] d)
      else if remoteHeld d p a n then none
      else match (d.tile p).store a k.data with
        | none => some (faultTile p 0x0401 0 {} d)
        | some t => some (ackTo p k (gainDcc p k (n / 16) (remember p k (d.setTile p t))))

/-- COPY data at the destination's port tile: held there and acknowledged (R281, R285). The room was kept when its piece
began; a packet taken before is acknowledged again (R255). -/
def putAtPort (id : Nat) (d : Dev) : Dev :=
  match d.flight? id with
  | none => d
  | some x =>
    match x.place, x.pkt.src with
    | .port pid, .port s =>
      if x.pkt.ty ≠ .put ∨ x.transit.isSome ∨ x.pkt.xdev then d
      else
        let d := d.dropFlight id
        (match (d.port s).outs.find? (fun o => o.1.op == 3 && o.1.pkt.seq == x.pkt.seq) with
        | none => d
        | some o =>
          match d.engineOf o.2.1 with
          | none => d
          | some (_, r) =>
            let here := (o.2.2, o.1.local_)
            let d := if r.landed.contains here then d
              else
                let a := match r.pieces[o.2.2]? with
                  | some q => q.dst + (o.1.local_ - q.src)
                  | none => 0
                (holdWrite pid { j := r.j, src := (d.tile r.requester).rc, step := r.step, kind := .hbm a x.pkt.data } d).onRun
                  r.id (fun r => { r with landed := r.landed ++ [here] })
            d.portSend pid (portAnswer pid x.pkt .ack (codeOf .put) []))
    | _, _ => d

/-- PUT_PACKET (R252, R255, R279, R281). -/
def execPutPacket (id : Nat) (s : State) : Out_ :=
  match (s.dev.flight? id).map (fun (x : Flight) => x.place) with
  | some (Place.port _) => lift (putAtPort id) s
  | _ => atTile id .put false putAt s

/-- A GET_REQ at its target: the data goes back; a repeated one is read afresh (R252, R255). A scratch line with an owner is read
once its tag has resolved (R179). -/
def getAt (p : Pos) (k : Packet) (d : Dev) : Option Dev :=
  let a := putOff k
  match rangeNack d p a (16 * k.len) with
  | some c => some (answerTo p k .nack c [] d)
  | none =>
    if rangeForeign (d.tile p) none a (16 * k.len) then none
    else match (d.tile p).load a (16 * k.len) with
    | none => some (faultTile p 0x0401 0 {} d)
    | some (bs, t) =>
      let dup := isDup (d.tile p) k
      let d := d.setTile p t
      let d := if dup then d.onTile p (Tile.netCount 3) else remember p k d
      some (answerTo p k .getResp 0 bs d)

/-- GET_REQ (R252). -/
def execGetReq (id : Nat) : State → Out_ := atTile id .getReq false getAt

/-- A RADD at its target: each element a long sum in increasing address order (R118, R119, R252). -/
def raddAt (p : Pos) (k : Packet) (d : Dev) : Option Dev :=
  let a := putOff k
  let n := k.data.length
  let fmt := bits (fieldLe k.sub 0 1) 0 4
  if isDup (d.tile p) k then some (ackTo p k (d.onTile p (Tile.netCount 3)))
  else if p.kind ≠ 0 then some (answerTo p k .nack 0x0305 [] d)
  else match rangeNack d p a n with
    | some c => some (answerTo p k .nack c [] d)
    | none =>
      if remoteHeld d p a n then none
      else match (d.tile p).load a n with
        | none => some (faultTile p 0x0401 0 {} d)
        | some (olds, t) =>
          let d := d.setTile p t
          let vs := (elems fmt k.data).map (decodeFmt fmt)
          let out := unelems fmt (tileLongSums d p (fieldLe k.sub 1 1) fmt k.long a (elems fmt olds) vs)
          (match (d.tile p).store a out with
          | none => some (faultTile p 0x0401 0 {} d)
          | some t => some (ackTo p k (gainDcc p k (n / 16) (remember p k (d.setTile p t)))))

/-- RADD_PACKET (R252). -/
def execRaddPacket (id : Nat) : State → Out_ := atTile id .radd false raddAt

/-! ## SIGNAL and NOTICE -/

/-- The signal of a packet is still held here. -/
def stillHeld (t : Tile) (k : Packet) : Bool := t.net.sigs.any (fun h => h.pkt.src == k.src && h.pkt.seq == k.seq)

/-- A SIGNAL at its target: appended at once or held until its step bit and its count allow (R208, R220, R231, R254). -/
def signalAt (p : Pos) (k : Packet) (d : Dev) : Option Dev :=
  let t := d.tile p
  let h : HeldSig := { count := fieldLe k.data 4 4, value := BitVec.ofNat 32 (fieldLe k.data 0 4), queue := bits k.tag 0 6
                       counter := bits k.tag 6 4, sbit := k.sbit, pkt := k }
  if kindSqs p.kind ≤ h.queue then some (answerTo p k .nack 0x0305 [] d)
  else if isDup t k then some (answerTo p k .signalResp (if stillHeld t k then 1 else 0) [] (d.onTile p (Tile.netCount 3)))
  else if h.ready t && (t.sq h.queue).refuses then some (signalAppend p h.queue h.value d)
  else if h.ready t then some (answerTo p k .signalResp 0 [] (remember p k (signalAppend p h.queue h.value d)))
  else some (answerTo p k .signalResp 1 []
    (remember p k (d.onTile p (fun t => { t with net := { t.net with sigs := t.net.sigs ++ [h] } }))))

/-- SIGNAL_PACKET (R208, R231, R252). -/
def execSignalPacket (id : Nat) : State → Out_ := atTile id .signal true signalAt

/-- An issued SIGNAL has been appended: its number is free and one fewer holds back the arrive (R230, R254). -/
def signalDone (p : Pos) (o : Out) (d : Dev) : Dev :=
  freeSeq p o (d.onTile p (fun t => wakeCause 7 { t with sync := { t.sync with sigOut := t.sync.sigOut - 1 } }))

/-- A SIGNAL_RESP at the issuer: appended frees the number, held stops the timer (R254). -/
def signalRespAt (p : Pos) (k : Packet) (d : Dev) : Option Dev :=
  match matching (d.tile p) k with
  | some o =>
    if o.pkt.ty ≠ .signal ∨ !o.timer then some (lateArrival p d)
    else if bit k.tag 0 then some (d.onTile p (fun t => { t with net := { t.net with
      outs := modifyFirst (fun x => x == o) (fun x => { x with timer := false }) t.net.outs } }))
    else some (signalDone p o d)
  | none => some (lateArrival p d)

/-- SIGNAL_RESP (R254). -/
def execSignalResp (id : Nat) : State → Out_ := atTile id .signalResp false signalRespAt

/-- A NOTICE at the issuer of a SIGNAL: acknowledged; the signal is done (R254). -/
def noticeAt (p : Pos) (k : Packet) (d : Dev) : Option Dev :=
  if isDup (d.tile p) k then some (ackTo p k (d.onTile p (Tile.netCount 3)))
  else
    let d := ackTo p k (remember p k d)
    match (d.tile p).net.outs.find? (fun o => o.pkt.ty == .signal && o.pkt.seq == k.tag % 4096) with
    | some o => some (signalDone p o d)
    | none => some d

/-- NOTICE (R254). -/
def execNotice (id : Nat) : State → Out_ := atTile id .notice false noticeAt

/-! ## TOKEN and CREDIT -/

/-- The deep FIFO of a Store tile that a producer's TOKEN enters (R169, R289). -/
def deepOf (d : Dev) (p : Pos) (j : Job) (k : Packet) : Option (Nat × Deep) :=
  ((d.tile p).deeps.zipIdx.find? (fun x => match j.chan x.1.ci with
    | some r => r.port == k.tag && (j.posOf d.map r.prod).map Addr.phys == some k.src
    | none => false)).map (fun x => (x.2, x.1))

/-- A token number already passed, mod 4,096. -/
def passed (next num : Nat) : Bool := decide ((next + 4096 - num) % 4096 ≠ 0 ∧ (next + 4096 - num) % 4096 ≤ 2048)

/-- A TOKEN at its consumer, or at the host of a deep channel: the next in send order enters and is acknowledged, an
earlier one is a duplicate and acknowledged again, a later one waits (R166, R259, R289). -/
def tokenAt (p : Pos) (k : Packet) (d : Dev) : Option Dev :=
  match d.jobAt p with
  | none => none
  | some j =>
    match deepOf d p j k with
    | some (f, q) =>
      if q.next = k.seq then
        some (ackTo p k (d.onTile p (Tile.fifoIn f { q with next := (q.next + 1) % 4096 } (tokenOf k.data))))
      else if passed q.next k.seq then some (ackTo p k d) else none
    | none =>
      let n := bits (fieldLe k.data 4 1) 0 5
      let c := (d.tile p).chan n
      if c.next = k.seq then
        some (ackTo p k (d.onTile p (fun t => t.setChan n
          { t.chan n with toks := (t.chan n).toks ++ [tokenOf k.data], next := ((t.chan n).next + 1) % 4096 })))
      else if passed c.next k.seq then some (ackTo p k d) else none

/-- TOKEN_PACKET (R166, R259). -/
def execTokenPacket (id : Nat) : State → Out_ := atTile id .token false tokenAt

/-- Credits gained by a cumulative count; none when it is not newer (R259). -/
def creditGain (last count : Nat) : Nat :=
  let g := (count + 65536 - last) % 65536
  if g < 32768 then g else 0

/-- A CREDIT at a producer, or at the host of a deep channel, which passes it on to the channel's producer (R259,
R289). -/
def creditAt (p : Pos) (k : Packet) (d : Dev) : Option Dev :=
  let t := d.tile p
  let n := bits k.red 0 5
  match (if p.kind = 2 ∧ 8 ≤ n then t.deeps[n - 8]? else none) with
  | some q =>
    let g := creditGain q.lastCredit k.tag
    if g = 0 then some d
    else
      let q := { q with credit := q.credit + g, lastCredit := k.tag % 65536, returned := (q.returned + g) % 65536, reps := 2 }
      let d := d.onTile p (fun t => { t with deeps := t.deeps.set (n - 8) q })
      (match d.jobAt p with
      | none => some d
      | some j =>
        match (j.chan q.ci).bind (fun r => (j.posOf d.map r.prod).map (fun s => (s, r.port))) with
        | some (s, port) => some (d.send p (creditPacket (d.tile p) p (d.addrOf s) port q.returned))
        | none => some d)
  | none =>
    let g := creditGain (t.port n).lastCredit k.tag
    if g = 0 then some d
    else some (d.onTile p (fun t => portGain n g (t.setPort n { t.port n with lastCredit := k.tag % 65536 })))

/-- CREDIT_PACKET (R259). -/
def execCreditPacket (id : Nat) : State → Out_ := atTile id .credit false creditAt

/-! ## Multicast (R260, R261) -/

/-- The corner of the tree, its last column and its south row. -/
def treeBox (k : Packet) : Option (Pos × Nat × Nat) :=
  match k.dst with
  | .phys c => some (c, bits (fieldLe k.sub 8 4) 9 9, c.py + bits (fieldLe k.sub 4 4) 9 9 - bits (fieldLe k.sub 0 4) 9 9)
  | _ => none

/-- The branches of a router of the tree: east along the corner's row, south to the last row. -/
def branches (c : Pos) (pxe south : Nat) (p : Pos) : List (Pos × Nat) :=
  (if p.py = c.py ∧ p.px < pxe ∧ p.px < 511 then [(⟨p.px + 1, p.py⟩, 3)] else [])
    ++ (if p.py < south ∧ p.py < 479 then [(⟨p.px, p.py + 1⟩, 0)] else [])

/-- The upstream router. -/
def treeUp (c p : Pos) : Option Pos :=
  if p = c then none else if p.py = c.py then some ⟨p.px - 1, p.py⟩ else some ⟨p.px, p.py - 1⟩

/-- The tile takes the multicast: of the packet's job and inside the rectangle (R260). -/
def inRect (d : Dev) (p : Pos) (k : Packet) : Bool :=
  let c := (d.tile p).rc
  (d.tile p).net.jslot == some k.jslot && !d.map.idlePos p
    && decide (bits (fieldLe k.sub 0 4) 0 9 ≤ c.rx ∧ c.rx ≤ bits (fieldLe k.sub 4 4) 0 9
      ∧ bits (fieldLe k.sub 0 4) 9 9 ≤ c.ry ∧ c.ry ≤ bits (fieldLe k.sub 4 4) 9 9)

/-- The node of a packet and attempt at a router. -/
def McNode.of (k : Packet) (n : McNode) : Bool := n.pkt.src == k.src && n.pkt.seq == k.seq && n.pkt.attempt == k.attempt

/-- An acknowledgement of the tree: upstream with the issuer's address kept beside it, or to the issuer (R261). -/
def treeAck (p : Pos) (n : McNode) (d : Dev) : Dev :=
  let k := n.pkt
  let a : Packet := { k with ty := .ack, vl := 1, hops := 0, dst := k.src, src := .phys p, len := 1, tag := codeOf .mcast
                             red := 0, sub := [], data := padTo 16 (le 4 n.tiles), pfx := none }
  match n.up with
  | some u => d.send p { a with dst := .phys u, pfx := some k.src }
  | none => d.send p a

/-- One part of a node is answered; the last one sends its acknowledgement. -/
def treePart (p : Pos) (k : Packet) (tiles : Nat) (d : Dev) : Dev :=
  match (d.tile p).net.mc.find? (McNode.of k) with
  | none => d
  | some n =>
    let n := { n with waitFor := n.waitFor - 1, tiles := n.tiles + tiles }
    let d := d.onTile p (fun t => { t with net := { t.net with
      mc := t.net.mc.filter (fun x => !x.of k) ++ (if n.waitFor = 0 then [] else [n]) } })
    if n.waitFor = 0 then treeAck p n d else d

/-- A router of the tree replicates the packet (R260). A branch into a router that does not work is discarded and counted, and
never answers: the issuer's timer ends the operation (R27, R256). -/
def treeNode (p : Pos) (k : Packet) (d : Dev) : Dev :=
  match treeBox k with
  | none => d
  | some (c, pxe, south) =>
    let bs := (branches c pxe south p).filter (fun x => routerWorks d x.1)
    let lost := (branches c pxe south p).length - bs.length
    let d := d.onTile p (fun t => (List.range lost).foldl (fun t _ => t.netCount 6) t)
    let mine := inRect d p k
    let n : McNode := { pkt := { k with data := [] }, up := treeUp c p, waitFor := bs.length + lost + (if mine then 1 else 0), tiles := 0 }
    let d := d.onTile p (fun t => { t with net := { t.net with
      mc := t.net.mc.filter (fun x => !(x.pkt.src == k.src && x.pkt.seq == k.seq))
        ++ (if n.waitFor = 0 then [] else [n]) } })
    let add := fun (pl : Place) (d : Dev) =>
      let f : Flight := { id := d.wafer.nextId, pkt := k, place := pl, retargeted := true }
      { d with wafer := { d.wafer with flights := d.wafer.flights ++ [f], nextId := d.wafer.nextId + 1 } }
    let d := d.each bs (fun x d => add (.router x.1 x.2) d)
    if n.waitFor = 0 then treeAck p n d else if mine then add (.own p) d else d

/-- A member writes its copy and counts it (R252, R261). -/
def mcastAt (p : Pos) (k : Packet) (d : Dev) : Option Dev :=
  let w := fieldLe k.sub 12 4
  let a := bits w 0 21
  let n := k.data.length
  if isDup (d.tile p) k then some (treePart p k 1 (d.onTile p (Tile.netCount 3)))
  else match rangeNack d p a n with
    | some c => some (answerTo p k .nack c [] d)
    | none =>
      if remoteHeld d p a n then none
      else match (d.tile p).store a k.data with
        | none => some (faultTile p 0x0401 0 {} d)
        | some t =>
          let d := remember p k (d.setTile p t)
          some (treePart p k 1 (if bit w 25 then addCc p (bits w 21 4) (n / 16) d else d))

/-- MCAST_PACKET: replication at a router of the tree, or a member's own copy (R260). -/
def execMcastPacket (id : Nat) : State → Out_ :=
  lift (fun d =>
    match d.flight? id with
    | none => d
    | some x =>
      if x.pkt.ty ≠ .mcast then d
      else match x.place with
        | .dest p => if stale d x.pkt then dropAt id 7 p d else treeNode p x.pkt (d.dropFlight id)
        | .own p => arrive mcastAt false x p d
        | _ => d)

/-! ## In-network reduction (R263-R266) -/

/-- The bytes that a participant writes of a value on its way down (R266). -/
def RedVal.range (v : RedVal) (e : RedEntry) : Nat × Nat := (e.off + v.element * fmtSize e.fmt, v.data.length)

/-- A RED packet at a router: down toward the participants, whose own range is checked before it is acknowledged (R250), or a
right child of a node; with 32 children held it waits (R263, R265, R266). -/
def redAt (p : Pos) (k : Packet) (d : Dev) : Option Dev :=
  let h := fieldLe k.sub 0 4
  let v : RedVal := { entry := k.red, tag := k.tag, element := bits h 0 24, step := fieldLe k.sub 4 4, data := k.data }
  let level := bits h 24 6
  let j := bits (fieldLe k.sub 8 8) 0 35
  match (d.jobAt p).bind (fun jb => jb.img.reds[k.red]?) with
  | none => some d
  | some e =>
    if isDup (d.tile p) k then some (ackTo p k (d.onTile p (Tile.netCount 3)))
    else if bit h 30 then
      (match rangeNack d p (v.range e).1 (v.range e).2 with
      | some c => some (answerTo p k .nack c [] d)
      | none => some (ackTo p k (redDown p e v level j (remember p k d))))
    else if 32 ≤ (d.tile p).net.red.length ∧ (d.tile p).redNew v.entry v.tag v.element level j true then none
    else some (ackTo p k (redEnter 40 p e v level j true (remember p k d)))

/-- A result that waits at its participant is written (R266). -/
def redOwn (p : Pos) (k : Packet) (d : Dev) : Option Dev :=
  let h := bits (fieldLe k.sub 0 4) 0 24
  let v : RedVal := { entry := k.red, tag := k.tag, element := h, step := fieldLe k.sub 4 4, data := k.data }
  match (d.jobAt p).bind (fun jb => jb.img.reds[k.red]?) with
  | none => some d
  | some e => if remoteHeld d p (e.off + h * fmtSize e.fmt) k.data.length then none else some (redWrite p e v d)

/-- RED_PACKET; one that finds no room waits in VL2, which RED_STATUS.full shows. -/
def execRedPacket (id : Nat) : State → Out_ :=
  lift (fun d =>
    match d.flight? id with
    | none => d
    | some x =>
      match x.place with
      | .dest p =>
        if x.pkt.ty ≠ .red ∨ (verdict d p x.pkt false = .take ∧ (redAt p x.pkt (d.dropFlight id)).isNone) then d
        else arrive redAt false x p d
      | .own p => if x.pkt.ty = .red then arrive redOwn false x p d else d
      | _ => d)

/-! ## Answers: ACK, GET_RESP, NACK -/

/-- A local counter gains when an operation says so (R252). -/
def gainLcc (p : Pos) (o : Out) (n : Nat) (d : Dev) : Dev :=
  match o.lcc with
  | some c => addCc p c n d
  | none => d

/-- An ACK at the issuer: a TOKEN leaves the send buffer, its number quarantined when it was ever reissued; any other packet frees its number and counts, a multicast
once per tile (R252, R257, R259). -/
def ackAt (p : Pos) (k : Packet) (d : Dev) : Option Dev :=
  let t := d.tile p
  if k.tag = codeOf .token then
    match t.net.outs.find? (fun o => o.pkt.ty == .token && o.pkt.seq == k.seq && o.pkt.attempt == k.attempt && o.pkt.tag == k.red) with
    | some o => some (d.onTile p (fun t =>
        let t := { t with net := { t.net with outs := removeFirst (fun x => x == o) t.net.outs } }
        wakeCause 3 (if o.reissued then t.setPort k.red { t.port k.red with
          quarantine := (t.port k.red).quarantine ++ [o.pkt.seq] } else t)))
    | none => some (lateArrival p d)
  else match matching t k with
    | some o =>
      if codeOf o.pkt.ty ≠ k.tag then some (lateArrival p d)
      else some (freeSeq p o (gainLcc p o (if o.pkt.ty = .mcast then o.units * fieldLe k.data 0 4 else o.units) d))
    | none => some (lateArrival p d)

/-- An answer that reaches a port tile: it matches a packet of its own, or it is late; one for the host goes on at its tether
port. -/
def atPort (id : Nat) (ty : PType) (f : Nat → (Out × Nat × Nat) → Packet → Dev → Dev) (d : Dev) : Dev :=
  match d.flight? id with
  | none => d
  | some x =>
    match x.place with
    | .port pid =>
      if x.pkt.ty ≠ ty ∨ x.transit.isSome ∨ x.pkt.xdev then d
      else match portMatching (d.port pid) x.pkt with
        | some o => f pid o x.pkt (d.dropFlight id)
        | none => if pid < 96 then portLate pid x.pkt (d.dropFlight id) else d
    | _ => d

/-- A command whose packet is at a port tile or at a tile. -/
def atEither (id : Nat) (onPort : Dev → Dev) (onTile : State → Out_) (s : State) : Out_ :=
  match (s.dev.flight? id).map (fun (x : Flight) => x.place) with
  | some (Place.port _) => lift onPort s
  | _ => onTile s

/-- A tree router's part of ACK (R261), or the issuer's. -/
def ackTile (id : Nat) : State → Out_ :=
  lift (fun d =>
    match d.flight? id with
    | none => d
    | some x =>
      match x.place with
      | .dest p =>
        if x.pkt.ty ≠ .ack then d
        else (match x.pkt.pfx with
          | some issuer => treePart p { x.pkt with src := issuer } (fieldLe x.pkt.data 0 4) (d.dropFlight id)
          | none => arrive ackAt false x p d)
      | _ => d)

/-- ACK (R252, R257, R261, R281). -/
def execAck (id : Nat) : State → Out_ :=
  atEither id (atPort id .ack (fun pid o _ d => portAcked o (portForget pid o d))) (ackTile id)

/-- A GET_RESP at the issuer: the data is written, then counted (R252). -/
def getRespAt (p : Pos) (k : Packet) (d : Dev) : Option Dev :=
  match matching (d.tile p) k with
  | none => some (lateArrival p d)
  | some o =>
    if o.pkt.ty ≠ .getReq then some (lateArrival p d)
    else if remoteHeld d p o.local_ k.data.length then none
    else match (d.tile p).store o.local_ k.data with
      | none => some (faultTile p 0x0401 0 {} d)
      | some t => some (freeSeq p o (gainLcc p o (k.data.length / 16) (d.setTile p t)))

/-- The data of a WRITE piece at its port tile: held, in the room that was kept when its piece began (R281, R285, R288). -/
def getRespPort (pid : Nat) (o : Out × Nat × Nat) (k : Packet) (d : Dev) : Dev :=
  match d.engineOf o.2.1 with
  | none => portForget pid o d
  | some (_, r) =>
    portAcked o (portForget pid o (holdWrite pid { j := r.j, src := (d.tile r.requester).rc, step := r.step
                                                   kind := .hbm o.1.local_ k.data } d))

/-- GET_RESP (R252, R281). -/
def execGetResp (id : Nat) (s : State) : Out_ :=
  atEither id (atPort id .getResp getRespPort) (atTile id .getResp false getRespAt) s

/-- A NACK at the issuer: the timer stops, the number is free, its code is raised (R250, R256). -/
def nackAt (p : Pos) (k : Packet) (d : Dev) : Option Dev :=
  match matching (d.tile p) k with
  | some o => some (faultTile p k.tag 0 {} (freeSeq p o d))
  | none => some (lateArrival p d)

/-- NACK (R256, R283). -/
def execNack (id : Nat) : State → Out_ :=
  atEither id (atPort id .nack (fun pid o k d => portFailed pid o k.tag (portForget pid o d))) (atTile id .nack false nackAt)

/-! ## VL3 (R241) -/

/-- A packet with a protocol of its own is taken off the mesh at its destination; what it carries takes effect in the
steps that name it (log 34). -/
def takeVl3 (id : Nat) (ty : PType) : State → Out_ :=
  lift (fun d =>
    match d.flight? id with
    | none => d
    | some x =>
      if x.pkt.ty ≠ ty then d
      else match x.place with
        | .dest p => if x.pkt.vl ≠ 3 ∨ stale d x.pkt then dropAt id 6 p d else d.dropFlight id
        | .port _ => if x.transit.isSome ∨ x.pkt.xdev then d else d.dropFlight id
        | _ => d)

/-- MGMT_PACKET. -/
def execMgmtPacket (id : Nat) : State → Out_ := takeVl3 id .mgmt

/-- SCAN_PACKET. -/
def execScanPacket (id : Nat) : State → Out_ := takeVl3 id .scan

/-! ## Timers -/

/-- REMOTE_TIMEOUT (R256, R259, R281). -/
def execRemoteTimeout (tm : Timer) : State → Out_ :=
  liftAt (timerOk tm) (fun d =>
    match tm with
    | .tile t seq =>
      if !d.timersRun t then d
      else match (d.tile t).net.outs.find? (fun o => o.timer && o.pkt.ty != .token && o.pkt.seq == seq) with
        | some o => reissue t o d
        | none => d
    | .token t port num =>
      if !d.timersRun t then d
      else match (d.tile t).net.outs.find? (fun o => o.pkt.ty == .token && o.pkt.tag == port && o.pkt.seq == num) with
        | some o => reissue t o d
        | none => d
    | .port id seq =>
      match (d.port id).outs.find? (fun o => o.1.pkt.seq == seq) with
      | some o => if d.portTimersRun o.1.pkt.jslot then portReissue id o d else d
      | none => d)

end Sys2Proof.Machine
end

