-- ==== Sys2Proof/Machine/RemoteInsn.lean ====
section
/-! DEFINITION. Remote operations and completion counters as instructions (R204-R212, R249-R251). -/

namespace Sys2Proof.Machine

/-- An endpoint that a remote operation may name: inside the region and, on this device, a tile of the job
(R204). -/
def endpointStop (j : Job) (w : Word) : Option Nat :=
  let c := epRc w
  if !epOk w then some 0x0104
  else if 15 * j.img.w ≤ c.rx ∨ j.img.h ≤ c.ry then some 0x0304
  else if !epOff w && !j.img.isMember c then some 0x0304
  else none

/-- The rank an endpoint names: this device, or the one of REMOTE_CTX (R204, R206). -/
def endpointRank (t : Tile) (s : Slot) (w : Word) : Nat := if epOff w then ctxRank s.ctx else t.rank

/-- A target range outside the data memory of the target's kind (R205). -/
def targetBad (c : RC) (off n : Nat) : Bool := !inMem (rcKind c.rx) off n

/-- Issue of `k` packets needs that many free sequence numbers; else the thread waits and the first wait of a step
raises 0x0303 (R210, R212). One that issues none does not wait. -/
def withWindow (p : Pos) (k : Nat) (d : Dev) (f : Dev → Res) : Res :=
  let n := (d.tile p).net
  if k == 0 || (n.unsent.isEmpty && n.room k) then f d
  else .wait 9 (eventOnce p 0x0303 0 (d.onTile p (fun t => { t with net := { t.net with windowWait := true } })))

/-- The checks that PUT, GET and RADD share (R205). -/
def remoteStop (j : Job) (kind : Nat) (loc : Nat) (ep : Word) (r : Remote) : Option Nat :=
  if r.units = 0 then some 0x0104
  else if loc % 16 ≠ 0 ∨ r.off % 16 ≠ 0 then some 0x0405
  else match endpointStop j ep with
    | some c => some c
    | none =>
      if targetBad (epRc ep) r.off (16 * r.units) then some 0x0305
      else if !inMem kind loc (16 * r.units) then some 0x0404
      else none

/-- One packet of a PUT or RADD toward an endpoint. -/
def dataPacket (d : Dev) (p : Pos) (ty : PType) (off_ : Bool) (rank : Nat) (c : RC) (off dcc : Nat) (dce long : Bool)
    (sub : List Byte) (bs : List Byte) : Packet :=
  aimed d p off_ rank c { (d.tile p).packet p ty (.phys p) bs with
    tag := putTag off, red := putRed off dcc dce, long := long, sub := sub
    len := bs.length / 16 + (if sub.isEmpty then 0 else 1) }

/-- A PUT packet that is a submission: two units, exactly the window of a DMA queue of the job on this device (R279). -/
def submits (d : Dev) (j : Job) (off_ : Bool) (c : RC) (off n : Nat) : Bool :=
  !off_ && n == 2 && (match j.posOf d.map c with
    | some q => (d.tile q).dmaqs.any (fun x => x.area == off)
    | none => false)

/-- A tile has one more descriptor to wait for from the moment it sends it (R332). -/
def countSubmission (p : Pos) (on : Bool) (d : Dev) : Dev :=
  if on then d.onTile p (fun t => { t with dmaOut := t.dmaOut + 1 }) else d

/-- PUT and RADD: the local range read and cut into packets in increasing address order (R241). -/
def pushOp (p : Pos) (ts op : Nat) (ty : PType) (rd rs1 rs2 : Reg) (imm : BitVec 10) (cut : Nat) (long : Bool)
    (sub : List Byte) (d : Dev) : Res :=
  let t := d.tile p
  let s := t.slot ts
  let r := remoteOf (s.g rs2) imm
  let ep := s.g rs1
  let loc := (s.g rd).toNat
  match d.jobAt p with
  | none => .stay d
  | some j =>
    match remoteStop j p.kind loc ep r with
    | some c => .fault c 0
    | none =>
      let cs := chunks r.units (if epOff ep then cut - 1 else cut)
      withWindow p cs.length d (fun d => withRead p ts loc (16 * r.units) d (fun bs d =>
        .done (d.each cs (fun (o, n) d =>
          let k := dataPacket d p ty (epOff ep) (endpointRank t s ep) (epRc ep) (r.off + 16 * o) r.dcc r.dce long sub
            (slice bs (16 * o) (16 * n))
          sendNumbered p k (if r.lce then some r.lcc else none) n (loc + 16 * o) ep.toNat op
            (countSubmission p (ty == .put && submits d j (epOff ep) (epRc ep) (r.off + 16 * o) n) d)))))

/-- PUT (R205, R206 table). -/
def execPut (t : Pos) (ts : Nat) (rd rs1 rs2 : Reg) (imm : BitVec 10) : State → Out_ :=
  liftAt (slotOk t ts) (runThread t ts (encA 0x50 rd rs1 rs2 imm)
    (pushOp t ts 0x50 .put rd rs1 rs2 imm 16 false []))

/-- GET: dcc and dce must be 0 (R205, R206 table). -/
def execGet (t : Pos) (ts : Nat) (rd rs1 rs2 : Reg) (imm : BitVec 10) : State → Out_ :=
  liftAt (slotOk t ts) (runThread t ts (encA 0x51 rd rs1 rs2 imm) (fun d =>
    let x := d.tile t
    let s := x.slot ts
    let r := remoteOf (s.g rs2) imm
    let ep := s.g rs1
    let loc := (s.g rd).toNat
    match d.jobAt t with
    | none => .stay d
    | some j =>
      if r.dcc ≠ 0 ∨ r.dce then .fault 0x0104 0
      else match remoteStop j t.kind loc ep r with
        | some c => .fault c 0
        | none =>
          let cs := chunks r.units (if epOff ep then 15 else 16)
          withWindow t cs.length d (fun d => .done (d.each cs (fun (o, n) d =>
            let k := dataPacket d t .getReq (epOff ep) (endpointRank x s ep) (epRc ep) (r.off + 16 * o) 0 false false [] []
            sendNumbered t { k with len := n + (if k.xdev then 1 else 0) } (if r.lce then some r.lcc else none) n
              (loc + 16 * o) ep.toNat 0x51 d)))))

/-- RADD: format and long flag from REMOTE_CTX, a Compute target (R206). -/
def execRadd (t : Pos) (ts : Nat) (rd rs1 rs2 : Reg) (imm : BitVec 10) : State → Out_ :=
  liftAt (slotOk t ts) (runThread t ts (encA 0x52 rd rs1 rs2 imm) (fun d =>
    let s := (d.tile t).slot ts
    if !longFmt (ctxFmt s.ctx) then .fault 0x0104 0
    else if rcKind (epRc (s.g rs1)).rx ≠ 0 then .fault 0x0305 0
    else pushOp t ts 0x52 .radd rd rs1 rs2 imm 15 (ctxLong s.ctx)
      (padTo 16 (le 2 (ctxFmt s.ctx + 2 ^ 8 * ctxStream s.ctx))) d))

/-- The members of a job inside a rectangle of region coordinates. -/
def membersIn (j : Job) (a b : RC) : List RC :=
  j.img.members.filter (fun c => decide (a.rx ≤ c.rx ∧ c.rx ≤ b.rx ∧ a.ry ≤ c.ry ∧ c.ry ≤ b.ry))

/-- The smallest and largest of a list of numbers. -/
def minOf (l : List Nat) : Nat := l.foldl min (l.headD 0)
def maxOf (l : List Nat) : Nat := l.foldl max 0

/-- The sub-header of an MCAST packet (R260): the rectangle, the physical columns of the tree, offset and counter. -/
def mcastSub (d : Dev) (j : Job) (a b : RC) (off dcc : Nat) (dce : Bool) : List Byte :=
  let rows := (List.range (b.ry - a.ry + 1)).map (· + a.ry)
  let cols := fun (rx : Nat) => (rows.filterMap (fun y => j.posOf d.map ⟨rx, y⟩)).map (·.px)
  let pxw := minOf (cols a.rx) - 2
  let pxe := min 511 (maxOf (cols b.rx) + 2)
  le 4 (rcWord a) ++ le 4 (rcWord b) ++ le 4 (pxw + 2 ^ 9 * pxe) ++ le 4 (off + 2 ^ 21 * dcc + flagAt dce 25)

/-- MCAST: rs1 even, both corners on this device (R206 table, R260). -/
def execMcast (t : Pos) (ts : Nat) (rd rs1 rs2 : Reg) (imm : BitVec 10) : State → Out_ :=
  liftAt (slotOk t ts) (runThread t ts (encA 0x53 rd rs1 rs2 imm) (fun d =>
    let x := d.tile t
    let s := x.slot ts
    let r := remoteOf (s.g rs2) imm
    let e0 := s.g rs1
    let e1 := s.g (rs1 + 1)
    let a := epRc e0
    let b := epRc e1
    let loc := (s.g rd).toNat
    match d.jobAt t with
    | none => .stay d
    | some j =>
      if rs1.val % 2 ≠ 0 ∨ epOff e0 ∨ epOff e1 ∨ b.rx < a.rx ∨ b.ry < a.ry then .fault 0x0104 0
      else match remoteStop j t.kind loc e0 r, endpointStop j e1 with
        | some c, _ => .fault c 0
        | none, some c => .fault c 0
        | none, none =>
          if (membersIn j a b).any (fun c => targetBad c r.off (16 * r.units)) then .fault 0x0305 0
          else
            let cs := chunks r.units 15
            withWindow t cs.length d (fun d => withRead t ts loc (16 * r.units) d (fun bs d =>
              .done (d.each cs (fun (o, n) d =>
                let sub := mcastSub d j a b (r.off + 16 * o) r.dcc r.dce
                let row := match j.origin with
                  | some (_, py0) => py0 + a.ry
                  | none => 0
                let k := { (d.tile t).packet t .mcast (.phys ⟨fieldLe sub 8 4 % 512, row⟩) (slice bs (16 * o) (16 * n)) with
                  sub := sub, len := n + 1 }
                sendNumbered t k (if r.lce then some r.lcc else none) n (loc + 16 * o) e0.toNat 0x53 d))))))

/-- SIGNAL: value rs2 to queue imm10[9:4], counted on imm10[3:0] by rd (R208, R230). -/
def execSignal (t : Pos) (ts : Nat) (rd rs1 rs2 : Reg) (imm : BitVec 10) : State → Out_ :=
  liftAt (slotOk t ts) (runThread t ts (encA 0x54 rd rs1 rs2 imm) (fun d =>
    let x := d.tile t
    let s := x.slot ts
    let ep := s.g rs1
    match d.jobAt t with
    | none => .stay d
    | some j =>
      match endpointStop j ep with
      | some c => .fault c 0
      | none => withWindow t 1 d (fun d =>
          let bs := padTo 16 (le 4 (s.g rs2).toNat ++ le 4 (s.g rd).toNat)
          let k := aimed d t (epOff ep) (endpointRank x s ep) (epRc ep) { x.packet t .signal (.phys t) bs with
            tag := bits imm.toNat 4 6 + 2 ^ 6 * bits imm.toNat 0 4 }
          .done (sendNumbered t k none 0 0 ep.toNat 0x54
            (d.onTile t (fun x => { x with sync := { x.sync with sigOut := x.sync.sigOut + 1 } }))))))

/-- REDC: a run contributed to a reduction of the image's table (R207, R263). A run whose left children find no room at the
tile's router waits for it (log 174). -/
def execRedc (t : Pos) (ts : Nat) (rd rs1 rs2 : Reg) (imm : BitVec 10) : State → Out_ :=
  liftAt (slotOk t ts) (runThread t ts (encA 0x55 rd rs1 rs2 imm) (fun d =>
    let x := d.tile t
    let s := x.slot ts
    let loc := (s.g rd).toNat
    let w1 := (s.g rs1).toNat
    let w2 := (s.g rs2).toNat
    let units := bits w2 24 8 + 1
    match d.jobAt t with
    | none => .stay d
    | some j =>
      match j.img.reds[bits w1 16 6]? with
      | none => .fault 0x0104 0
      | some e =>
        match e.ordinal x.rank x.rc with
        | none => .fault 0x0104 0
        | some q =>
          if loc % 16 ≠ 0 then .fault 0x0405 0
          else
            let cs := chunks units e.cut
            let value := fun (bs : List Byte) (o n : Nat) =>
              ({ entry := bits w1 16 6, tag := bits w1 0 16, element := (bits w2 0 24 + 16 * o / fmtSize e.fmt) % 2 ^ 24
                 step := x.step % 2 ^ 32, data := slice bs (16 * o) (16 * n) } : RedVal)
            let holds := (cs.filter (fun y => redHolds x e q (value [] y.1 y.2))).length
            if holds ≠ 0 ∧ 32 < x.net.red.length + holds then .wait 9 d
            else withWindow t (if q % 2 = 1 then cs.length else 0) d (fun d => withRead t ts loc (16 * units) d (fun bs d =>
              .done (d.each cs (fun (o, n) d =>
                redContribute t e q (value bs o n) (if imm.getLsbD 4 then some (bits imm.toNat 0 4) else none)
                  (loc + 16 * o) d))))))

/-- SETRC: REMOTE_CTX = rs1; a reserved bit that is set to 1 reads free from then on (R12, R206, log 12). -/
def execSetrc (t : Pos) (ts : Nat) (rs1 : Reg) : State → Out_ :=
  liftAt (slotOk t ts) (runThread t ts (encA 0x56 0 rs1 0 0) (fun d =>
    let v := ((d.tile t).slot ts).g rs1
    let bad := v &&& 0xC0000000
    let r : Word × Dev := if bad = 0 then (v, d) else ((v &&& 0x3FFFFFFF) ||| (d.free.1 &&& bad), d.free.2)
    .done (r.2.onTile t (fun x => x.onSlot ts (fun s => { s with ctx := r.1 })))))

/-- CCRD (R209). -/
def execCcrd (t : Pos) (ts : Nat) (rd : Reg) (qid : BitVec 6) : State → Out_ :=
  liftAt (slotOk t ts) (runThread t ts (encQ 0x57 rd 0 0 0 qid) (fun d =>
    regOp t ts rd (fun _ => (d.tile t).net.cc.get 0 (bits qid.toNat 0 4)) d))

/-- The counter has reached a register's value, compared unsigned. -/
def ccReached (d : Dev) (p : Pos) (ts : Nat) (rs1 : Reg) (n : Nat) : Bool :=
  decide ((((d.tile p).slot ts).g rs1).toNat ≤ ((d.tile p).net.cc.get 0 n).toNat)

/-- CCWAIT (R209). -/
def execCcwait (t : Pos) (ts : Nat) (rs1 : Reg) (qid : BitVec 6) : State → Out_ :=
  liftAt (slotOk t ts) (runThread t ts (encQ 0x58 0 rs1 0 0 qid) (fun d =>
    if ccReached d t ts rs1 (bits qid.toNat 0 4) then .done d else .wait 8 d))

/-- CCTAKE: waits, then subtracts; held signals are tested against the result (R209). -/
def execCctake (t : Pos) (ts : Nat) (rs1 : Reg) (qid : BitVec 6) : State → Out_ :=
  liftAt (slotOk t ts) (runThread t ts (encQ 0x59 0 rs1 0 0 qid) (fun d =>
    let n := bits qid.toNat 0 4
    if ccReached d t ts rs1 n then
      .done (setCc t n (((d.tile t).net.cc.get 0 n).toNat - (((d.tile t).slot ts).g rs1).toNat) d)
    else .wait 8 d))

/-- CCSET (R209). -/
def execCcset (t : Pos) (ts : Nat) (rs1 : Reg) (qid : BitVec 6) : State → Out_ :=
  liftAt (slotOk t ts) (runThread t ts (encQ 0x5A 0 rs1 0 0 qid) (fun d =>
    .done (setCc t (bits qid.toNat 0 4) (((d.tile t).slot ts).g rs1).toNat d)))

end Sys2Proof.Machine
end

