-- ==== Sys2Proof/Machine/Scalar.lean ====
section
/-! DEFINITION. Scalar and branch instructions (R194) and reserved words (R188). -/

namespace Sys2Proof.Machine

/-- ADD (R194). -/
def execAdd (t : Pos) (ts : Nat) (rd rs1 rs2 : Reg) : State → Out_ :=
  liftAt (slotOk t ts) (runThread t ts (encA 0x01 rd rs1 rs2 0)
    (regOp t ts rd (fun s => s.g rs1 + s.g rs2)))

/-- SUB (R194). -/
def execSub (t : Pos) (ts : Nat) (rd rs1 rs2 : Reg) : State → Out_ :=
  liftAt (slotOk t ts) (runThread t ts (encA 0x02 rd rs1 rs2 0)
    (regOp t ts rd (fun s => s.g rs1 - s.g rs2)))

/-- AND (R194). -/
def execAnd (t : Pos) (ts : Nat) (rd rs1 rs2 : Reg) : State → Out_ :=
  liftAt (slotOk t ts) (runThread t ts (encA 0x03 rd rs1 rs2 0)
    (regOp t ts rd (fun s => s.g rs1 &&& s.g rs2)))

/-- OR (R194). -/
def execOr (t : Pos) (ts : Nat) (rd rs1 rs2 : Reg) : State → Out_ :=
  liftAt (slotOk t ts) (runThread t ts (encA 0x04 rd rs1 rs2 0)
    (regOp t ts rd (fun s => s.g rs1 ||| s.g rs2)))

/-- XOR (R194). -/
def execXor (t : Pos) (ts : Nat) (rd rs1 rs2 : Reg) : State → Out_ :=
  liftAt (slotOk t ts) (runThread t ts (encA 0x05 rd rs1 rs2 0)
    (regOp t ts rd (fun s => s.g rs1 ^^^ s.g rs2)))

/-- SLL: shift amounts modulo 32 (R194). -/
def execSll (t : Pos) (ts : Nat) (rd rs1 rs2 : Reg) : State → Out_ :=
  liftAt (slotOk t ts) (runThread t ts (encA 0x06 rd rs1 rs2 0)
    (regOp t ts rd (fun s => s.g rs1 <<< ((s.g rs2).toNat % 32))))

/-- SRL (R194). -/
def execSrl (t : Pos) (ts : Nat) (rd rs1 rs2 : Reg) : State → Out_ :=
  liftAt (slotOk t ts) (runThread t ts (encA 0x07 rd rs1 rs2 0)
    (regOp t ts rd (fun s => s.g rs1 >>> ((s.g rs2).toNat % 32))))

/-- SRA (R194). -/
def execSra (t : Pos) (ts : Nat) (rd rs1 rs2 : Reg) : State → Out_ :=
  liftAt (slotOk t ts) (runThread t ts (encA 0x08 rd rs1 rs2 0)
    (regOp t ts rd (fun s => (s.g rs1).sshiftRight ((s.g rs2).toNat % 32))))

/-- SLT, signed (R194). -/
def execSlt (t : Pos) (ts : Nat) (rd rs1 rs2 : Reg) : State → Out_ :=
  liftAt (slotOk t ts) (runThread t ts (encA 0x09 rd rs1 rs2 0)
    (regOp t ts rd (fun s => if (s.g rs1).slt (s.g rs2) then 1 else 0)))

/-- SLTU, unsigned (R194). -/
def execSltu (t : Pos) (ts : Nat) (rd rs1 rs2 : Reg) : State → Out_ :=
  liftAt (slotOk t ts) (runThread t ts (encA 0x0A rd rs1 rs2 0)
    (regOp t ts rd (fun s => if (s.g rs1).ult (s.g rs2) then 1 else 0)))

/-- MUL: the low 32 bits (R194). -/
def execMul (t : Pos) (ts : Nat) (rd rs1 rs2 : Reg) : State → Out_ :=
  liftAt (slotOk t ts) (runThread t ts (encA 0x0B rd rs1 rs2 0)
    (regOp t ts rd (fun s => s.g rs1 * s.g rs2)))

/-- MULHU: the high 32 bits of the unsigned product (R194). -/
def execMulhu (t : Pos) (ts : Nat) (rd rs1 rs2 : Reg) : State → Out_ :=
  liftAt (slotOk t ts) (runThread t ts (encA 0x0C rd rs1 rs2 0)
    (regOp t ts rd (fun s => BitVec.ofNat 32 ((s.g rs1).toNat * (s.g rs2).toNat / 2 ^ 32))))

/-- MINS, signed (R194). -/
def execMins (t : Pos) (ts : Nat) (rd rs1 rs2 : Reg) : State → Out_ :=
  liftAt (slotOk t ts) (runThread t ts (encA 0x0D rd rs1 rs2 0)
    (regOp t ts rd (fun s => if (s.g rs2).slt (s.g rs1) then s.g rs2 else s.g rs1)))

/-- MAXS, signed (R194). -/
def execMaxs (t : Pos) (ts : Nat) (rd rs1 rs2 : Reg) : State → Out_ :=
  liftAt (slotOk t ts) (runThread t ts (encA 0x0E rd rs1 rs2 0)
    (regOp t ts rd (fun s => if (s.g rs1).slt (s.g rs2) then s.g rs2 else s.g rs1)))

/-- ADDI (R194). -/
def execAddi (t : Pos) (ts : Nat) (rd rs1 : Reg) (imm : BitVec 15) : State → Out_ :=
  liftAt (slotOk t ts) (runThread t ts (encI 0x10 rd rs1 imm)
    (regOp t ts rd (fun s => s.g rs1 + imm.signExtend 32)))

/-- ANDI, zero-extended (R194). -/
def execAndi (t : Pos) (ts : Nat) (rd rs1 : Reg) (imm : BitVec 15) : State → Out_ :=
  liftAt (slotOk t ts) (runThread t ts (encI 0x11 rd rs1 imm)
    (regOp t ts rd (fun s => s.g rs1 &&& imm.setWidth 32)))

/-- ORI, zero-extended (R194). -/
def execOri (t : Pos) (ts : Nat) (rd rs1 : Reg) (imm : BitVec 15) : State → Out_ :=
  liftAt (slotOk t ts) (runThread t ts (encI 0x12 rd rs1 imm)
    (regOp t ts rd (fun s => s.g rs1 ||| imm.setWidth 32)))

/-- XORI, zero-extended (R194). -/
def execXori (t : Pos) (ts : Nat) (rd rs1 : Reg) (imm : BitVec 15) : State → Out_ :=
  liftAt (slotOk t ts) (runThread t ts (encI 0x13 rd rs1 imm)
    (regOp t ts rd (fun s => s.g rs1 ^^^ imm.setWidth 32)))

/-- SHI: imm10[6:5] selects SLL, SRL or SRA; 0b11 faults (R194). -/
def execShi (t : Pos) (ts : Nat) (rd rs1 : Reg) (imm : BitVec 10) : State → Out_ :=
  liftAt (slotOk t ts) (runThread t ts (encA 0x14 rd rs1 0 imm) (fun d =>
    let n := bits imm.toNat 0 5
    match bits imm.toNat 5 2 with
    | 0 => regOp t ts rd (fun s => s.g rs1 <<< n) d
    | 1 => regOp t ts rd (fun s => s.g rs1 >>> n) d
    | 2 => regOp t ts rd (fun s => (s.g rs1).sshiftRight n) d
    | _ => .fault 0x0104 0))

/-- SLTI, signed (R194). -/
def execSlti (t : Pos) (ts : Nat) (rd rs1 : Reg) (imm : BitVec 15) : State → Out_ :=
  liftAt (slotOk t ts) (runThread t ts (encI 0x15 rd rs1 imm)
    (regOp t ts rd (fun s => if (s.g rs1).slt (imm.signExtend 32) then 1 else 0)))

/-- LUI: imm20 shifted left by 12 (R194). -/
def execLui (t : Pos) (ts : Nat) (rd : Reg) (imm : BitVec 20) : State → Out_ :=
  liftAt (slotOk t ts) (runThread t ts (encU 0x16 rd imm)
    (regOp t ts rd (fun _ => imm.setWidth 32 <<< 12)))

/-- BEQ; branches read rd as a source (R194). -/
def execBeq (t : Pos) (ts : Nat) (rd rs1 : Reg) (imm : BitVec 15) : State → Out_ :=
  liftAt (slotOk t ts) (runThread t ts (encI 0x18 rd rs1 imm)
    (branchOp t ts imm (fun s => s.g rd == s.g rs1)))

/-- BNE; branches read rd as a source (R194). -/
def execBne (t : Pos) (ts : Nat) (rd rs1 : Reg) (imm : BitVec 15) : State → Out_ :=
  liftAt (slotOk t ts) (runThread t ts (encI 0x19 rd rs1 imm)
    (branchOp t ts imm (fun s => s.g rd != s.g rs1)))

/-- BLT; branches read rd as a source (R194). -/
def execBlt (t : Pos) (ts : Nat) (rd rs1 : Reg) (imm : BitVec 15) : State → Out_ :=
  liftAt (slotOk t ts) (runThread t ts (encI 0x1A rd rs1 imm)
    (branchOp t ts imm (fun s => (s.g rd).slt (s.g rs1))))

/-- BGE; branches read rd as a source (R194). -/
def execBge (t : Pos) (ts : Nat) (rd rs1 : Reg) (imm : BitVec 15) : State → Out_ :=
  liftAt (slotOk t ts) (runThread t ts (encI 0x1B rd rs1 imm)
    (branchOp t ts imm (fun s => !(s.g rd).slt (s.g rs1))))

/-- BLTU; branches read rd as a source (R194). -/
def execBltu (t : Pos) (ts : Nat) (rd rs1 : Reg) (imm : BitVec 15) : State → Out_ :=
  liftAt (slotOk t ts) (runThread t ts (encI 0x1C rd rs1 imm)
    (branchOp t ts imm (fun s => (s.g rd).ult (s.g rs1))))

/-- BGEU; branches read rd as a source (R194). -/
def execBgeu (t : Pos) (ts : Nat) (rd rs1 : Reg) (imm : BitVec 15) : State → Out_ :=
  liftAt (slotOk t ts) (runThread t ts (encI 0x1D rd rs1 imm)
    (branchOp t ts imm (fun s => !(s.g rd).ult (s.g rs1))))

/-- JAL: rd = pc + 1, then pc + imm15 (R194). -/
def execJal (t : Pos) (ts : Nat) (rd : Reg) (imm : BitVec 15) : State → Out_ :=
  liftAt (slotOk t ts) (runThread t ts (encI 0x1E rd 0 imm) (fun d =>
    let s := (d.tile t).slot ts
    .jump (d.onTile t (fun x => x.onSlot ts (fun s => s.setG rd (BitVec.ofNat 32 (s.pc + 1)))))
      (((s.pc : Int) + simm imm) % (kindProg t.kind : Nat)).toNat))

/-- JALR: rd = pc + 1, then rs1 + imm15 modulo the program size (R185, R194); rs1 is read before rd is written. -/
def execJalr (t : Pos) (ts : Nat) (rd rs1 : Reg) (imm : BitVec 15) : State → Out_ :=
  liftAt (slotOk t ts) (runThread t ts (encI 0x1F rd rs1 imm) (fun d =>
    let s := (d.tile t).slot ts
    .jump (d.onTile t (fun x => x.onSlot ts (fun s => s.setG rd (BitVec.ofNat 32 (s.pc + 1)))))
      (addrOf (s.g rs1) imm)))

/-- A word with a reserved opcode, an opcode the tile kind lacks or a non-zero unused field faults with 0x0104
(R188). A legal word is not this command's to run. -/
def execReservedOpcode (t : Pos) (ts : Nat) (w : Word) : State → Out_ :=
  liftAt (slotOk t ts) (fun d =>
    if canIssue t ts w d && !wordLegal t.kind w then insnFault t ts w 0x0104 0 d else d)

end Sys2Proof.Machine
end

