-- ==== Sys2Proof/Machine/Vector.lean ====
section
/-! DEFINITION. Opcode 0x60: TOP, and VOP on a Function tile (R110, R111, R214); the scout pass (R89, R150-R152). -/

namespace Sys2Proof.Machine

/-! ## The vector descriptor (R214) -/

structure VDesc where
  func : Nat
  fmt : Nat
  rnd : Nat
  stream : Nat
  a : Nat
  b : Nat
  c : Nat
  dst : Nat
  count : Nat
  row : Nat
  param : Word
  p : Nat
  deriving DecidableEq, Repr

def vdesc (ws : List Word) : VDesc :=
  let w := wordAt ws
  { func := bits (w 0) 0 8, fmt := bits (w 0) 8 4, rnd := bits (w 0) 12 2, stream := bits (w 0) 16 8
    a := bits (w 1) 0 18, b := bits (w 2) 0 18, c := bits (w 3) 0 24, dst := bits (w 4) 0 18
    count := bits (w 5) 0 16 + 1, row := bits (w 5) 16 16 + 1, param := ws.getD 6 0, p := bits (w 7) 0 24 }

/-- Integer functions, row functions, functions with a second source, known codes (R214). -/
def VDesc.isInt (v : VDesc) : Bool := decide (0x20 ≤ v.func ∧ v.func ≤ 0x29)
def VDesc.isRow (v : VDesc) : Bool := decide (0x10 ≤ v.func ∧ v.func ≤ 0x14)
def VDesc.hasB (v : VDesc) : Bool := v.isInt || decide (0x01 ≤ v.func ∧ v.func ≤ 0x04)
def VDesc.sorts (v : VDesc) : Bool := v.func == 0x13 || v.func == 0x14
def VDesc.known (v : VDesc) : Bool := v.isInt || decide (0x01 ≤ v.func ∧ v.func ≤ 0x16)

/-- Rows of a row function. -/
def VDesc.rows (v : VDesc) : Nat := v.count / v.row

/-- A fault of R214 with code 0x0104. -/
def VDesc.bad (v : VDesc) : Bool :=
  !v.known || decide (2 ≤ v.rnd) || (v.isInt && v.fmt != 6)
    || (!v.isInt && !(v.fmt == 2 || v.fmt == 3 || v.fmt == 4)) || (v.isRow && v.count % v.row != 0)
    || (v.sorts && decide (256 < v.row))
    || (v.func == 0x14 && !(decide (1 ≤ sgn v.param) && decide (sgn v.param ≤ v.row)))

/-- Elements written to the destination. -/
def VDesc.outs (v : VDesc) : Nat :=
  if v.func = 0x10 ∨ v.func = 0x12 then v.rows else if v.func = 0x14 then v.rows * v.param.toNat else v.count

/-- The ranges read and written: addresses and bytes. -/
def VDesc.reads (v : VDesc) : List (Nat × Nat) :=
  (v.a, 4 * v.count) :: ((if v.hasB then [(v.b, 4 * v.count)] else if v.func = 0x11 then [(v.b, 4 * v.rows)] else [])
    ++ (if v.func = 0x04 then [(v.c, 4 * v.count)] else []))

def VDesc.writes (v : VDesc) : List (Nat × Nat) :=
  (v.dst, v.outs * fmtSize v.fmt) :: (if v.sorts then [(v.b, 4 * v.outs)] else [])

/-- Ranges that the descriptor names and that meet without being the same: the spec gives no order of the reads and
the writes then (log 23). -/
def VDesc.tangled (v : VDesc) : Bool :=
  v.writes.any (fun w => v.reads.any (fun r => badOverlap w.1 w.2 r.1 r.2))
    || (v.sorts && badOverlap v.dst (v.outs * fmtSize v.fmt) v.b (4 * v.outs))

/-- The first thing that keeps the operation from starting on a range it writes. -/
def vopWriteStop (p : Pos) (ts : Nat) (d : Dev) (v : VDesc) : Option Res :=
  v.writes.findSome? (fun w => writeStop p ts w.1 w.2 d)

/-- VOP issues: the descriptor is checked, the thread waits for the vector unit's last element (R175, R214). -/
def vopOp (t : Pos) (ts : Nat) (rs1 : Reg) (d : Dev) : Res :=
  let a := (((d.tile t).slot ts).g rs1).toNat
  if a % 16 ≠ 0 then .fault 0x0405 0
  else if (d.tile t).tensor.vop.isSome then .wait 12 d
  else withRead t ts a 32 d (fun bs d =>
    let ws := wordsLe bs
    let v := vdesc ws
    if v.bad then .fault 0x0104 0
    else if (v.reads ++ v.writes).any (fun r => r.1 % 4 ≠ 0) then .fault 0x0405 0
    else if (v.reads ++ v.writes).any (fun r => !inMem t.kind r.1 r.2) then .fault 0x0404 0
    else if v.reads.any (fun r => rangeForeign (d.tile t) ((d.tile t).slot ts).spec r.1 r.2) then .wait 11 d
    else match vopWriteStop t ts d v with
      | some r => r
      | none => .stay (d.onTile t (fun x =>
          { (x.onSlot ts (fun s => { s with st := .waiting, wait := some .vector })) with
            tensor := { x.tensor with vop := some { slot := ts, insn := encA 0x60 0 rs1 0 0, step := x.step, desc := ws } } })))

/-- Opcode 0x60 by the tile's kind: TOP on a Compute tile, VOP on a Function tile (R210 table, R214). -/
def op60 (t : Pos) (ts : Nat) (rs1 : Reg) (d : Dev) : Res :=
  if t.kind = 1 then vopOp t ts rs1 d else topOp t ts rs1 d

/-- TOP (R93, R210). -/
def execTop (t : Pos) (ts : Nat) (rs1 : Reg) : State → Out_ :=
  liftAt (slotOk t ts) (runThread t ts (encA 0x60 0 rs1 0 0) (op60 t ts rs1))

/-- VOP (R214). -/
def execVop (t : Pos) (ts : Nat) (rs1 : Reg) : State → Out_ :=
  liftAt (slotOk t ts) (runThread t ts (encA 0x60 0 rs1 0 0) (op60 t ts rs1))

/-! ## Results (R110, R214) -/

/-- 1/a, correctly rounded; free at zeros and infinities, where the real function has no value (log 22). -/
def recipF32 (mode : Nat) (a : Word) : Word :=
  match ofF32 a with
  | .nan => 0x7FC00000
  | .num q => toF32 mode (.num ((⟨1, 1⟩ : Q).div q))
  | _ => freeF32 20 a mode

/-- The result of an elementwise function on its sources. -/
def vopElem (v : VDesc) (a b c : Word) : Word :=
  let f := ofF32
  let r := v.rnd
  match v.func with
  | 0x01 => toF32 r ((f a).add (f b))
  | 0x02 => toF32 r ((f a).add (f b).negate)
  | 0x03 => toF32 r ((f a).mul (f b))
  | 0x04 => toF32 r (((f a).mul (f b)).add (f c))
  | 0x05 => recipF32 r a
  | 0x06 => realFn .sqrt r a
  | 0x07 => realFn .rsqrt r a
  | 0x08 => realFn .ex r a
  | 0x09 => realFn .ex2 r a
  | 0x0A => realFn .ln r a
  | 0x0B => realFn .lg2 r a
  | 0x0C => realFn .sin r a
  | 0x0D => realFn .cos r a
  | 0x0E => realFn .tanh r a
  | 0x0F => realFn .erf r a
  | 0x16 => toF32 r ((f a).mul (f v.param))
  | 0x20 => a + b
  | 0x21 => a - b
  | 0x22 => a * b
  | 0x23 => if a.slt b then a else b
  | 0x24 => if a.slt b then b else a
  | 0x25 => a <<< (b.toNat % 32)
  | 0x26 => a >>> (b.toNat % 32)
  | 0x27 => a.sshiftRight (b.toNat % 32)
  | 0x28 => if a = b then 1 else 0
  | _ => if a.slt b then 1 else 0

/-- exp(a − b) of the exact difference; the rules of the sum give an infinite or NaN difference (R58, R110). -/
def expSub (mode : Nat) (a b : Word) : Word :=
  match (ofF32 a).add (ofF32 b).negate with
  | .nan => 0x7FC00000
  | .inf _ => freeF32 23 a mode
  | .zero _ => 0x3F800000
  | .num q => realRound .ex mode a q

/-- The exact maximum of a row; NaN when one is in it; of zeros of both signs a free one (R110, log 22). -/
def rowMax : List Word → Word
  | [] => 0
  | a :: r =>
    if (a :: r).any (fun w => (ofF32 w).isNan) then 0x7FC00000 else r.foldl (fun m w => pickF32 true m w) a

/-- The sum of a row in increasing element order, each addition RNE (R110). -/
def rowSum : List Word → Word
  | [] => 0
  | a :: r => r.foldl addF32 (canon a)

/-- Order of a descending sort: NaN above +inf, equal values keep their order (R110). -/
def sortsBefore (a b : Word) : Bool :=
  let x := ofF32 a
  let y := ofF32 b
  if x.isNan then !y.isNan else if y.isNan then false else y.lt x

/-- An element put after every element that it does not precede. -/
def insertDesc (x : Word × Nat) : List (Word × Nat) → List (Word × Nat)
  | [] => [x]
  | y :: r => if sortsBefore x.1 y.1 then x :: y :: r else y :: insertDesc x r

/-- A row in descending order with its source indices. -/
def sortRow (ws : List Word) : List (Word × Nat) := (ws.zipIdx).foldl (fun l x => insertDesc x l) []

/-- An element of a dropout (R111): domain 2, lane e mod 64. -/
def dropElem (w : Draw) (v : VDesc) (i : Nat) (a : Word) : Word :=
  let e := (v.c + i) % 2 ^ 24
  if v.p ≤ drawWord w 2 e (e % 64) % 2 ^ 24 then mulF32 a v.param else 0

/-- A result stored in the destination format (R71, R110). -/
def vopCode (v : VDesc) (w : Word) : Nat :=
  if v.fmt = 4 ∨ v.fmt = 6 then w.toNat else (convert v.fmt v.rnd 0 (ofF32 w)).1

/-- The results of an operation, and the source indices that SORT and TOPK write (R110, R214). -/
def vopResults (w : Draw) (v : VDesc) (m : Mem) : List Word × List Nat :=
  let src := fun (base n : Nat) => (List.range n).map (fun i => memWord m (base + 4 * i))
  let as := src v.a v.count
  let rows := (List.range v.rows).map (fun i => (as.drop (i * v.row)).take v.row)
  if v.func = 0x10 then (rows.map rowMax, [])
  else if v.func = 0x12 then (rows.map rowSum, [])
  else if v.func = 0x11 then
    ((rows.zip (src v.b v.rows)).flatMap (fun (r, b) => r.map (fun a => expSub v.rnd a b)), [])
  else if v.sorts then
    let k := if v.func = 0x14 then v.param.toNat else v.row
    let out := rows.flatMap (fun r => (sortRow r).take k)
    (out.map (fun x => canon x.1), out.map (·.2))
  else if v.func = 0x15 then ((as.zipIdx).map (fun (a, i) => dropElem w v i a), [])
  else
    let bs := if v.hasB then src v.b v.count else []
    let cs := if v.func = 0x04 then src v.c v.count else []
    ((as.zipIdx).map (fun (a, i) => vopElem v a (bs.getD i 0) (cs.getD i 0)), [])

/-- A list of free words (log 10). -/
def freeWords : Nat → Dev → List Word × Dev
  | 0, d => ([], d)
  | n + 1, d =>
    let (l, d') := freeWords n d.free.2
    (d.free.1 :: l, d')

/-- The vector operation's end: results written, the thread goes on after its instruction. -/
def runVop (p : Pos) (o : VopRun) (d : Dev) : Dev :=
  let v := vdesc o.desc
  let ts := o.slot
  let fail := fun (d : Dev) => insnFault p ts o.insn 0x0401 0 d
  if v.writes.any (fun w => copyProtected d p w.1 w.2) && !(d.tile p).check.recording then d
  else match (d.tile p).sweep v.reads with
  | none => fail d
  | some t =>
    let d := d.setTile p t
    let (vals, idx) := vopResults { drawOf d p v.stream with step := o.step } v t.mem
    let (vals, d) := if v.tangled then freeWords v.outs d else (vals, d)
    let (idx, d) := if v.tangled && v.sorts then
        (let r := freeWords v.outs d; (r.1.map BitVec.toNat, r.2)) else (idx, d)
    let out := (v.dst, unelems v.fmt (vals.map (fun w => vopCode v w % 2 ^ (8 * fmtSize v.fmt))))
      :: (if v.sorts then [(v.b, idx.flatMap (le 4))] else [])
    match storeAll p.kind out (d.tile p) with
    | (_, some _) => fail d
    | (t, none) =>
      let own := (t.slot ts).spec
      d.setTile p ({ (v.writes.foldl (fun t w => takeLines own w.1 w.2 t) t).onSlot ts (fun s => s.resume p.kind) with
        tensor := { t.tensor with vop := none } })

/-- VOP_COMPLETE (R110, R214, R327): the last element is written and the thread resumes, or the lanes' duplicate
execution disagrees. -/
def execVopComplete (t : Pos) (upset : Bool) : State → Out_ :=
  liftAt t.ok (fun d =>
    match (d.tile t).tensor.vop with
    | none => d
    | some o =>
      if !d.drainLive t then d
      else if upset then raiseCheck t 5 0 o.step d
      else runVop t o d)

/-! ## The scout pass (R150-R152) -/

/-- The table c(d) of R150. -/
def scoutC (d : Nat) : Int := if d ≤ 1 then 4 else if d ≤ 3 then 3 else if d ≤ 7 then 2 else if d ≤ 13 then 1 else 0

/-- The table s(d) of R151, for d at least 1. -/
def scoutS (d : Nat) : Int :=
  if d = 1 then 11 else if d = 2 then 7 else if d = 3 then 5 else if d = 4 then 4 else if d ≤ 6 then 3
  else if d ≤ 8 then 2 else if d ≤ 14 then 1 else 0

/-- An accumulator receives a log value (R150). -/
def scoutAdd (acc : Option Int) (e : Int) : Int :=
  match acc with
  | none => e
  | some a => max a e + scoutC (a - e).natAbs

/-- The estimate of one output element from its scaled element values (R150, R151). -/
def scoutEstimate (ps : List (Val × Val)) : Nat :=
  if ps.any (fun x => x.1.isNan || x.2.isNan) then 255
  else
    let (pp, qq) := ps.foldl (fun (s : Option Int × Option Int) x =>
      if x.1.isZero || x.2.isZero then s
      else
        let e := 4 * (valLog2 x.1 + valLog2 x.2)
        if x.1.neg == x.2.neg then (some (scoutAdd s.1 e), s.2) else (s.1, some (scoutAdd s.2 e))) (none, none)
    let est := fun (l : Int) => (min 254 (max 1 (Int.fdiv l 2 + 128))).toNat
    match pp, qq with
    | none, none => 0
    | some a, none => est a
    | none, some b => est b
    | some a, some b => if a = b then 0 else est (max a b - scoutS (a - b).natAbs)

/-- The blocks of a row that are selected (R152). -/
def scoutSelect (e : TDesc) (ests : List Nat) : List Bool :=
  (ests.zipIdx).map (fun (x, j) =>
    if e.scoutSel then decide (e.scoutThr ≤ x)
    else decide (((ests.zipIdx).filter (fun (y, i) => decide (x < y) || (x == y && decide (i < j)))).length < e.scoutK))

/-- The mask bytes of a row (R152). -/
def maskRow (e : TDesc) (sel : List Bool) : List Byte :=
  (List.range (maskLd e.n)).map (fun i =>
    BitVec.ofNat 8 (sumOver 8 (fun b => flagAt (sel.getD (8 * i + b) false) b)))

/-- One row of the mask from tile memory. -/
def scoutRow (m : Mem) (e : TDesc) (cols : List (List Val)) (row : Nat) : List Byte :=
  let vals := fun (o : Opnd) (l : Line) => l.map (fun (_, c, s) => scaledVal o.fmt s c)
  let a := vals (opndA e) ((opndA e).line m 0 row 0 e.k)
  let ests := cols.map (fun b => scoutEstimate (a.zip b))
  let blocks := (List.range (cdiv e.n 16)).map (fun j => ((ests.drop (16 * j)).take 16).foldl max 0)
  maskRow e (scoutSelect e blocks)

/-- The array-beats of lane work of a scout: 4,096 operations a beat, on the four arrays (R89, R109). -/
def scoutBeats (e : TDesc) : Nat := 4 * cdiv (e.m * e.n * e.k) 4096

/-- The scout's work: the whole mask is written and the entry leaves the queue. Under a tag the mask lies in the scratch
window, whose lines become the tag's; a line of another tag faults, and under no tag an owned line or a range being
copied holds it (R98, R175, R334). -/
def runScout (p : Pos) (q : QEntry) (e : TDesc) (d : Dev) : Dev :=
  let t := d.tile p
  let a := opndA e
  let b := opndB e
  let base := 16 * e.maskAddr
  let n := e.m * maskLd e.n
  if rangeForeign t q.spec base n then (if q.spec.isSome then queueFault p q 0x0604 d else d)
  else if copyProtected d p base n then d
  else match t.sweep ((List.range e.m).flatMap (fun l => a.ranges t.mem 0 l 0 e.k)
      ++ (List.range e.n).flatMap (fun l => b.ranges t.mem 0 l 0 e.k)) with
    | none => queueFault p q 0x0401 d
    | some t =>
      let cols := (List.range e.n).map (fun l =>
        (b.line t.mem 0 l 0 e.k).map (fun (_, c, s) => scaledVal b.fmt s c))
      match storeAll p.kind [(base, (List.range e.m).flatMap (scoutRow t.mem e cols))] t with
      | (_, some c) => queueFault p q c d
      | (t, none) => d.setTile p (popHead (takeLines q.spec base n ((t.count 0 (scoutBeats e)).count 5 (e.m * e.n * e.k))))

/-- SCOUT_COMPLETE (R89, R152). -/
def execScoutComplete (t : Pos) : State → Out_ :=
  liftAt t.ok (fun d =>
    match (d.tile t).tensor.queue with
    | [] => d
    | q :: _ =>
      match q.work with
      | .tensor ws _ =>
        let e := tdesc ws
        if d.live t && q.running && e.mode == 2 then runScout t q e d else d
      | _ => d)

end Sys2Proof.Machine
end

