-- ==== Sys2Proof/Machine/Dispatch.lean ====
section
/-! DEFINITION. One arm per command. -/

namespace Sys2Proof.Machine

/-- What a command does to everything but the queue. -/
def exec (i : Instr) (s : State) : Host.Outcome State Fault Refusal :=
  match i with
  | .add t ts rd rs1 rs2 => Sys2Proof.Machine.execAdd t ts rd rs1 rs2 s
  | .sub t ts rd rs1 rs2 => Sys2Proof.Machine.execSub t ts rd rs1 rs2 s
  | .and t ts rd rs1 rs2 => Sys2Proof.Machine.execAnd t ts rd rs1 rs2 s
  | .or t ts rd rs1 rs2 => Sys2Proof.Machine.execOr t ts rd rs1 rs2 s
  | .xor t ts rd rs1 rs2 => Sys2Proof.Machine.execXor t ts rd rs1 rs2 s
  | .sll t ts rd rs1 rs2 => Sys2Proof.Machine.execSll t ts rd rs1 rs2 s
  | .srl t ts rd rs1 rs2 => Sys2Proof.Machine.execSrl t ts rd rs1 rs2 s
  | .sra t ts rd rs1 rs2 => Sys2Proof.Machine.execSra t ts rd rs1 rs2 s
  | .slt t ts rd rs1 rs2 => Sys2Proof.Machine.execSlt t ts rd rs1 rs2 s
  | .sltu t ts rd rs1 rs2 => Sys2Proof.Machine.execSltu t ts rd rs1 rs2 s
  | .mul t ts rd rs1 rs2 => Sys2Proof.Machine.execMul t ts rd rs1 rs2 s
  | .mulhu t ts rd rs1 rs2 => Sys2Proof.Machine.execMulhu t ts rd rs1 rs2 s
  | .mins t ts rd rs1 rs2 => Sys2Proof.Machine.execMins t ts rd rs1 rs2 s
  | .maxs t ts rd rs1 rs2 => Sys2Proof.Machine.execMaxs t ts rd rs1 rs2 s
  | .addi t ts rd rs1 imm => Sys2Proof.Machine.execAddi t ts rd rs1 imm s
  | .andi t ts rd rs1 imm => Sys2Proof.Machine.execAndi t ts rd rs1 imm s
  | .ori t ts rd rs1 imm => Sys2Proof.Machine.execOri t ts rd rs1 imm s
  | .xori t ts rd rs1 imm => Sys2Proof.Machine.execXori t ts rd rs1 imm s
  | .shi t ts rd rs1 imm => Sys2Proof.Machine.execShi t ts rd rs1 imm s
  | .slti t ts rd rs1 imm => Sys2Proof.Machine.execSlti t ts rd rs1 imm s
  | .lui t ts rd imm => Sys2Proof.Machine.execLui t ts rd imm s
  | .beq t ts rd rs1 imm => Sys2Proof.Machine.execBeq t ts rd rs1 imm s
  | .bne t ts rd rs1 imm => Sys2Proof.Machine.execBne t ts rd rs1 imm s
  | .blt t ts rd rs1 imm => Sys2Proof.Machine.execBlt t ts rd rs1 imm s
  | .bge t ts rd rs1 imm => Sys2Proof.Machine.execBge t ts rd rs1 imm s
  | .bltu t ts rd rs1 imm => Sys2Proof.Machine.execBltu t ts rd rs1 imm s
  | .bgeu t ts rd rs1 imm => Sys2Proof.Machine.execBgeu t ts rd rs1 imm s
  | .jal t ts rd imm => Sys2Proof.Machine.execJal t ts rd imm s
  | .jalr t ts rd rs1 imm => Sys2Proof.Machine.execJalr t ts rd rs1 imm s
  | .reservedOpcode t ts w => Sys2Proof.Machine.execReservedOpcode t ts w s
  | .lb t ts rd rs1 imm => Sys2Proof.Machine.execLb t ts rd rs1 imm s
  | .lbu t ts rd rs1 imm => Sys2Proof.Machine.execLbu t ts rd rs1 imm s
  | .lh t ts rd rs1 imm => Sys2Proof.Machine.execLh t ts rd rs1 imm s
  | .lhu t ts rd rs1 imm => Sys2Proof.Machine.execLhu t ts rd rs1 imm s
  | .lw t ts rd rs1 imm => Sys2Proof.Machine.execLw t ts rd rs1 imm s
  | .sb t ts rd rs1 imm => Sys2Proof.Machine.execSb t ts rd rs1 imm s
  | .sh t ts rd rs1 imm => Sys2Proof.Machine.execSh t ts rd rs1 imm s
  | .sw t ts rd rs1 imm => Sys2Proof.Machine.execSw t ts rd rs1 imm s
  | .mcopy t ts rd rs1 rs2 => Sys2Proof.Machine.execMcopy t ts rd rs1 rs2 s
  | .cvt t ts rd rs1 rs2 imm => Sys2Proof.Machine.execCvt t ts rd rs1 rs2 imm s
  | .cvst t ts rd rs1 rs2 imm => Sys2Proof.Machine.execCvst t ts rd rs1 rs2 imm s
  | .acc t ts rd rs1 rs2 imm => Sys2Proof.Machine.execAcc t ts rd rs1 rs2 imm s
  | .accv t ts rd rs1 rs2 imm => Sys2Proof.Machine.execAccv t ts rd rs1 rs2 imm s
  | .oprd t ts rd rs1 qid => Sys2Proof.Machine.execOprd t ts rd rs1 qid s
  | .opcp t ts rd rs1 qid => Sys2Proof.Machine.execOpcp t ts rd rs1 qid s
  | .send t ts rs1 rs2 qid => Sys2Proof.Machine.execSend t ts rs1 rs2 qid s
  | .sendr t ts rs1 rs2 qf qid => Sys2Proof.Machine.execSendr t ts rs1 rs2 qf qid s
  | .predict t ts qf qid => Sys2Proof.Machine.execPredict t ts qf qid s
  | .sqput t ts rs1 qid => Sys2Proof.Machine.execSqput t ts rs1 qid s
  | .sqget t ts rd qid => Sys2Proof.Machine.execSqget t ts rd qid s
  | .sqcnt t ts rd qid => Sys2Proof.Machine.execSqcnt t ts rd qid s
  | .hbarr t ts qid => Sys2Proof.Machine.execHbarr t ts qid s
  | .hbwait t ts qid => Sys2Proof.Machine.execHbwait t ts qid s
  | .hbsync t ts qid => Sys2Proof.Machine.execHbsync t ts qid s
  | .put t ts rd rs1 rs2 imm => Sys2Proof.Machine.execPut t ts rd rs1 rs2 imm s
  | .get t ts rd rs1 rs2 imm => Sys2Proof.Machine.execGet t ts rd rs1 rs2 imm s
  | .radd t ts rd rs1 rs2 imm => Sys2Proof.Machine.execRadd t ts rd rs1 rs2 imm s
  | .mcast t ts rd rs1 rs2 imm => Sys2Proof.Machine.execMcast t ts rd rs1 rs2 imm s
  | .signal t ts rd rs1 rs2 imm => Sys2Proof.Machine.execSignal t ts rd rs1 rs2 imm s
  | .redc t ts rd rs1 rs2 imm => Sys2Proof.Machine.execRedc t ts rd rs1 rs2 imm s
  | .setrc t ts rs1 => Sys2Proof.Machine.execSetrc t ts rs1 s
  | .ccrd t ts rd qid => Sys2Proof.Machine.execCcrd t ts rd qid s
  | .ccwait t ts rs1 qid => Sys2Proof.Machine.execCcwait t ts rs1 qid s
  | .cctake t ts rs1 qid => Sys2Proof.Machine.execCctake t ts rs1 qid s
  | .ccset t ts rs1 qid => Sys2Proof.Machine.execCcset t ts rs1 qid s
  | .top t ts rs1 => Sys2Proof.Machine.execTop t ts rs1 s
  | .drain t ts rd rs1 rs2 imm => Sys2Proof.Machine.execDrain t ts rd rs1 rs2 imm s
  | .discard t ts imm => Sys2Proof.Machine.execDiscard t ts imm s
  | .twait t ts imm => Sys2Proof.Machine.execTwait t ts imm s
  | .vop t ts rs1 => Sys2Proof.Machine.execVop t ts rs1 s
  | .tend t ts => Sys2Proof.Machine.execTend t ts s
  | .tretire t ts rs1 imm => Sys2Proof.Machine.execTretire t ts rs1 imm s
  | .yield t ts => Sys2Proof.Machine.execYield t ts s
  | .raise t ts rs1 imm => Sys2Proof.Machine.execRaise t ts rs1 imm s
  | .gets t ts rd imm => Sys2Proof.Machine.execGets t ts rd imm s
  | .scan t ts => Sys2Proof.Machine.execScan t ts s
  | .issueQueueHead t => Sys2Proof.Machine.execIssueQueueHead t s
  | .weightFillComplete t => Sys2Proof.Machine.execWeightFillComplete t s
  | .laneBlockComplete t fz upset => Sys2Proof.Machine.execLaneBlockComplete t fz upset s
  | .drainComplete t upset => Sys2Proof.Machine.execDrainComplete t upset s
  | .scoutComplete t => Sys2Proof.Machine.execScoutComplete t s
  | .vopComplete t upset => Sys2Proof.Machine.execVopComplete t upset s
  | .tokenAdmit t ch => Sys2Proof.Machine.execTokenAdmit t ch s
  | .instanceFire t => Sys2Proof.Machine.execInstanceFire t s
  | .steerForward t u => Sys2Proof.Machine.execSteerForward t u s
  | .steerSpeculate t u => Sys2Proof.Machine.execSteerSpeculate t u s
  | .mergeForward t u => Sys2Proof.Machine.execMergeForward t u s
  | .neighbourToken j ci crcOk prodFailed consFailed => Sys2Proof.Machine.execNeighbourToken j ci crcOk prodFailed consFailed s
  | .creditStallTimeout t port => Sys2Proof.Machine.execCreditStallTimeout t port s
  | .consumerStallTimeout t ch => Sys2Proof.Machine.execConsumerStallTimeout t ch s
  | .jobStopQuiesceEnd j => Sys2Proof.Machine.execJobStopQuiesceEnd j s
  | .drydownComplete j => Sys2Proof.Machine.execDrydownComplete j s
  | .sqWaitTimeout t ts => Sys2Proof.Machine.execSqWaitTimeout t ts s
  | .hbWaitTimeout t ts => Sys2Proof.Machine.execHbWaitTimeout t ts s
  | .hatbandCrossing line => Sys2Proof.Machine.execHatbandCrossing line s
  | .crossingSeen t k => Sys2Proof.Machine.execCrossingSeen t k s
  | .retentionCopyDone t entry => Sys2Proof.Machine.execRetentionCopyDone t entry s
  | .routerForward id crcOk => Sys2Proof.Machine.execRouterForward id crcOk s
  | .egressPortTile id => Sys2Proof.Machine.execEgressPortTile id s
  | .putPacket id => Sys2Proof.Machine.execPutPacket id s
  | .getReq id => Sys2Proof.Machine.execGetReq id s
  | .raddPacket id => Sys2Proof.Machine.execRaddPacket id s
  | .signalPacket id => Sys2Proof.Machine.execSignalPacket id s
  | .tokenPacket id => Sys2Proof.Machine.execTokenPacket id s
  | .ack id => Sys2Proof.Machine.execAck id s
  | .getResp id => Sys2Proof.Machine.execGetResp id s
  | .signalResp id => Sys2Proof.Machine.execSignalResp id s
  | .notice id => Sys2Proof.Machine.execNotice id s
  | .creditPacket id => Sys2Proof.Machine.execCreditPacket id s
  | .nack id => Sys2Proof.Machine.execNack id s
  | .mcastPacket id => Sys2Proof.Machine.execMcastPacket id s
  | .redPacket id => Sys2Proof.Machine.execRedPacket id s
  | .mgmtPacket id => Sys2Proof.Machine.execMgmtPacket id s
  | .scanPacket id => Sys2Proof.Machine.execScanPacket id s
  | .remoteTimeout tm => Sys2Proof.Machine.execRemoteTimeout tm s
  | .seqQuarantineEnd t seq => Sys2Proof.Machine.execSeqQuarantineEnd t seq s
  | .creditRepeat t ch => Sys2Proof.Machine.execCreditRepeat t ch s
  | .tableWriteDone turns => Sys2Proof.Machine.execTableWriteDone turns s
  | .epochChangeTimer j => Sys2Proof.Machine.execEpochChangeTimer j s
  | .epochRelease => Sys2Proof.Machine.execEpochRelease s
  | .dmaDescriptorStart t q => Sys2Proof.Machine.execDmaDescriptorStart t q s
  | .dmaPieceDone engine id piece line ecc => Sys2Proof.Machine.execDmaPieceDone engine id piece line ecc s
  | .dmaComplete engine id => Sys2Proof.Machine.execDmaComplete engine id s
  | .hbmScrubRead stack line ecc => Sys2Proof.Machine.execHbmScrubRead stack line ecc s
  | .portCommit port j => Sys2Proof.Machine.execPortCommit port j s
  | .deepChannelForward t f => Sys2Proof.Machine.execDeepChannelForward t f s
  | .stepConfirm j => Sys2Proof.Machine.execStepConfirm j s
  | .gateOpen j => Sys2Proof.Machine.execGateOpen j s
  | .loadJob r addr len => Sys2Proof.Machine.execLoadJob r addr len s
  | .startJob r origin => Sys2Proof.Machine.execStartJob r origin s
  | .startDeliveryDone j => Sys2Proof.Machine.execStartDeliveryDone j s
  | .pauseJob r mode succ => Sys2Proof.Machine.execPauseJob r mode succ s
  | .boundaryPauseReady j => Sys2Proof.Machine.execBoundaryPauseReady j s
  | .boundaryPauseTimeout j => Sys2Proof.Machine.execBoundaryPauseTimeout j s
  | .pauseQuiesceDone j => Sys2Proof.Machine.execPauseQuiesceDone j s
  | .pauseScanOutDone j => Sys2Proof.Machine.execPauseScanOutDone j s
  | .resumeJob r origin pred => Sys2Proof.Machine.execResumeJob r origin pred s
  | .resumeScanInDone j => Sys2Proof.Machine.execResumeScanInDone j s
  | .unloadJobKeep r => Sys2Proof.Machine.execUnloadJobKeep r s
  | .unloadJobDiscard r => Sys2Proof.Machine.execUnloadJobDiscard r s
  | .jobStatus r => Sys2Proof.Machine.execJobStatus r s
  | .drydown r addr len => Sys2Proof.Machine.execDrydown r addr len s
  | .rollbackQuiesceDone j => Sys2Proof.Machine.execRollbackQuiesceDone j s
  | .rollbackRestoreDone j => Sys2Proof.Machine.execRollbackRestoreDone j s
  | .tilePoll t answered => Sys2Proof.Machine.execTilePoll t answered s
  | .takeoverLoadDone j => Sys2Proof.Machine.execTakeoverLoadDone j s
  | .fieldShort f => Sys2Proof.Machine.execFieldShort f s
  | .replacementScanOutDone j => Sys2Proof.Machine.execReplacementScanOutDone j s
  | .replacementResumeDone j => Sys2Proof.Machine.execReplacementResumeDone j s
  | .fieldTestStart t => Sys2Proof.Machine.execFieldTestStart t s
  | .fieldTestDone t pass => Sys2Proof.Machine.execFieldTestDone t pass s
  | .fieldTestRetest t pass => Sys2Proof.Machine.execFieldTestRetest t pass s
  | .ledgerInterval r => Sys2Proof.Machine.execLedgerInterval r s
  | .suspensionEnd f => Sys2Proof.Machine.execSuspensionEnd f s
  | .regulatorStep f => Sys2Proof.Machine.execRegulatorStep f s
  | .idleEntry => Sys2Proof.Machine.execIdleEntry s
  | .setEnvelope r penv tw a clearCaps => Sys2Proof.Machine.execSetEnvelope r penv tw a clearCaps s
  | .readLedger r snap offset time most => Sys2Proof.Machine.execReadLedger r snap offset time most s
  | .powerState r target => Sys2Proof.Machine.execPowerState r target s
  | .powerTransitionDone => Sys2Proof.Machine.execPowerTransitionDone s
  | .standbyEntry => Sys2Proof.Machine.execStandbyEntry s
  | .inputApplied => Sys2Proof.Machine.execInputApplied s
  | .inputQualified => Sys2Proof.Machine.execInputQualified s
  | .undervoltage => Sys2Proof.Machine.execUndervoltage s
  | .standbyDomainStop => Sys2Proof.Machine.execStandbyDomainStop s
  | .coolantEmergency => Sys2Proof.Machine.execCoolantEmergency s
  | .caseOvertemp => Sys2Proof.Machine.execCaseOvertemp s
  | .wakeN => Sys2Proof.Machine.execWakeN s
  | .startConditionsMet => Sys2Proof.Machine.execStartConditionsMet s
  | .moduleStart => Sys2Proof.Machine.execModuleStart s
  | .flaconVerify => Sys2Proof.Machine.execFlaconVerify s
  | .hbmTrainingDone rs => Sys2Proof.Machine.execHbmTrainingDone rs s
  | .opticalTrainingDone rs => Sys2Proof.Machine.execOpticalTrainingDone rs s
  | .fieldWavePowered wave shorts => Sys2Proof.Machine.execFieldWavePowered wave shorts s
  | .neighbourTestDone disagree selfFailed routersFailed => Sys2Proof.Machine.execNeighbourTestDone disagree selfFailed routersFailed s
  | .mapBuildDone turns => Sys2Proof.Machine.execMapBuildDone turns s
  | .firmwareBroadcastDone lacking bitsFailed => Sys2Proof.Machine.execFirmwareBroadcastDone lacking bitsFailed s
  | .flaconFallback => Sys2Proof.Machine.execFlaconFallback s
  | .hello tr box seq maxMajor maxMinor minMajor push => Sys2Proof.Machine.execHello tr box seq maxMajor maxMinor minMajor push s
  | .identify r => Sys2Proof.Machine.execIdentify r s
  | .attest r nonce => Sys2Proof.Machine.execAttest r nonce s
  | .fwStage r p => Sys2Proof.Machine.execFwStage r p s
  | .fwCommit r => Sys2Proof.Machine.execFwCommit r s
  | .trainLinks r p stackMask portMask mode => Sys2Proof.Machine.execTrainLinks r p stackMask portMask mode s
  | .trainLinksDone ss ps => Sys2Proof.Machine.execTrainLinksDone ss ps s
  | .saveTraining r snap offset recordOnly => Sys2Proof.Machine.execSaveTraining r snap offset recordOnly s
  | .readEvents r fromSeq most => Sys2Proof.Machine.execReadEvents r fromSeq most s
  | .mapRead r snap offset => Sys2Proof.Machine.execMapRead r snap offset s
  | .mapRefineApply r p => Sys2Proof.Machine.execMapRefineApply r p s
  | .mapRefineCommit r p => Sys2Proof.Machine.execMapRefineCommit r p s
  | .setRankTable r p => Sys2Proof.Machine.execSetRankTable r p s
  | .hbmCopy r src dst len => Sys2Proof.Machine.execHbmCopy r src dst len s
  | .hbmCopyWrite r dst len data => Sys2Proof.Machine.execHbmCopyWrite r dst len data s
  | .hbmCopyRead r src len => Sys2Proof.Machine.execHbmCopyRead r src len s
  | .testControl r suspend logSquash => Sys2Proof.Machine.execTestControl r suspend logSquash s
  | .malformedFrame tr box seq => Sys2Proof.Machine.execMalformedFrame tr box seq s
  | .snapshotExpiry snap => Sys2Proof.Machine.execSnapshotExpiry snap s
  | .doorbellDone n => Sys2Proof.Machine.execDoorbellDone n s
  | .evrEnable tport size => Sys2Proof.Machine.execEvrEnable tport size s
  | .registerWrite tport off val => Sys2Proof.Machine.execRegisterWrite tport off val s
  | .linkBlock port hdr marker => Sys2Proof.Machine.execLinkBlock port hdr marker s
  | .dataFrame port fjob fhops srcRank p => Sys2Proof.Machine.execDataFrame port fjob fhops srcRank p s
  | .creditFrame port counts => Sys2Proof.Machine.execCreditFrame port counts s
  | .capFrame port c => Sys2Proof.Machine.execCapFrame port c s
  | .laneFrame port mask seq => Sys2Proof.Machine.execLaneFrame port mask seq s
  | .memReq port tag write addr len data => Sys2Proof.Machine.execMemReq port tag write addr len data s
  | .laneLoss port lane => Sys2Proof.Machine.execLaneLoss port lane s
  | .laneRepeat port => Sys2Proof.Machine.execLaneRepeat port s
  | .linkCreditRepeat port => Sys2Proof.Machine.execLinkCreditRepeat port s
  | .capRepeat port => Sys2Proof.Machine.execCapRepeat port s
  | .linkDown port cause => Sys2Proof.Machine.execLinkDown port cause s
  | .linkRetrain port => Sys2Proof.Machine.execLinkRetrain port s
  | .linkRetrainDone res => Sys2Proof.Machine.execLinkRetrainDone res s
  | .discardSummary => Sys2Proof.Machine.execDiscardSummary s
  | .boundaryRecordWritten t => Sys2Proof.Machine.execBoundaryRecordWritten t s
  | .generationProgrammed => Sys2Proof.Machine.execGenerationProgrammed s
  | .hbmOrOpticalSupplyFault side optical => Sys2Proof.Machine.execHbmOrOpticalSupplyFault side optical s
  | .stackReportsAbove85C stack above => Sys2Proof.Machine.execStackReportsAbove85C stack above s
  | .tapInstruction ti => Sys2Proof.Machine.execTapInstruction ti s

end Sys2Proof.Machine
end

