-- ==== Sys2Proof/Safety.lean ====
section
/-! DEFINITION. What counts as a safe run: every step answers a next state, memories stay in their canonical form, and a
fused generation stays as it is. -/

namespace Sys2Proof.Machine

/-- Both memories of a tile are canonical. -/
def Tile.memWf (t : Tile) : Bool := t.mem.wf && t.prog.wf

/-- Every memory of the block is canonical: tiles, HBM, mailbox areas, kept boundary records, saved tiles. -/
def Dev.memWf (d : Dev) : Bool :=
  d.wafer.tiles.all (fun x => x.2.memWf) && d.brim.hbm.wf && d.host.areas.wf
    && d.jobs.all (fun j => j.bounds.all (fun b => b.tile.memWf)
      && (match j.saved with
        | some v => v.tiles.all (fun x => x.2.memWf)
        | none => true))

/-- A generation that is being programmed goes into a blank slot (R375, R376). -/
def Boot.Programs (b : Boot) : Prop :=
  ∀ k n c r, b.programming = some (k, n, c, r) → (b.slotAt k n).isBlank = true

/-- A run of `k` steps that never stops. -/
def State.SafeRun (k : Nat) (s : State) : Prop := ∃ t, Host.Core.run Sys2Proof.core k s = .next t

end Sys2Proof.Machine
end

