-- ==== Sys2Proof/Certificates/Slice0/Obligations.lean ====
section
/-! DEFINITION. The statements for the provers. `Claim` holds the vocabulary they share: who may issue, what a result
changes. A statement that gives a whole next state as an equation says at once what changes and that nothing else does. -/

namespace Sys2Proof.Claim

open Sys2Proof.Machine

/-- The state with its device changed; the queue, fuses and flash stay. -/
def on (s : State) (f : Dev → Dev) : State := { s with dev := f s.dev }

/-- The thread slot of a command. -/
def thread (s : State) (t : Pos) (ts : Nat) : Slot := (s.dev.tile t).slot ts

/-- The instruction word can be issued by its thread now: the slot exists, the tile works, the slot is free to issue
it, the kind has it, and the thread need not stall for its tag (R188, R190). -/
def Issues (s : State) (t : Pos) (ts : Nat) (w : Word) : Prop :=
  slotOk t ts = true ∧ canIssue t ts w s.dev = true ∧ wordLegal t.kind w = true
    ∧ ((thread s t ts).spec = none ∨ stallsUnderTag (opOf w) = false)

/-- A register takes a value and the thread goes on at a word of the program. -/
def writesReg (t : Pos) (ts : Nat) (rd : Reg) (v : Word) (pc : Nat) (d : Dev) : Dev :=
  d.onTile t (fun x => x.onSlot ts (fun y => { y.setG rd v with st := .running, wait := none, pc := pc }))

/-- The thread goes on at a word of the program. -/
def goesTo (t : Pos) (ts pc : Nat) (d : Dev) : Dev :=
  d.onTile t (fun x => x.onSlot ts (fun y => { y with st := .running, wait := none, pc := pc }))

/-- The pc of a thread plus a count of words, modulo the program size of the kind (R185, R188). -/
def pcPlus (s : State) (t : Pos) (ts : Nat) (n : Int) : Nat :=
  (((thread s t ts).pc : Int) + n) % (kindProg t.kind : Nat) |>.toNat

end Sys2Proof.Claim

open Sys2Proof Sys2Proof.Machine Sys2Proof.Claim

/-! ## The queue, fuses and the whole machine -/

/-- A step takes the command at the front of the queue, with the queue's rest (log 5); on an empty queue the block idles:
one microsecond of management time passes while the standby domain is powered (log 4, the model's choice). -/
def Obligations.StepRunsTheFrontCommand : Prop :=
  (∀ (s : State) (c : Instr) (r : List Instr), s.pending = c :: r → step s = exec c { s with pending := r })
    ∧ ∀ s : State, s.pending = [] →
      step s = .next (if s.dev.mod.standbyOn then on s Dev.stamp else s)

/-- No command changes the queue. -/
def Obligations.QueueIsNotAnEffect : Prop :=
  ∀ (c : Instr) (s t : State), exec c s = .next t → t.pending = s.pending

/-- The commands that may change fuses or flash. -/
def Claim.mayWriteBoot : Instr → Bool
  | .powerState .. => true
  | .standbyEntry => true
  | .undervoltage => true
  | .standbyDomainStop => true
  | .coolantEmergency => true
  | .caseOvertemp => true
  | .flaconVerify => true
  | .firmwareBroadcastDone .. => true
  | .flaconFallback => true
  | .fwStage .. => true
  | .fwCommit .. => true
  | .trainLinks .. => true
  | .saveTraining .. => true
  | .mapRefineCommit .. => true
  | .generationProgrammed => true
  | _ => false

/-- Every other command leaves fuses and flash as they are (R374-R392). -/
def Obligations.FusesAndFlashAreWrittenByFewCommands : Prop :=
  ∀ (c : Instr) (s t : State), Claim.mayWriteBoot c = false → exec c s = .next t → t.boot = s.boot

/-- Every step keeps it: what is being programmed goes into a blank generation (R375, R376). -/
def Obligations.ProgrammingKeepsToBlankGenerations : Prop :=
  ∀ s t : State, s.boot.Programs → step s = .next t → t.boot.Programs

/-- A generation that is no longer blank stays as it is in every step, the thermometer's apart, whose bits are raised in
place (R375, R376, R398); and no generation of any kind becomes blank again. -/
def Obligations.GenerationsAreWrittenOnce : Prop :=
  ∀ s t : State, s.boot.Programs → step s = .next t → ∀ k n : Nat, (s.boot.slotAt k n).isBlank = false →
    (t.boot.slotAt k n).isBlank = false ∧ (k ≠ 4 → t.boot.slotAt k n = s.boot.slotAt k n)

/-- Every step keeps every memory of the block in its canonical form: tile and program memories (R75), HBM (R270), mailbox areas
(R404), in the model's own representation (logs 6 and 7). -/
def Obligations.MemoriesStayCanonical : Prop :=
  ∀ s t : State, s.dev.memWf = true → step s = .next t → t.dev.memWf = true

/-- The part right after reset: off, with an empty log, no job, no session, no open link, no packet, no listed byte of memory,
and both invariants hold (R366, R422, R437, R439). -/
def Obligations.ResetLeavesAQuietPart : Prop :=
  State.reset.pending = [] ∧ State.reset.dev.mod.st = .off ∧ State.reset.dev.jobs = [] ∧ State.reset.dev.host.log = []
    ∧ State.reset.dev.host.nextSeq = 1 ∧ State.reset.dev.host.sessions = [] ∧ State.reset.dev.wafer.flights = []
    ∧ (∀ n : Nat, (State.reset.dev.link n).st = .dark) ∧ (∀ (p : Pos) (a : Nat), (State.reset.dev.tile p).mem.read a = 0)
    ∧ (∀ a : Nat, State.reset.dev.brim.hbm.read a = 0) ∧ State.reset.boot.Programs ∧ State.reset.dev.memWf = true

/-! ## Words -/

/-- The fields of an instruction word come back from it, for every operand the format admits (R187). -/
def Obligations.WordFieldsComeBack : Prop :=
  (∀ (op : Nat) (rd rs1 rs2 : Reg) (imm : BitVec 10), op < 128 →
    opOf (encA op rd rs1 rs2 imm) = op ∧ bits (encA op rd rs1 rs2 imm).toNat 20 5 = rd.val
      ∧ bits (encA op rd rs1 rs2 imm).toNat 15 5 = rs1.val ∧ bits (encA op rd rs1 rs2 imm).toNat 10 5 = rs2.val
      ∧ bits (encA op rd rs1 rs2 imm).toNat 0 10 = imm.toNat)
  ∧ (∀ (op : Nat) (rd rs1 : Reg) (imm : BitVec 15), op < 128 →
    opOf (encI op rd rs1 imm) = op ∧ bits (encI op rd rs1 imm).toNat 20 5 = rd.val
      ∧ bits (encI op rd rs1 imm).toNat 15 5 = rs1.val ∧ bits (encI op rd rs1 imm).toNat 0 15 = imm.toNat)
  ∧ (∀ (op : Nat) (rd : Reg) (imm : BitVec 20), op < 128 →
    opOf (encU op rd imm) = op ∧ bits (encU op rd imm).toNat 20 5 = rd.val ∧ bits (encU op rd imm).toNat 0 20 = imm.toNat)
  ∧ ∀ (op : Nat) (rd rs1 rs2 : Reg) (qf : BitVec 4) (qid : BitVec 6), op < 128 →
    opOf (encQ op rd rs1 rs2 qf qid) = op ∧ bits (encQ op rd rs1 rs2 qf qid).toNat 20 5 = rd.val
      ∧ bits (encQ op rd rs1 rs2 qf qid).toNat 15 5 = rs1.val ∧ bits (encQ op rd rs1 rs2 qf qid).toNat 10 5 = rs2.val
      ∧ bits (encQ op rd rs1 rs2 qf qid).toNat 6 4 = qf.toNat ∧ bits (encQ op rd rs1 rs2 qf qid).toNat 0 6 = qid.toNat

/-! ## Scalar and branch instructions -/

/-- The three-register instructions: opcode and result (R194). -/
def Claim.threeReg (t : Pos) (ts : Nat) (rd rs1 rs2 : Reg) : List (Instr × Nat × (Word → Word → Word)) :=
  [(.add t ts rd rs1 rs2, 0x01, fun a b => a + b), (.sub t ts rd rs1 rs2, 0x02, fun a b => a - b),
   (.and t ts rd rs1 rs2, 0x03, fun a b => a &&& b), (.or t ts rd rs1 rs2, 0x04, fun a b => a ||| b),
   (.xor t ts rd rs1 rs2, 0x05, fun a b => a ^^^ b),
   (.sll t ts rd rs1 rs2, 0x06, fun a b => a <<< (b.toNat % 32)),
   (.srl t ts rd rs1 rs2, 0x07, fun a b => a >>> (b.toNat % 32)),
   (.sra t ts rd rs1 rs2, 0x08, fun a b => a.sshiftRight (b.toNat % 32)),
   (.slt t ts rd rs1 rs2, 0x09, fun a b => if a.toInt < b.toInt then 1 else 0),
   (.sltu t ts rd rs1 rs2, 0x0A, fun a b => if a.toNat < b.toNat then 1 else 0),
   (.mul t ts rd rs1 rs2, 0x0B, fun a b => BitVec.ofNat 32 (a.toNat * b.toNat)),
   (.mulhu t ts rd rs1 rs2, 0x0C, fun a b => BitVec.ofNat 32 (a.toNat * b.toNat / 2 ^ 32)),
   (.mins t ts rd rs1 rs2, 0x0D, fun a b => BitVec.ofInt 32 (min a.toInt b.toInt)),
   (.maxs t ts rd rs1 rs2, 0x0E, fun a b => BitVec.ofInt 32 (max a.toInt b.toInt))]

/-- A three-register instruction that its thread can issue writes its result to rd, goes on at the next word modulo the
program size and changes nothing else; a write to g0 is discarded (R188, R189, R194). -/
def Obligations.ThreeRegisterInstructionsWriteTheirResult : Prop :=
  ∀ (s : State) (t : Pos) (ts : Nat) (rd rs1 rs2 : Reg), ∀ e ∈ Claim.threeReg t ts rd rs1 rs2,
    Issues s t ts (encA e.2.1 rd rs1 rs2 0) →
      exec e.1 s = .next (on s (writesReg t ts rd (e.2.2 ((thread s t ts).g rs1) ((thread s t ts).g rs2)) (pcPlus s t ts 1)))

/-- The instructions with an immediate: word and result (R194). -/
def Claim.immediate (t : Pos) (ts : Nat) (rd rs1 : Reg) (i : BitVec 15) : List (Instr × Nat × (Word → Word)) :=
  [(.addi t ts rd rs1 i, 0x10, fun a => BitVec.ofInt 32 (a.toInt + i.toInt)),
   (.andi t ts rd rs1 i, 0x11, fun a => a &&& BitVec.ofNat 32 i.toNat),
   (.ori t ts rd rs1 i, 0x12, fun a => a ||| BitVec.ofNat 32 i.toNat),
   (.xori t ts rd rs1 i, 0x13, fun a => a ^^^ BitVec.ofNat 32 i.toNat),
   (.slti t ts rd rs1 i, 0x15, fun a => if a.toInt < i.toInt then 1 else 0)]

/-- ADDI, ANDI, ORI, XORI, SLTI, LUI and SHI with one of its three selections write their result to rd and change nothing
else (R188, R189, R194). -/
def Obligations.ImmediateInstructionsWriteTheirResult : Prop :=
  ∀ (s : State) (t : Pos) (ts : Nat) (rd rs1 : Reg),
    (∀ i : BitVec 15, ∀ e ∈ Claim.immediate t ts rd rs1 i, Issues s t ts (encI e.2.1 rd rs1 i) →
      exec e.1 s = .next (on s (writesReg t ts rd (e.2.2 ((thread s t ts).g rs1)) (pcPlus s t ts 1))))
    ∧ (∀ i : BitVec 20, Issues s t ts (encU 0x16 rd i) →
      exec (.lui t ts rd i) s = .next (on s (writesReg t ts rd (BitVec.ofNat 32 (i.toNat * 4096)) (pcPlus s t ts 1))))
    ∧ ∀ i : BitVec 10, Issues s t ts (encA 0x14 rd rs1 0 i) →
      let a := (thread s t ts).g rs1
      let n := bits i.toNat 0 5
      exec (.shi t ts rd rs1 i) s =
        if bits i.toNat 5 2 = 0 then .next (on s (writesReg t ts rd (a <<< n) (pcPlus s t ts 1)))
        else if bits i.toNat 5 2 = 1 then .next (on s (writesReg t ts rd (a >>> n) (pcPlus s t ts 1)))
        else if bits i.toNat 5 2 = 2 then .next (on s (writesReg t ts rd (a.sshiftRight n) (pcPlus s t ts 1)))
        else .next (on s (insnFault t ts (encA 0x14 rd rs1 0 i) 0x0104 0))

/-- The conditional branches: opcode and condition (R194). -/
def Claim.branches (t : Pos) (ts : Nat) (rd rs1 : Reg) (i : BitVec 15) : List (Instr × Nat × (Word → Word → Prop)) :=
  [(.beq t ts rd rs1 i, 0x18, fun a b => a = b), (.bne t ts rd rs1 i, 0x19, fun a b => a ≠ b),
   (.blt t ts rd rs1 i, 0x1A, fun a b => a.toInt < b.toInt), (.bge t ts rd rs1 i, 0x1B, fun a b => b.toInt ≤ a.toInt),
   (.bltu t ts rd rs1 i, 0x1C, fun a b => a.toNat < b.toNat), (.bgeu t ts rd rs1 i, 0x1D, fun a b => b.toNat ≤ a.toNat)]

/-- A branch goes imm15 words on from itself when its condition holds, else to the next word; JAL and JALR put the next
word's address into rd; targets count modulo the program size. Nothing else changes (R188, R194). -/
def Obligations.BranchesAndJumpsGoWhereTheySay : Prop :=
  ∀ (s : State) (t : Pos) (ts : Nat) (rd rs1 : Reg) (i : BitVec 15),
    (∀ e ∈ Claim.branches t ts rd rs1 i, Issues s t ts (encI e.2.1 rd rs1 i) →
      (e.2.2 ((thread s t ts).g rd) ((thread s t ts).g rs1) → exec e.1 s = .next (on s (goesTo t ts (pcPlus s t ts i.toInt))))
      ∧ (¬ e.2.2 ((thread s t ts).g rd) ((thread s t ts).g rs1) → exec e.1 s = .next (on s (goesTo t ts (pcPlus s t ts 1)))))
    ∧ (Issues s t ts (encI 0x1E rd 0 i) →
      exec (.jal t ts rd i) s =
        .next (on s (writesReg t ts rd (BitVec.ofNat 32 ((thread s t ts).pc + 1)) (pcPlus s t ts i.toInt))))
    ∧ (Issues s t ts (encI 0x1F rd rs1 i) →
      exec (.jalr t ts rd rs1 i) s =
        .next (on s (writesReg t ts rd (BitVec.ofNat 32 ((thread s t ts).pc + 1))
          (addrOf ((thread s t ts).g rs1) i % kindProg t.kind))))

/-- What a fault of a thread leaves when its job runs: FAULT_INFO valid with code and slot unless an earlier fault stands
there, the job halted with the fault as its trigger, its gates closed; no register, no pc and no byte of memory changes (R191). -/
def Claim.Faulted (s u : State) (t : Pos) (ts code : Nat) : Prop :=
  (∀ p : Pos, (u.dev.tile p).mem = (s.dev.tile p).mem ∧ (u.dev.tile p).slots = (s.dev.tile p).slots)
    ∧ ((s.dev.tile t).faultInfo.getLsbD 31 = false →
        (u.dev.tile t).faultInfo = BitVec.ofNat 32 (code + 2 ^ 16 * ts + 2 ^ 31))
    ∧ ((s.dev.tile t).faultInfo.getLsbD 31 = true → (u.dev.tile t).faultInfo = (s.dev.tile t).faultInfo)
    ∧ ∀ j, s.dev.jobAt t = some j → ∃ k, u.dev.jobAt t = some k ∧ k.id = j.id ∧ k.st = .halted ∧ k.trigger = code
        ∧ k.gate0 = false ∧ k.gates = false

/-- A reserved word, and SCAN in a job's program, fault with 0x0104 (R188, R215). -/
def Obligations.IllegalWordsFault : Prop :=
  ∀ (s : State) (t : Pos) (ts : Nat) (w : Word), slotOk t ts = true → canIssue t ts w s.dev = true →
    (wordLegal t.kind w = false → ∃ u, exec (.reservedOpcode t ts w) s = .next u ∧ Claim.Faulted s u t ts 0x0104)
    ∧ (w = encA 0x75 0 0 0 0 → ∃ u, exec (.scan t ts) s = .next u ∧ Claim.Faulted s u t ts 0x0104)

/-- The scalar and branch instructions write no memory, no other slot, no other register than rd, whatever they come to (R189,
R191, R194). -/
def Obligations.ScalarInstructionsKeepEverythingElse : Prop :=
  ∀ (s u : State) (t : Pos) (ts : Nat) (rd rs1 rs2 : Reg) (i : BitVec 15), ∀ c : Instr,
    (c ∈ (Claim.threeReg t ts rd rs1 rs2).map (·.1) ∨ c ∈ (Claim.immediate t ts rd rs1 i).map (·.1)
      ∨ c ∈ (Claim.branches t ts rd rs1 i).map (·.1) ∨ c = .jal t ts rd i ∨ c = .jalr t ts rd rs1 i) →
    exec c s = .next u →
      (∀ (p : Pos) (a : Nat), (u.dev.tile p).mem.read a = (s.dev.tile p).mem.read a)
      ∧ (∀ (p : Pos) (n : Nat), (p.ix ≠ t.ix ∨ n ≠ ts) → (u.dev.tile p).slot n = (s.dev.tile p).slot n)
      ∧ (∀ r : Reg, r ≠ rd → (thread u t ts).g r = (thread s t ts).g r)
      ∧ u.dev.brim.hbm = s.dev.brim.hbm ∧ u.dev.map = s.dev.map ∧ u.dev.energy = s.dev.energy ∧ u.boot = s.boot

/-! ## Tile memory -/

/-- A range that a thread reads without a fault or a wait: in memory, no double-bit error, no scratch line of another tag. -/
def Claim.Readable (s : State) (t : Pos) (ts a n : Nat) : Prop :=
  n = 0 ∨ (inMem t.kind a n = true ∧ rangeForeign (s.dev.tile t) (thread s t ts).spec a n = false
    ∧ (wordsOf a n).any (s.dev.tile t).bad.contains = false)

/-- A range that a thread writes without a fault or a wait: in memory, under a tag in the scratch window, no scratch line of
another tag, no retained range being copied, no double-bit error in a word it covers only in part (R175, R176, R184, R334). -/
def Claim.Writable (s : State) (t : Pos) (ts a n : Nat) : Prop :=
  n = 0 ∨ (inMem t.kind a n = true
    ∧ ((thread s t ts).spec = none ∨ ((s.dev.tile t).flow.scratch = true ∧ 0x3C000 ≤ a ∧ a + n ≤ 0x40000))
    ∧ rangeForeign (s.dev.tile t) (thread s t ts).spec a n = false
    ∧ copyProtected s.dev t a n = false ∧ (partWords a n).any (s.dev.tile t).bad.contains = false)

/-- The bytes of a tile from an address on are these, and every other byte of the tile and every other tile reads as before;
jobs, HBM and the map stay. -/
def Claim.Stored (s u : State) (t : Pos) (a : Nat) (bs : List Byte) : Prop :=
  (u.dev.tile t).mem.readN a bs.length = bs
    ∧ (∀ b : Nat, (b < a ∨ a + bs.length ≤ b) → (u.dev.tile t).mem.read b = (s.dev.tile t).mem.read b)
    ∧ (∀ p : Pos, p.ix ≠ t.ix → u.dev.tile p = s.dev.tile p)
    ∧ (u.dev.tile t).mem.wf = true
    ∧ u.dev.jobs = s.dev.jobs ∧ u.dev.brim = s.dev.brim ∧ u.dev.map = s.dev.map ∧ u.dev.host = s.dev.host ∧ u.boot = s.boot

/-- No register of the tile changes, and the thread stands at the next word. -/
def Claim.OnlyAdvances (s u : State) (t : Pos) (ts : Nat) : Prop :=
  (∀ (n : Nat) (r : Reg), (thread u t n).g r = (thread s t n).g r) ∧ (thread u t ts).pc = pcPlus s t ts 1
    ∧ (thread u t ts).st = .running ∧ (thread u t ts).wait = none ∧ ∀ n : Nat, n ≠ ts → thread u t n = thread s t n

/-- The loads: opcode, bytes, extension (R195). -/
def Claim.loads (t : Pos) (ts : Nat) (rd rs1 : Reg) (i : BitVec 15) : List (Instr × Nat × Nat × (Nat → Word)) :=
  [(.lb t ts rd rs1 i, 0x20, 1, fun v => (BitVec.ofNat 8 v).signExtend 32), (.lbu t ts rd rs1 i, 0x21, 1, BitVec.ofNat 32),
   (.lh t ts rd rs1 i, 0x22, 2, fun v => (BitVec.ofNat 16 v).signExtend 32), (.lhu t ts rd rs1 i, 0x23, 2, BitVec.ofNat 32),
   (.lw t ts rd rs1 i, 0x24, 4, BitVec.ofNat 32)]

/-- A load of an aligned range of tile memory puts the little-endian value, extended, into rd; no byte of any tile changes (R76,
R195). -/
def Obligations.LoadsReadTileMemory : Prop :=
  ∀ (s : State) (t : Pos) (ts : Nat) (rd rs1 : Reg) (i : BitVec 15), ∀ e ∈ Claim.loads t ts rd rs1 i,
    let a := addrOf ((thread s t ts).g rs1) i
    Issues s t ts (encI e.2.1 rd rs1 i) → a % e.2.2.1 = 0 → inWindow a = false → Claim.Readable s t ts a e.2.2.1 →
      ∃ u, exec e.1 s = .next u
        ∧ (thread u t ts).g rd = (if rd.val = 0 then 0 else e.2.2.2 ((s.dev.tile t).mem.readLe a e.2.2.1))
        ∧ (∀ r : Reg, r ≠ rd → (thread u t ts).g r = (thread s t ts).g r) ∧ (thread u t ts).pc = pcPlus s t ts 1
        ∧ (∀ n : Nat, n ≠ ts → thread u t n = thread s t n)
        ∧ (∀ p : Pos, (u.dev.tile p).mem = (s.dev.tile p).mem ∧ (p.ix ≠ t.ix → u.dev.tile p = s.dev.tile p))
        ∧ u.dev.jobs = s.dev.jobs ∧ u.dev.brim = s.dev.brim ∧ u.boot = s.boot

/-- The stores: opcode and bytes (R195). -/
def Claim.stores (t : Pos) (ts : Nat) (rd rs1 : Reg) (i : BitVec 15) : List (Instr × Nat × Nat) :=
  [(.sb t ts rd rs1 i, 0x25, 1), (.sh t ts rd rs1 i, 0x26, 2), (.sw t ts rd rs1 i, 0x27, 4)]

/-- A store to an aligned range of tile memory writes the low bytes of rd at rs1 + imm15 and nothing else (R76, R195). -/
def Obligations.StoresWriteTheirBytesOnly : Prop :=
  ∀ (s : State) (t : Pos) (ts : Nat) (rd rs1 : Reg) (i : BitVec 15), ∀ e ∈ Claim.stores t ts rd rs1 i,
    let a := addrOf ((thread s t ts).g rs1) i
    Issues s t ts (encI e.2.1 rd rs1 i) → a % e.2.2 = 0 → inWindow a = false → Claim.Writable s t ts a e.2.2 →
      (s.dev.tile t).mem.wf = true →
      ∃ u, exec e.1 s = .next u ∧ Claim.Stored s u t a (le e.2.2 ((thread s t ts).g rd).toNat) ∧ Claim.OnlyAdvances s u t ts

/-- LW and SW in the control window read and write its registers (R184, R186); a narrower access to the window and a
misaligned access of any width fault with 0x0405. -/
def Obligations.WindowAccessesAndAlignment : Prop :=
  ∀ (s : State) (t : Pos) (ts : Nat) (rd rs1 : Reg) (i : BitVec 15),
    let a := addrOf ((thread s t ts).g rs1) i
    (Issues s t ts (encI 0x24 rd rs1 i) → a % 4 = 0 → inWindow a = true → (s.dev.tile t).taint.get 0 (a - windowBase) = 0 →
      exec (.lw t ts rd rs1 i) s = .next (on s (writesReg t ts rd (ctlRead s.dev t (a - windowBase)) (pcPlus s t ts 1))))
    ∧ (Issues s t ts (encI 0x27 rd rs1 i) → a % 4 = 0 → inWindow a = true → (thread s t ts).spec = none →
      exec (.sw t ts rd rs1 i) s = .next (on s (fun d =>
        goesTo t ts (pcPlus s t ts 1) (d.onTile t (ctlStore t (a - windowBase) ((thread s t ts).g rd))))))
    ∧ (∀ e ∈ (Claim.loads t ts rd rs1 i).map (fun e => (e.1, e.2.1, e.2.2.1)) ++ Claim.stores t ts rd rs1 i,
        Issues s t ts (encI e.2.1 rd rs1 i) → (a % e.2.2 ≠ 0 ∨ (inWindow a = true ∧ e.2.2 ≠ 4)) →
        ∃ u, exec e.1 s = .next u ∧ Claim.Faulted s u t ts 0x0405)

/-- MCOPY copies rs2 bytes from rs1 to rd when both ranges are aligned and overlap at most by being the same (R199). -/
def Obligations.McopyCopiesItsRange : Prop :=
  ∀ (s : State) (t : Pos) (ts : Nat) (rd rs1 rs2 : Reg),
    let src := ((thread s t ts).g rs1).toNat
    let dst := ((thread s t ts).g rd).toNat
    let n := ((thread s t ts).g rs2).toNat
    Issues s t ts (encA 0x28 rd rs1 rs2 0) → src % 4 = 0 → dst % 4 = 0 → n % 4 = 0 → badOverlap src n dst n = false →
    Claim.Readable s t ts src n → Claim.Writable s t ts dst n → (s.dev.tile t).mem.wf = true →
      ∃ u, exec (.mcopy t ts rd rs1 rs2) s = .next u ∧ Claim.Stored s u t dst ((s.dev.tile t).mem.readN src n)
        ∧ Claim.OnlyAdvances s u t ts

/-- The bits that a rounding of element `e`, lane `l` of a stream draws (R70). -/
def Claim.draw (s : State) (t : Pos) (stream e l : Nat) : Nat := srBits (drawOf s.dev t stream) e l

/-- CVT and CVST convert and store: elements of rs1's format to rd's format, the FP32 value in rd to an element (R196, R197). -/
def Obligations.ConversionsStoreConvertedElements : Prop :=
  ∀ (s : State) (t : Pos) (ts : Nat) (rd rs1 rs2 : Reg) (i : BitVec 10),
    (let src := ((thread s t ts).g rs1).toNat
     let dst := ((thread s t ts).g rd).toNat
     let cnt := bits ((thread s t ts).g rs2).toNat 0 24
     let stream := bits ((thread s t ts).g rs2).toNat 24 8
     let sf := bits i.toNat 0 4
     let df := bits i.toNat 4 4
     let rnd := bits i.toNat 8 2
     Issues s t ts (encA 0x29 rd rs1 rs2 i) → fmtOk sf = true → fmtOk df = true → badRnd t.kind rnd = false →
     src % fmtSize sf = 0 → dst % fmtSize df = 0 → badOverlap src (cnt * fmtSize sf) dst (cnt * fmtSize df) = false →
     Claim.Readable s t ts src (cnt * fmtSize sf) → Claim.Writable s t ts dst (cnt * fmtSize df) →
     (s.dev.tile t).mem.wf = true →
      let out := unelems df (((elems sf ((s.dev.tile t).mem.readN src (cnt * fmtSize sf))).zipIdx).map (fun (c, k) =>
        (cvtElem (narrowAt s.dev t) sf df rnd (Claim.draw s t stream k (k % 1024)) c).1))
      ∃ u, exec (.cvt t ts rd rs1 rs2 i) s = .next u ∧ Claim.Stored s u t dst out ∧ Claim.OnlyAdvances s u t ts)
    ∧ (let dst := ((thread s t ts).g rs1).toNat
       let df := bits i.toNat 0 4
       let e := dst / fmtSize df % 2 ^ 24
       Issues s t ts (encA 0x2A rd rs1 rs2 i) → fmtOk df = true → badRnd t.kind (bits i.toNat 4 2) = false →
       dst % fmtSize df = 0 → Claim.Writable s t ts dst (fmtSize df) → (s.dev.tile t).mem.wf = true →
        ∃ u, exec (.cvst t ts rd rs1 rs2 i) s = .next u ∧ Claim.OnlyAdvances s u t ts
          ∧ Claim.Stored s u t dst (le (fmtSize df) (cvtElem (narrowAt s.dev t) fFP32 df (bits i.toNat 4 2)
              (Claim.draw s t (bits ((thread s t ts).g rs2).toNat 0 8) e (e % 1024)) ((thread s t ts).g rd).toNat).1))

/-- ACC adds the value in rd to the element at rs1, ACCV a run of elements to another, as long sums (R118, R198). -/
def Obligations.AccumulatingStoresAdd : Prop :=
  ∀ (s : State) (t : Pos) (ts : Nat) (rd rs1 rs2 : Reg) (i : BitVec 10),
    (let a := ((thread s t ts).g rs1).toNat
     let f := bits i.toNat 0 4
     Issues s t ts (encA 0x2B rd rs1 rs2 i) → longFmt f = true → a % fmtSize f = 0 → Claim.Readable s t ts a (fmtSize f) →
     Claim.Writable s t ts a (fmtSize f) → (s.dev.tile t).mem.wf = true →
      ∃ u, exec (.acc t ts rd rs1 rs2 i) s = .next u ∧ Claim.OnlyAdvances s u t ts
        ∧ Claim.Stored s u t a (le (fmtSize f) (tileLongSum s.dev t (bits ((thread s t ts).g rs2).toNat 0 8) f (bit i.toNat 4) a
            ((s.dev.tile t).mem.readLe a (fmtSize f)) (decodeFmt (if f = 6 then 6 else fFP32) ((thread s t ts).g rd).toNat))))
    ∧ (let src := ((thread s t ts).g rs1).toNat
       let dst := ((thread s t ts).g rd).toNat
       let cnt := bits ((thread s t ts).g rs2).toNat 0 24
       let stream := bits ((thread s t ts).g rs2).toNat 24 8
       let df := bits i.toNat 0 4
       let sf := bits i.toNat 4 4
       let m := (s.dev.tile t).mem
       Issues s t ts (encA 0x2C rd rs1 rs2 i) → longFmt df = true → accvSrcOk df sf = true → src % fmtSize sf = 0 →
       dst % fmtSize df = 0 → badOverlap src (cnt * fmtSize sf) dst (cnt * fmtSize df) = false →
       Claim.Readable s t ts src (cnt * fmtSize sf) → Claim.Readable s t ts dst (cnt * fmtSize df) →
       Claim.Writable s t ts dst (cnt * fmtSize df) → m.wf = true →
        let out := unelems df (tileLongSums s.dev t stream df (bit i.toNat 8) dst (elems df (m.readN dst (cnt * fmtSize df)))
          ((elems sf (m.readN src (cnt * fmtSize sf))).map (decodeFmt sf)))
          ∃ u, exec (.accv t ts rd rs1 rs2 i) s = .next u ∧ Claim.Stored s u t dst out ∧ Claim.OnlyAdvances s u t ts)

/-! ## Operands, sends, PREDICT -/

/-- Four bytes of a payload from byte `k` on, little-endian; bytes at or beyond its length are 0 (R200). -/
def Claim.payloadWord (bs : List Byte) (k : Nat) : Word :=
  BitVec.ofNat 32 ((bs.getD k 0).toNat + 256 * (bs.getD (k + 1) 0).toNat + 65536 * (bs.getD (k + 2) 0).toNat
    + 16777216 * (bs.getD (k + 3) 0).toNat)

/-- OPRD puts word rs1[3:0] of the operand's payload into rd; OPCP stores the whole payload at rs1 and puts its length into
rd; both fault with 0x0104 when qid[1:0] is not below the task's n_ops (R200). -/
def Obligations.OperandReads : Prop :=
  ∀ (s : State) (t : Pos) (ts : Nat) (rd rs1 : Reg) (q : BitVec 6),
    (Issues s t ts (encQ 0x30 rd rs1 0 0 q) →
      (∀ bs, operandOf (s.dev.tile t) (thread s t ts) (q.toNat % 4) = some bs →
        exec (.oprd t ts rd rs1 q) s = .next (on s (writesReg t ts rd
          (Claim.payloadWord bs (4 * (((thread s t ts).g rs1).toNat % 16))) (pcPlus s t ts 1))))
      ∧ (∀ k, taskOf (s.dev.tile t) (thread s t ts) = some k → k.decl.nOps ≤ q.toNat % 4 →
        ∃ u, exec (.oprd t ts rd rs1 q) s = .next u ∧ Claim.Faulted s u t ts 0x0104))
    ∧ (Issues s t ts (encQ 0x31 rd rs1 0 0 q) →
      (∀ bs, operandOf (s.dev.tile t) (thread s t ts) (q.toNat % 4) = some bs → ((thread s t ts).g rs1).toNat % 4 = 0 →
        Claim.Writable s t ts ((thread s t ts).g rs1).toNat bs.length → (s.dev.tile t).mem.wf = true →
        ∃ u, exec (.opcp t ts rd rs1 q) s = .next u ∧ Claim.Stored s u t ((thread s t ts).g rs1).toNat bs
          ∧ (thread u t ts).g rd = (if rd.val = 0 then 0 else BitVec.ofNat 32 bs.length) ∧ (thread u t ts).pc = pcPlus s t ts 1)
      ∧ (∀ k, taskOf (s.dev.tile t) (thread s t ts) = some k → k.decl.nOps ≤ q.toNat % 4 →
        ∃ u, exec (.opcp t ts rd rs1 q) s = .next u ∧ Claim.Faulted s u t ts 0x0104))

/-- An output port that a thread may send on now: connected, not shut out by the task, its channel local when the thread is
under a tag, with credit, and with room in the send buffer and a free number when the channel crosses the mesh (R167, R175, R201,
R259). -/
def Claim.PortOpen (s : State) (t : Pos) (ts n : Nat) : Prop :=
  maskedOut (s.dev.tile t) (thread s t ts) n = false ∧ ((s.dev.tile t).port n).ci.isSome = true
    ∧ ((thread s t ts).spec = none ∨ portLocal s.dev t n = true) ∧ 0 < ((s.dev.tile t).port n).credit
    ∧ (portMesh s.dev t n = false
      ∨ (sendBuffered (s.dev.tile t) < 256 ∧ (s.dev.tile t).tokenFree n ((s.dev.tile t).port n).num = true))

/-- A token has been sent on a port: one credit less, and the token stands in the local channel, on the neighbour link, or in
a numbered TOKEN packet on the mesh that the send buffer keeps (R166, R167). -/
def Claim.TokenSent (s u : State) (t : Pos) (n : Nat) (k : Token) : Prop :=
  ((u.dev.tile t).port n).credit + 1 = ((s.dev.tile t).port n).credit
    ∧ ∀ (ci : Nat) (j : Job) (r : ChanRec), ((s.dev.tile t).port n).ci = some ci → s.dev.jobAt t = some j → j.chan ci = some r →
      (chanPath s.dev.map j r = .loc → ((u.dev.tile t).chan r.ch).toks = ((s.dev.tile t).chan r.ch).toks ++ [k])
      ∧ (chanPath s.dev.map j r = .neighbour → ∃ l : NTok, u.dev.wafer.links = s.dev.wafer.links ++ [l] ∧ l.tok = k
          ∧ l.j = j.slot ∧ l.ci = ci ∧ l.num = ((s.dev.tile t).port n).num)
      ∧ (chanPath s.dev.map j r = .mesh → ∀ q, j.posOf s.dev.map r.cons = some q → ∃ f : Flight,
          u.dev.wafer.flights = s.dev.wafer.flights ++ [f] ∧ f.place = .router t localSide ∧ f.pkt.ty = .token
          ∧ f.pkt.data = tokenBytes k r.ch ∧ f.pkt.seq = ((s.dev.tile t).port n).num ∧ f.pkt.dst = s.dev.addrOf q
          ∧ (u.dev.tile t).net.outs.any (fun o => o.pkt == f.pkt) = true)

/-- SEND sends the payload that rs2 describes from tile memory, SENDR 0, 1 or 4 bytes of rs1, on the port that qid names, when
the port is open (R201). -/
def Obligations.SendsSendOneToken : Prop :=
  ∀ (s : State) (t : Pos) (ts : Nat) (rs1 rs2 : Reg) (qf : BitVec 4) (q : BitVec 6),
    (let h := ((thread s t ts).g rs2).toNat
     let a := ((thread s t ts).g rs1).toNat
     let bs := (s.dev.tile t).mem.readN a (bits h 16 7)
     Issues s t ts (encQ 0x32 0 rs1 rs2 0 q) → bits h 24 8 = 0 → bits h 16 7 ≤ 64 →
     (bit h 23 = true → bits h 16 7 = 8 ∧ fieldLe bs 6 2 ≠ 0) → Claim.Readable s t ts a (bits h 16 7) →
     Claim.PortOpen s t ts (bits q.toNat 0 5) →
      ∃ u, exec (.send t ts rs1 rs2 q) s = .next u ∧ (thread u t ts).pc = pcPlus s t ts 1 ∧ Claim.TokenSent s u t (bits q.toNat 0 5)
        { tag := bits h 0 16, ref := bit h 23, prov := (thread s t ts).spec, data := bs })
    ∧ (let v := ((thread s t ts).g rs1).toNat
       let n := bits qf.toNat 0 2
       Issues s t ts (encQ 0x33 0 rs1 rs2 qf q) → n ≠ 3 → Claim.PortOpen s t ts (bits q.toNat 0 5) →
        ∃ u, exec (.sendr t ts rs1 rs2 qf q) s = .next u ∧ (thread u t ts).pc = pcPlus s t ts 1
          ∧ Claim.TokenSent s u t (bits q.toNat 0 5)
            { tag := bits ((thread s t ts).g rs2).toNat 0 16, ref := false, prov := (thread s t ts).spec
              data := if n = 0 then [] else if n = 1 then le 1 v else le 4 v })

/-- PREDICT sets the predictor of a declared STEER unit, for speculations that start from then on: outstanding ones keep their
tags, paths and data. It faults with 0x0104 when the unit is not declared, is a MERGE, or the predictor is not 0b00 on a
tile whose speculation flag is clear (R202). -/
def Obligations.PredictSetsThePredictor : Prop :=
  ∀ (s : State) (t : Pos) (ts : Nat) (qf : BitVec 4) (q : BitVec 6), Issues s t ts (encQ 0x34 0 0 0 qf q) →
    let x := s.dev.tile t
    let n := bits q.toNat 0 4
    let v := bits qf.toNat 0 2
    (x.flow.steers[n]? = none → ∃ u, exec (.predict t ts qf q) s = .next u ∧ Claim.Faulted s u t ts 0x0104)
    ∧ (∀ k, x.flow.steers[n]? = some k → (k.decl.merge = true ∨ (v ≠ 0 ∧ x.flow.scratch = false)) →
        ∃ u, exec (.predict t ts qf q) s = .next u ∧ Claim.Faulted s u t ts 0x0104)
    ∧ (∀ k, x.flow.steers[n]? = some k → k.decl.merge = false → (v = 0 ∨ x.flow.scratch = true) →
        ∃ u, exec (.predict t ts qf q) s = .next u ∧ (u.dev.tile t).flow.steers[n]? = some { k with predict := v }
          ∧ (∀ m, m ≠ n → (u.dev.tile t).flow.steers[m]? = x.flow.steers[m]?)
          ∧ (u.dev.tile t).flow.specTags = x.flow.specTags ∧ (u.dev.tile t).mem = x.mem ∧ Claim.OnlyAdvances s u t ts)

/-! ## Sync queues and hatband instructions -/

/-- SQPUT, SQGET and SQCNT on a queue of the tile: a put to a queue with no waiter appends, one with a waiter hands the token
to the first; a get takes the oldest token, or waits as the last waiter; a count never waits (R218-R220). -/
def Obligations.SyncQueueInstructions : Prop :=
  ∀ (s : State) (t : Pos) (ts : Nat) (r : Reg) (q : BitVec 6), q.toNat < kindSqs t.kind →
    let k := (s.dev.tile t).sq q.toNat
    (Issues s t ts (encQ 0x40 0 r 0 0 q) → k.overPut = false →
      (k.waiters = [] → k.full = false →
        ∃ u, exec (.sqput t ts r q) s = .next u ∧ ((u.dev.tile t).sq q.toNat).toks = k.toks ++ [(thread s t ts).g r]
          ∧ ((u.dev.tile t).sq q.toNat).puts = min 0xFFFF (k.puts + 1) ∧ (u.dev.tile t).mem = (s.dev.tile t).mem
          ∧ Claim.OnlyAdvances s u t ts)
      ∧ (∀ n rd w, k.waiters = (n, rd) :: w → n ≠ ts →
        ∃ u, exec (.sqput t ts r q) s = .next u ∧ ((u.dev.tile t).sq q.toNat).toks = k.toks
          ∧ ((u.dev.tile t).sq q.toNat).waiters = w ∧ (thread u t n).g rd = (if rd.val = 0 then 0 else (thread s t ts).g r)
          ∧ (thread u t n).st = .running ∧ (thread u t n).pc = nextPc t.kind (thread s t n).pc
          ∧ (thread u t ts).pc = pcPlus s t ts 1)
      ∧ (k.waiters = [] → k.full = true →
        ∃ u, exec (.sqput t ts r q) s = .next u ∧ ((u.dev.tile t).sq q.toNat).toks = k.toks
          ∧ (thread u t ts).wait = some (.retry 6 (encQ 0x40 0 r 0 0 q)) ∧ (thread u t ts).pc = (thread s t ts).pc))
    ∧ (Issues s t ts (encQ 0x41 r 0 0 0 q) → k.overGet = false →
      (∀ v w, k.toks = v :: w →
        ∃ u, exec (.sqget t ts r q) s = .next u ∧ ((u.dev.tile t).sq q.toNat).toks = w
          ∧ ((u.dev.tile t).sq q.toNat).gets = min 0xFFFF (k.gets + 1)
          ∧ (thread u t ts).g r = (if r.val = 0 then 0 else v) ∧ (thread u t ts).pc = pcPlus s t ts 1)
      ∧ (k.toks = [] →
        ∃ u, exec (.sqget t ts r q) s = .next u ∧ ((u.dev.tile t).sq q.toNat).waiters = k.waiters ++ [(ts, r)]
          ∧ (thread u t ts).wait = some (.sqHead q.toNat r) ∧ (thread u t ts).pc = (thread s t ts).pc))
    ∧ (Issues s t ts (encQ 0x42 r 0 0 0 q) →
      exec (.sqcnt t ts r q) s = .next (on s (writesReg t ts r (BitVec.ofNat 32 k.toks.length) (pcPlus s t ts 1))))
    ∧ (Issues s t ts (encQ 0x40 0 r 0 0 q) → k.overPut = true → (k.full = false ∨ k.waiters ≠ []) →
      ∃ u, exec (.sqput t ts r q) s = .next u ∧ Claim.Faulted s u t ts 0x0202)
    ∧ (Issues s t ts (encQ 0x41 r 0 0 0 q) → k.overGet = true →
      ∃ u, exec (.sqget t ts r q) s = .next u ∧ Claim.Faulted s u t ts 0x0201)

/-- A hatband instruction on a line where the tile is not enrolled faults with 0x0104 (R203). -/
def Obligations.HatbandNeedsEnrolment : Prop :=
  ∀ (s : State) (t : Pos) (ts : Nat) (q : BitVec 6), enrolled (s.dev.tile t) q.toNat = false →
    (Issues s t ts (encQ 0x43 0 0 0 0 q) → ∃ u, exec (.hbarr t ts q) s = .next u ∧ Claim.Faulted s u t ts 0x0104)
    ∧ (Issues s t ts (encQ 0x44 0 0 0 0 q) → ∃ u, exec (.hbwait t ts q) s = .next u ∧ Claim.Faulted s u t ts 0x0104)
    ∧ (Issues s t ts (encQ 0x45 0 0 0 0 q) → ∃ u, exec (.hbsync t ts q) s = .next u ∧ Claim.Faulted s u t ts 0x0104)

/-- On a line where the tile is enrolled HBARR sets the tile's arrive bit and goes on, HBWAIT waits while the bit is set and
goes on when it is clear, HBSYNC arrives and waits; an arrive on line 0 waits with cause 7 while a signal of the tile is not
appended, a descriptor not completed or a retained range not copied (R203, R227, R230, R332). -/
def Obligations.HatbandInstructions : Prop :=
  ∀ (s : State) (t : Pos) (ts : Nat) (q : BitVec 6), enrolled (s.dev.tile t) q.toNat = true →
    let x := s.dev.tile t
    let held := q.toNat = 0 ∧ arriveHeld x = true
    (Issues s t ts (encQ 0x43 0 0 0 0 q) →
      (pendingOn x q.toNat = false → ¬ held →
        exec (.hbarr t ts q) s = .next (on s (fun d => goesTo t ts (pcPlus s t ts 1) (d.onTile t (setPending q.toNat)))))
      ∧ (pendingOn x q.toNat = true → exec (.hbarr t ts q) s = .next (on s (goesTo t ts (pcPlus s t ts 1))))
      ∧ (pendingOn x q.toNat = false → held → exec (.hbarr t ts q) s = .next (on s (fun d =>
          d.onTile t (fun x => x.onSlot ts (fun y => { y with st := .waiting, wait := some (.retry 7 (encQ 0x43 0 0 0 0 q)) }))))))
    ∧ (Issues s t ts (encQ 0x44 0 0 0 0 q) →
      (pendingOn x q.toNat = false → exec (.hbwait t ts q) s = .next (on s (goesTo t ts (pcPlus s t ts 1))))
      ∧ (pendingOn x q.toNat = true → exec (.hbwait t ts q) s = .next (on s (fun d =>
          d.onTile t (fun x => x.onSlot ts (fun y =>
            { y with st := .waiting, wait := some (.line q.toNat (encQ 0x44 0 0 0 0 q)) }))))))
    ∧ (Issues s t ts (encQ 0x45 0 0 0 0 q) → ¬ (pendingOn x q.toNat = false ∧ held) →
      ∃ u, exec (.hbsync t ts q) s = .next u ∧ (u.dev.tile t).sync.pending.getLsbD q.toNat = true
        ∧ (thread u t ts).wait = some (.line q.toNat (encQ 0x45 0 0 0 0 q)) ∧ (thread u t ts).st = .waiting
        ∧ (thread u t ts).pc = (thread s t ts).pc)

/-! ## Completion counters and the remote context -/

/-- CCRD reads a counter, CCWAIT goes on when it has reached rs1 and else waits with cause 8, CCTAKE then subtracts rs1, CCSET
sets it, SETRC sets REMOTE_CTX, whose reserved bits are 0 when rs1's are (R206, R209). -/
def Obligations.CounterInstructions : Prop :=
  ∀ (s : State) (t : Pos) (ts : Nat) (r : Reg) (q : BitVec 6),
    let n := q.toNat % 16
    let c := (s.dev.tile t).net.cc.get 0 n
    let v := (thread s t ts).g r
    (Issues s t ts (encQ 0x57 r 0 0 0 q) → exec (.ccrd t ts r q) s = .next (on s (writesReg t ts r c (pcPlus s t ts 1))))
    ∧ (Issues s t ts (encQ 0x58 0 r 0 0 q) →
      (v.toNat ≤ c.toNat → exec (.ccwait t ts r q) s = .next (on s (goesTo t ts (pcPlus s t ts 1))))
      ∧ (c.toNat < v.toNat → exec (.ccwait t ts r q) s = .next (on s (fun d => d.onTile t (fun x => x.onSlot ts (fun y =>
          { y with st := .waiting, wait := some (.retry 8 (encQ 0x58 0 r 0 0 q)) }))))))
    ∧ (Issues s t ts (encQ 0x59 0 r 0 0 q) →
      (v.toNat ≤ c.toNat → ∃ u, exec (.cctake t ts r q) s = .next u ∧ (u.dev.tile t).net.cc.get 0 n = c - v
          ∧ ∀ m, m ≠ n → (u.dev.tile t).net.cc.get 0 m = (s.dev.tile t).net.cc.get 0 m)
      ∧ (c.toNat < v.toNat → exec (.cctake t ts r q) s = .next (on s (fun d => d.onTile t (fun x => x.onSlot ts (fun y =>
          { y with st := .waiting, wait := some (.retry 8 (encQ 0x59 0 r 0 0 q)) }))))))
    ∧ (Issues s t ts (encQ 0x5A 0 r 0 0 q) → ∃ u, exec (.ccset t ts r q) s = .next u ∧ (u.dev.tile t).net.cc.get 0 n = v
        ∧ ∀ m, m ≠ n → (u.dev.tile t).net.cc.get 0 m = (s.dev.tile t).net.cc.get 0 m)
    ∧ (Issues s t ts (encA 0x56 0 r 0 0) → ∃ u, exec (.setrc t ts r) s = .next u
        ∧ (thread u t ts).ctx &&& 0x3FFFFFFF = v &&& 0x3FFFFFFF ∧ (v &&& 0xC0000000 = 0 → (thread u t ts).ctx = v)
        ∧ (u.dev.tile t).mem = (s.dev.tile t).mem ∧ Claim.OnlyAdvances s u t ts)

/-! ## Remote operations -/

/-- A run of units cut into packets of at most `k`: first unit and units of each, in increasing order (R241). -/
def Claim.cuts (units k : Nat) : List (Nat × Nat) := (List.range (cdiv units k)).map (fun i => (k * i, min k (units - k * i)))

/-- A tile has sent packets of a type, one for each cut, each as `P` says of its cut: they take the next sequence numbers in
order, stand in flight at the tile's router and among the packets awaiting acknowledgement, their timers running (R251, R256). -/
def Claim.Issued (s u : State) (t : Pos) (ty : PType) (cs : List (Nat × Nat)) (P : Nat × Nat → Out → Prop) : Prop :=
  ∃ (os : List Out) (fs : List Flight), (u.dev.tile t).net.outs = (s.dev.tile t).net.outs ++ os
    ∧ u.dev.wafer.flights = s.dev.wafer.flights ++ fs ∧ fs.map (·.pkt) = os.map (·.pkt) ∧ List.Forall₂ P cs os
    ∧ (∀ o ∈ os, o.pkt.ty = ty ∧ o.timer = true ∧ o.pkt.src = .phys t) ∧ (∀ f ∈ fs, f.place = .router t localSide)
    ∧ os.map (·.pkt.seq) = (List.range cs.length).map (fun i => ((s.dev.tile t).net.seqNext + i) % 4096)

/-- The numbers that an operation of `k` packets takes are free and no packet waits before it (R210, R251). -/
def Claim.Window (s : State) (t : Pos) (k : Nat) : Prop :=
  (s.dev.tile t).net.unsent = [] ∧ (s.dev.tile t).net.room k = true ∧ (s.dev.tile t).net.seqNext < 4096

/-- A packet toward a region coordinate of this device, or by the egress port tile toward one of another device, which its
route prefix names (R249, R250). -/
def Claim.Toward (s : State) (t : Pos) (j : Job) (off : Bool) (rank : Nat) (c : RC) (k : Packet) : Prop :=
  (off = false → k.xdev = false ∧ ∀ q, j.posOf s.dev.map c = some q → k.dst = s.dev.addrOf q)
    ∧ (off = true → k.xdev = true ∧ k.dst = .port (s.dev.tile t).net.egress ∧ k.rank = rank ∧ k.pfx = some (.region c))

/-- The thread alone has gone on; registers, memories, jobs, map, brim and host side stay. -/
def Claim.SendsOnly (s u : State) (t : Pos) (ts : Nat) : Prop :=
  Claim.OnlyAdvances s u t ts ∧ (∀ p : Pos, (u.dev.tile p).mem = (s.dev.tile p).mem) ∧ u.dev.jobs = s.dev.jobs
    ∧ u.dev.map = s.dev.map ∧ u.dev.brim = s.dev.brim ∧ u.dev.host = s.dev.host ∧ u.boot = s.boot

/-- PUT and RADD send the local range, cut into packets, to the endpoint, each packet with its bytes of the range, its target
offset and the target's counter; GET asks the endpoint for the remote range in the same way, and its answers go to the local
address of each cut. The local counter stands with each packet. RADD's packets carry format, stream and the long flag. -/
def Obligations.RemoteRangesAreSent : Prop :=
  ∀ (s : State) (t : Pos) (ts : Nat) (rd rs1 rs2 : Reg) (i : BitVec 10) (j : Job), s.dev.jobAt t = some j →
    let y := thread s t ts
    let r := remoteOf (y.g rs2) i
    let ep := y.g rs1
    let a := (y.g rd).toNat
    let cut := fun (n : Nat) => Claim.cuts r.units (if epOff ep then n - 1 else n)
    let common := fun (c : Nat × Nat) (o : Out) => o.lcc = (if r.lce then some r.lcc else none) ∧ o.units = c.2
      ∧ o.local_ = a + 16 * c.1 ∧ o.pkt.tag = putTag (r.off + 16 * c.1) ∧ Claim.Toward s t j (epOff ep) (ctxRank y.ctx) (epRc ep) o.pkt
    let carried := fun (c : Nat × Nat) (o : Out) => common c o ∧ o.pkt.red = putRed (r.off + 16 * c.1) r.dcc r.dce
      ∧ o.pkt.data = (s.dev.tile t).mem.readN (a + 16 * c.1) (16 * c.2)
    remoteStop j t.kind a ep r = none →
    (Issues s t ts (encA 0x50 rd rs1 rs2 i) → Claim.Window s t (cut 16).length → Claim.Readable s t ts a (16 * r.units) →
      ∃ u, exec (.put t ts rd rs1 rs2 i) s = .next u ∧ Claim.Issued s u t .put (cut 16) carried ∧ Claim.SendsOnly s u t ts)
    ∧ (Issues s t ts (encA 0x51 rd rs1 rs2 i) → r.dcc = 0 → r.dce = false → Claim.Window s t (cut 16).length →
      ∃ u, exec (.get t ts rd rs1 rs2 i) s = .next u ∧ Claim.SendsOnly s u t ts
        ∧ Claim.Issued s u t .getReq (cut 16) (fun c o => common c o ∧ o.pkt.red = putRed (r.off + 16 * c.1) 0 false
            ∧ o.pkt.data = [] ∧ o.pkt.len = c.2 + (if epOff ep then 1 else 0)))
    ∧ (Issues s t ts (encA 0x52 rd rs1 rs2 i) → longFmt (ctxFmt y.ctx) = true → rcKind (epRc ep).rx = 0 →
      Claim.Window s t (cut 15).length → Claim.Readable s t ts a (16 * r.units) →
      ∃ u, exec (.radd t ts rd rs1 rs2 i) s = .next u ∧ Claim.SendsOnly s u t ts
        ∧ Claim.Issued s u t .radd (cut 15) (fun c o => carried c o ∧ o.pkt.long = ctxLong y.ctx
            ∧ o.pkt.sub = padTo 16 (le 1 (ctxFmt y.ctx) ++ le 1 (ctxStream y.ctx))))

/-- MCAST sends the local range, cut into packets with the sub-header of R260, to the router of the tree's north-west corner.
SIGNAL sends one packet with its value, count, queue and counter to its endpoint, and the tile then has one signal more that is
not appended. -/
def Claim.MulticastAndSignal : Prop :=
  ∀ (s : State) (t : Pos) (ts : Nat) (rd rs1 rs2 : Reg) (i : BitVec 10) (j : Job), s.dev.jobAt t = some j →
    let y := thread s t ts
    (let r := remoteOf (y.g rs2) i
     let e0 := y.g rs1
     let e1 := y.g (rs1 + 1)
     let a := (y.g rd).toNat
     let sub := fun (c : Nat × Nat) => mcastSub s.dev j (epRc e0) (epRc e1) (r.off + 16 * c.1) r.dcc r.dce
     Issues s t ts (encA 0x53 rd rs1 rs2 i) → rs1.val % 2 = 0 → epOff e0 = false → epOff e1 = false →
     (epRc e0).rx ≤ (epRc e1).rx → (epRc e0).ry ≤ (epRc e1).ry → remoteStop j t.kind a e0 r = none → endpointStop j e1 = none →
     (membersIn j (epRc e0) (epRc e1)).any (fun c => targetBad c r.off (16 * r.units)) = false →
     Claim.Window s t (Claim.cuts r.units 15).length → Claim.Readable s t ts a (16 * r.units) →
      ∃ u, exec (.mcast t ts rd rs1 rs2 i) s = .next u ∧ Claim.SendsOnly s u t ts
        ∧ Claim.Issued s u t .mcast (Claim.cuts r.units 15) (fun c o => o.lcc = (if r.lce then some r.lcc else none) ∧ o.units = c.2
            ∧ o.pkt.data = (s.dev.tile t).mem.readN (a + 16 * c.1) (16 * c.2) ∧ o.pkt.xdev = false ∧ o.pkt.sub = sub c
            ∧ ∀ gx py0, j.origin = some (gx, py0) → o.pkt.dst = .phys ⟨fieldLe (sub c) 8 4 % 512, py0 + (epRc e0).ry⟩))
    ∧ (let ep := y.g rs1
       Issues s t ts (encA 0x54 rd rs1 rs2 i) → endpointStop j ep = none → Claim.Window s t 1 →
      ∃ u, exec (.signal t ts rd rs1 rs2 i) s = .next u ∧ Claim.SendsOnly s u t ts
        ∧ (u.dev.tile t).sync.sigOut = (s.dev.tile t).sync.sigOut + 1
        ∧ Claim.Issued s u t .signal [(0, 0)] (fun _ o => o.pkt.tag = bits i.toNat 4 6 + 64 * bits i.toNat 0 4
            ∧ o.pkt.data = padTo 16 (le 4 (y.g rs2).toNat ++ le 4 (y.g rd).toNat)
            ∧ Claim.Toward s t j (epOff ep) (ctxRank y.ctx) (epRc ep) o.pkt))

/-- What a REDC contributes: entry and tag, the ordinal of its participant, the run's units and its first element. -/
structure Claim.Run where
  e : RedEntry
  q : Nat
  units : Nat
  element : Nat

/-- The element of a cut of a run. -/
def Claim.Run.elementOf (x : Claim.Run) (c : Nat × Nat) : Nat := (x.element + 16 * c.1 / fmtSize x.e.fmt) % 2 ^ 24

/-- REDC contributes a run of a reduction: a participant with an odd ordinal sends it, cut into packets, to the router of the
ordinal before it; one with an even ordinal and a right sibling holds it as left children at its own router, and the local
counter gains the units at once; the only participant of a reduction whose result goes to every participant has it written at
the delivery offset. -/
def Claim.Contribution : Prop :=
  ∀ (s : State) (t : Pos) (ts : Nat) (rd rs1 rs2 : Reg) (i : BitVec 10) (j : Job), s.dev.jobAt t = some j →
    let y := thread s t ts
    let x := s.dev.tile t
    let w1 := (y.g rs1).toNat
    let a := (y.g rd).toNat
    ∀ run : Claim.Run, run.units = bits (y.g rs2).toNat 24 8 + 1 → run.element = bits (y.g rs2).toNat 0 24 →
      j.img.reds[bits w1 16 6]? = some run.e → run.e.ordinal x.rank x.rc = some run.q → longFmt run.e.fmt = true →
      let cs := Claim.cuts run.units run.e.cut
      let bytes := fun (c : Nat × Nat) => x.mem.readN (a + 16 * c.1) (16 * c.2)
      Issues s t ts (encA 0x55 rd rs1 rs2 i) → a % 16 = 0 → Claim.Readable s t ts a (16 * run.units) →
      (run.q % 2 = 1 → 1 < run.e.count → Claim.Window s t cs.length →
        ∃ u, exec (.redc t ts rd rs1 rs2 i) s = .next u ∧ Claim.SendsOnly s u t ts
          ∧ Claim.Issued s u t .red cs (fun c o => o.lcc = (if i.getLsbD 4 then some (bits i.toNat 0 4) else none) ∧ o.units = c.2
              ∧ o.pkt.data = bytes c ∧ o.pkt.tag = bits w1 0 16 ∧ o.pkt.red = bits w1 16 6
              ∧ o.pkt.sub = redSub (run.elementOf c) 1 false (x.step % 2 ^ 32) (run.q / 2)
              ∧ Claim.Toward s t j ((run.e.place (run.q - 1)).1 != x.rank) (run.e.place (run.q - 1)).1 (run.e.place (run.q - 1)).2 o.pkt))
      ∧ (run.q % 2 = 0 → run.q + 1 < run.e.count → x.net.red.length + cs.length ≤ 32 →
          (∀ c ∈ cs, x.redNew (bits w1 16 6) (bits w1 0 16) (run.elementOf c) 1 (run.q / 2) false = true) →
          ∃ u, exec (.redc t ts rd rs1 rs2 i) s = .next u
            ∧ (u.dev.tile t).net.red = x.net.red ++ cs.map (fun c => { entry := bits w1 16 6, tag := bits w1 0 16
                                                                       element := run.elementOf c, level := 1, j := run.q / 2
                                                                       right := false, step := x.step % 2 ^ 32, data := bytes c })
            ∧ (i.getLsbD 4 = false → Claim.SendsOnly s u t ts)
            ∧ (i.getLsbD 4 = true → ((u.dev.tile t).net.cc.get 0 (bits i.toNat 0 4)).toNat
                = min 0xFFFFFFFF ((x.net.cc.get 0 (bits i.toNat 0 4)).toNat + run.units)))
      ∧ (run.e.count = 1 → run.units ≤ run.e.cut → run.e.all = true → run.e.dce = false → i.getLsbD 4 = false →
          let b := run.e.off + run.element * fmtSize run.e.fmt
          inMem t.kind b (16 * run.units) = true → remoteHeld s.dev t b (16 * run.units) = false →
          (partWords b (16 * run.units)).any x.bad.contains = false → x.mem.wf = true →
          ∃ u, exec (.redc t ts rd rs1 rs2 i) s = .next u ∧ Claim.OnlyAdvances s u t ts ∧ Claim.Stored s u t b (x.mem.readN a (16 * run.units)))

/-- MCAST sends the local range, cut into packets, to the router of the tree's north-west corner; SIGNAL sends one packet with its
value, count, queue and counter, and the tile then has one signal more that is not appended; REDC contributes a run of a
reduction, which a participant with an odd ordinal sends to the router of the ordinal before it, one with an even ordinal and a
right sibling holds at its own router, and the only participant writes where it is delivered. -/
def Obligations.CollectivesAreSent : Prop := Claim.MulticastAndSignal ∧ Claim.Contribution

/-! ## System instructions -/

/-- A tag is ended for a task: the base has moved past the tags that had ended, this one among them, from the base on, and the
tags that it has not passed stay ended (R160). -/
def Claim.TagEnded (k k' : TaskSt) (tag : Nat) : Prop :=
  k'.decl = k.decl ∧ ∃ n, k'.base = (k.base + n) % 65536
    ∧ (∀ i < n, (k.base + i) % 65536 = tag ∨ (k.base + i) % 65536 ∈ k.ended)
    ∧ (∀ g, g ∈ k'.ended ↔ (g = tag ∨ g ∈ k.ended) ∧ ∀ i < n, g ≠ (k.base + i) % 65536)
    ∧ (n < 65 → k'.base ∉ k'.ended)

/-- One tag of one task is ended on a tile: its entries are gone from the match store and every other entry stays; every other
task stays. -/
def Claim.EndsTag (s u : State) (t : Pos) (task tag : Nat) : Prop :=
  (u.dev.tile t).flow.store = (s.dev.tile t).flow.store.filter (fun e => !(e.task == task && e.tok.tag == tag))
    ∧ (u.dev.tile t).flow.tasks.length = (s.dev.tile t).flow.tasks.length
    ∧ ∀ (i : Nat) (k : TaskSt), (s.dev.tile t).flow.tasks[i]? = some k → k.base < 65536 → ∃ k', (u.dev.tile t).flow.tasks[i]? = some k'
      ∧ (k.decl.id = task → Claim.TagEnded k k' tag) ∧ (k.decl.id ≠ task → k' = k)

/-- The items of GETS by selector (R216). -/
def Claim.items (s : State) (t : Pos) (ts : Nat) : List Nat :=
  let x := s.dev.tile t
  let y := thread s t ts
  [ts, y.task, y.ctx.toNat, x.step, x.rc.rx % 512 + 512 * (x.rc.ry % 512), x.rank,
   (match s.dev.jobAt t with
    | some j => 15 * j.img.w % 512 + 512 * j.img.h
    | none => 0), t.kind]

/-- The record of a RAISE: tile and slot, the detail in rs1, the program counter (R215). -/
def Claim.RaiseRecord (s : State) (t : Pos) (ts : Nat) (r : Reg) (l : LogRec) : Prop :=
  l.code = 0x0108 ∧ l.origin = 1 ∧ l.detail = ((thread s t ts).g r).toNat ∧ l.count = (thread s t ts).pc % 2 ^ 13
    ∧ l.loc = (s.dev.tile t).rc.rx % 512 + 512 * ((s.dev.tile t).rc.ry % 512) + 2 ^ 18 * ts

/-- TEND ends a thread that is under no tag: its slot is free and its tag is ended, its entries freed; a thread under a tag halts
in its slot. YIELD moves the slot to the end of the order. GETS reads its item, and faults with 0x0104 where the selector has
none. RAISE logs a 0x0108 record, and as a fault stops the job with it. TRETIRE ends a tag of the window that no thread runs and
leaves one that has ended as it is; it faults with 0x0104 on a tag at or beyond the window and on one that runs. -/
def Obligations.SystemInstructions : Prop :=
  ∀ (s : State) (t : Pos) (ts : Nat) (r : Reg) (i : BitVec 10),
    let x := s.dev.tile t
    let y := thread s t ts
    (Issues s t ts (encA 0x70 0 0 0 0) →
      (y.spec = none → ∃ u, exec (.tend t ts) s = .next u ∧ thread u t ts = {} ∧ (u.dev.tile t).order = x.order.filter (· != ts)
        ∧ Claim.EndsTag s u t y.task y.tag ∧ (u.dev.tile t).mem = x.mem ∧ (∀ n, n ≠ ts → thread u t n = thread s t n)
        ∧ (∀ p : Pos, p.ix ≠ t.ix → u.dev.tile p = s.dev.tile p) ∧ u.dev.jobs = s.dev.jobs ∧ u.dev.brim = s.dev.brim)
      ∧ (∀ g, y.spec = some g → exec (.tend t ts) s = .next (on s (fun d =>
          d.onTile t (fun x => x.onSlot ts (fun y => { y with st := .halted, wait := none }))))))
    ∧ (Issues s t ts (encA 0x72 0 0 0 0) → exec (.yield t ts) s = .next (on s (fun d =>
        goesTo t ts (pcPlus s t ts 1) (d.onTile t (fun x => { x with order := x.order.filter (· != ts) ++ [ts] })))))
    ∧ (Issues s t ts (encA 0x74 r 0 0 i) →
      (∀ v, (Claim.items s t ts)[i.toNat % 16]? = some v →
        exec (.gets t ts r i) s = .next (on s (writesReg t ts r (BitVec.ofNat 32 v) (pcPlus s t ts 1))))
      ∧ (8 ≤ i.toNat % 16 → ∃ u, exec (.gets t ts r i) s = .next u ∧ Claim.Faulted s u t ts 0x0104))
    ∧ (Issues s t ts (encA 0x73 0 r 0 i) →
      (i.getLsbD 0 = true → ∃ u, exec (.raise t ts r i) s = .next u ∧ Claim.Faulted s u t ts 0x0108
          ∧ ∃ l ∈ u.dev.host.log, Claim.RaiseRecord s t ts r l ∧ l.stopped = true)
      ∧ (i.getLsbD 0 = false → ∃ u, exec (.raise t ts r i) s = .next u ∧ Claim.OnlyAdvances s u t ts ∧ u.dev.jobs = s.dev.jobs
          ∧ (∀ p : Pos, (u.dev.tile p).mem = (s.dev.tile p).mem)
          ∧ ∃ l, u.dev.host.log = keepLast 4096 (s.dev.host.log ++ [l]) ∧ Claim.RaiseRecord s t ts r l ∧ l.stopped = false))
    ∧ (Issues s t ts (encA 0x71 0 r 0 i) →
      let id := i.toNat % 64
      let tag := (y.g r).toNat % 65536
      let runs := x.slots.any (fun z => z.2.st != .free && z.2.task == id && z.2.tag == tag)
      ∀ k, x.flow.tasks.find? (fun z => z.decl.id == id) = some k →
        (k.dist tag < k.decl.window → runs = false → k.ended.contains tag = false →
          ∃ u, exec (.tretire t ts r i) s = .next u ∧ Claim.OnlyAdvances s u t ts ∧ Claim.EndsTag s u t id tag
            ∧ (u.dev.tile t).mem = x.mem ∧ u.dev.jobs = s.dev.jobs)
        ∧ (k.dist tag < k.decl.window → runs = false → k.ended.contains tag = true →
          exec (.tretire t ts r i) s = .next (on s (goesTo t ts (pcPlus s t ts 1))))
        ∧ (k.decl.window ≤ k.dist tag ∨ runs = true → ∃ u, exec (.tretire t ts r i) s = .next u ∧ Claim.Faulted s u t ts 0x0104))

/-! ## Tensor and vector instructions -/

/-- An entry has been put at the end of the issue queue: its work, the thread's tag, the tile's step, not started (R78). -/
def Claim.Queued (s u : State) (t : Pos) (ts : Nat) (w : QWork) : Prop :=
  ∃ e : QEntry, (u.dev.tile t).tensor.queue = (s.dev.tile t).tensor.queue ++ [e] ∧ e.work = w ∧ e.spec = (thread s t ts).spec
    ∧ e.step = (s.dev.tile t).step ∧ e.running = false ∧ (u.dev.tile t).mem = (s.dev.tile t).mem
    ∧ (u.dev.tile t).tensor.accs = (s.dev.tile t).tensor.accs ∧ Claim.OnlyAdvances s u t ts

/-- The block count that the header of a block-sparse operand gives (R131). -/
def Claim.headerBlocks (m : Mem) (e : TDesc) : Nat := if e.sparse = 3 ∧ e.mode = 0 then m.readLe (16 * e.metaAddr) 2 else 0

/-- TOP queues the operation of its descriptor when every check of R93 holds; VOP starts the vector unit of a Function tile and
its thread waits for it (R78, R93, R98, R131, R214). -/
def Obligations.TensorAndVectorOperationsIssue : Prop :=
  ∀ (s : State) (t : Pos) (ts : Nat) (r : Reg), Issues s t ts (encA 0x60 0 r 0 0) →
    let a := ((thread s t ts).g r).toNat
    let x := s.dev.tile t
    let ws := wordsLe (x.mem.readN a 32)
    a % 16 = 0 → Claim.Readable s t ts a 32 →
    (t.kind = 0 →
      let e := tdesc ws
      let n := Claim.headerBlocks x.mem e
      queueFull x = false → (e.sparse = 3 ∧ e.mode = 0 → Claim.Readable s t ts (16 * e.metaAddr) 16) → badDesc x e n = false →
      (e.mode = 1 → x.granted = true) → e.prov = (thread s t ts).spec.isSome → (e.prov = true → scoutOutside e = false) →
      ∃ u, exec (.top t ts r) s = .next u ∧ Claim.Queued s u t ts (.tensor ws n))
    ∧ (t.kind = 1 →
      let v := vdesc ws
      x.tensor.vop = none → v.bad = false → (v.reads ++ v.writes).all (fun z => z.1 % 4 == 0 && inMem 1 z.1 z.2) = true →
      v.reads.all (fun z => !rangeForeign x (thread s t ts).spec z.1 z.2) = true → vopWriteStop t ts s.dev v = none →
      ∃ u, exec (.vop t ts r) s = .next u ∧ (thread u t ts).wait = some .vector ∧ (thread u t ts).st = .waiting
        ∧ (thread u t ts).pc = (thread s t ts).pc ∧ (u.dev.tile t).mem = x.mem
        ∧ ∃ o, (u.dev.tile t).tensor.vop = some o ∧ o.slot = ts ∧ o.desc = ws ∧ o.step = x.step)

/-- DRAIN and DISCARD queue an entry when the queue has room; TWAIT goes on when no entry names its accord and the accord is in
no drain, or when the whole queue is empty, and else waits with cause 10 (R97, R211, R213, R470). -/
def Obligations.AccordInstructions : Prop :=
  ∀ (s : State) (t : Pos) (ts : Nat) (rd rs1 rs2 : Reg) (i : BitVec 10),
    let x := s.dev.tile t
    let y := thread s t ts
    (Issues s t ts (encA 0x61 rd rs1 rs2 i) →
      let w := encA 0x61 rd rs1 rs2 i
      let f := drainForm w (y.g rd) (y.g rs1) (y.g rs2)
      f.dst % 16 = 0 → f.m0 + f.rows ≤ 4096 → f.n0 + f.cols ≤ 4096 →
      badDst x f.fin f.dst f.ld (f.n0 + f.cols) (rowCapacity x f.fin f.ld) (f.m0 + f.rows) = false → queueFull x = false →
      ∃ u, exec (.drain t ts rd rs1 rs2 i) s = .next u ∧ Claim.Queued s u t ts (.drain w (y.g rd) (y.g rs1) (y.g rs2)))
    ∧ (Issues s t ts (encA 0x62 0 0 0 i) → queueFull x = false →
      ∃ u, exec (.discard t ts i) s = .next u ∧ Claim.Queued s u t ts (.discard (encA 0x62 0 0 0 i)))
    ∧ (Issues s t ts (encA 0x63 0 0 0 i) →
      let a := bits i.toNat 0 3
      let busy := x.tensor.queue.any (fun e => e.names a) || (x.acc a).st == .draining || (x.acc a).st == .drainPending
      (i.getLsbD 3 = false → busy = false → exec (.twait t ts i) s = .next (on s (goesTo t ts (pcPlus s t ts 1))))
      ∧ (i.getLsbD 3 = true → a = 0 → x.tensor.queue = [] →
          exec (.twait t ts i) s = .next (on s (goesTo t ts (pcPlus s t ts 1))))
      ∧ (((i.getLsbD 3 = false ∧ busy = true) ∨ (i.getLsbD 3 = true ∧ a = 0 ∧ x.tensor.queue ≠ [])) →
          exec (.twait t ts i) s = .next (on s (fun d => d.onTile t (fun x => x.onSlot ts (fun y =>
            { y with st := .waiting, wait := some (.retry 10 (encA 0x63 0 0 0 i)) }))))))

/-! ## Tensor unit events -/

/-- ISSUE_QUEUE_HEAD starts a tensor operation whose accords are in states that allow it: its accords are OPEN and empty when it
has init, the entry is running; a DISCARD of an OPEN accord frees it and leaves the queue (R94, R97). -/
def Obligations.IssueQueueHeadStartsWork : Prop :=
  ∀ (s : State) (t : Pos) (q : QEntry) (r : List QEntry), t.ok = true → s.dev.live t = true →
    (s.dev.tile t).tensor.queue = q :: r → q.running = false →
    let x := s.dev.tile t
    (∀ ws n, q.work = .tensor ws n →
      let e := tdesc ws
      e.mode ≠ 2 → e.useMask = false → (passAccs e 0).all (fun a => (x.acc a).st != .draining) = true →
      (passAccs e 0).all (fun a => startStop q.spec e.init e.int (x.acc a) == none) = true → q.prog = {} →
      ∃ u, exec (.issueQueueHead t) s = .next u
        ∧ (∃ q', (u.dev.tile t).tensor.queue = q' :: r ∧ q'.running = true ∧ q'.work = q.work ∧ q'.step = q.step)
        ∧ (e.init = true → ∀ a ∈ passAccs e 0, ((u.dev.tile t).acc a).vals = []
            ∧ ((u.dev.tile t).acc a).st = (if q.spec.isSome then .openProv else .opened)))
    ∧ (∀ w, q.work = .discard w → q.spec = none → (x.acc (bits w.toNat 0 3)).st = .opened →
      ∃ u, exec (.issueQueueHead t) s = .next u ∧ (u.dev.tile t).tensor.queue = r
        ∧ ((u.dev.tile t).acc (bits w.toNat 0 3)).st = .free)

/-- WEIGHT_FILL_COMPLETE brings the next segment of B into the weight registers; LANE_BLOCK_COMPLETE adds the sums of the next
m-block, segment and n-block into its accord (R80, R84, R85, R115, R116). -/
def Obligations.LaneWorkEntersTheAccord : Prop :=
  ∀ (s : State) (t : Pos) (fz : Freezes) (q : QEntry) (r : List QEntry) (ws : List Word) (nblk : Nat), t.ok = true →
    s.dev.live t = true → (s.dev.tile t).tensor.queue = q :: r → q.work = .tensor ws nblk → q.running = true →
    q.prog.ended = false →
    let e := tdesc ws
    let g := q.prog
    (e.mode = 1 → g.bSegs.length < 2 → g.ks + g.bSegs.length < segCount e →
      ∀ ls d, feedB t q e nblk g.nb (g.ks + g.bSegs.length) s.dev = .got ls d →
      ∃ u, exec (.weightFillComplete t) s = .next u
        ∧ ∃ q', (u.dev.tile t).tensor.queue.head? = some q' ∧ q'.prog = { g with bSegs := g.bSegs ++ [ls], bufB := [] })
    ∧ (e.mode ≠ 2 → q.draining = false → e.useMask = false →
      let d0 := s.dev.setTile t (s.dev.tile t)
      ∀ lb d1 la d2, ((g.bSegs = [] ∧ e.mode = 0 ∧ feedB t q e nblk g.nb g.ks d0 = .got lb d1)
          ∨ (g.bSegs.head? = some lb ∧ d1 = d0)) →
        feedA t q e nblk g.mb g.ks d1 = .got la d2 →
        let a := e.accId + (g.mb - g.mb0)
        ∃ u, exec (.laneBlockComplete t fz none) s = .next u
          ∧ ((u.dev.tile t).acc a).vals = (blockWork e q.mask (32 * (g.mb - g.mb0)) (segWidth e * g.ks) (segLen e g.ks) la lb none
              ((s.dev.tile t).acc a)).1.vals)

/-- The writes of a drain in dense or N:M output: each row's elements, then its scale bytes (R103, R145, R147). -/
def Claim.drainWrites (s : State) (t : Pos) (j : DrainJob) : List (Nat × List Byte) :=
  let x := s.dev.tile t
  let w := { drawOf s.dev t j.cw.stream with step := j.step }
  let rows := (List.range j.rows).map (fun r =>
    finRow (narrowAt s.dev t) w j ((List.range j.cols).map (stageVal x.mem j (x.acc j.accord) r)) r)
  (rows.zipIdx).flatMap (fun ((xs, scs), r) =>
    (if j.mode = some 2 then nmWrites j 1 scs r xs else if j.mode = some 3 then nmWrites j 2 scs r xs else denseWrites j r xs)
      ++ (if j.cw.sc = 0 then [] else scaleWrites j r scs))

/-- DRAIN_COMPLETE writes the finished elements of the oldest drain, in order, into tile memory; its accord is FREE and the drain
is over (R97, R100, R101). -/
def Obligations.DrainCompleteWritesTheAccord : Prop :=
  ∀ (s : State) (t : Pos) (j : DrainJob) (r : List DrainJob), t.ok = true → s.dev.drainLive t = true →
    (s.dev.tile t).tensor.drains = j :: r → j.mode ≠ some 0 → j.mode ≠ some 1 → (s.dev.tile t).bad = [] →
    (finReads (s.dev.tile t).mem j ((s.dev.tile t).acc j.accord).int ((s.dev.tile t).acc j.accord)).all
      (fun z => inMem t.kind z.1 z.2) = true →
    (Claim.drainWrites s t j).all (fun w => inMem t.kind w.1 w.2.length && !copyProtected s.dev t w.1 w.2.length) = true →
    ∃ u, exec (.drainComplete t none) s = .next u ∧ ((u.dev.tile t).acc j.accord).st = .free
      ∧ (u.dev.tile t).tensor.drains = r
      ∧ (u.dev.tile t).mem = (Claim.drainWrites s t j).foldl (fun (m : Mem) w => m.writeN w.1 w.2) (s.dev.tile t).mem

/-- The thread of a vector operation goes on after its instruction, and the vector unit is free. -/
def Claim.VopEnds (s u : State) (t : Pos) (n : Nat) : Prop :=
  (u.dev.tile t).tensor.vop = none ∧ (thread u t n).st = .running ∧ (thread u t n).wait = none
    ∧ (thread u t n).pc = nextPc t.kind (thread s t n).pc

/-- SCOUT_COMPLETE writes the scout's mask and takes its entry from the queue; VOP_COMPLETE writes a vector operation's results,
and of a sort its source indices, and its thread goes on (R110, R150-R152, R214). -/
def Obligations.ScoutAndVectorWorkComplete : Prop :=
  ∀ (s : State) (t : Pos), t.ok = true → (s.dev.tile t).bad = [] →
    let x := s.dev.tile t
    (∀ q r ws n, s.dev.live t = true → x.tensor.queue = q :: r → q.work = .tensor ws n → q.running = true →
      let e := tdesc ws
      let base := 16 * e.maskAddr
      let len := e.m * maskLd e.n
      e.mode = 2 → rangeForeign x q.spec base len = false → copyProtected s.dev t base len = false → inMem t.kind base len = true →
      let cols := (List.range e.n).map (fun l =>
        ((opndB e).line x.mem 0 l 0 e.k).map (fun (_, c, z) => scaledVal (opndB e).fmt z c))
      ∃ u, exec (.scoutComplete t) s = .next u ∧ (u.dev.tile t).tensor.queue = r
        ∧ (u.dev.tile t).mem = x.mem.writeN base ((List.range e.m).flatMap (scoutRow x.mem e cols)))
    ∧ (∀ o, s.dev.drainLive t = true → x.tensor.vop = some o →
      let v := vdesc o.desc
      v.writes.any (fun w => copyProtected s.dev t w.1 w.2) = false →
      (v.tangled = false →
        let res := vopResults { drawOf s.dev t v.stream with step := o.step } v x.mem
        let ws := (v.dst, unelems v.fmt (res.1.map (fun w => vopCode v w % 2 ^ (8 * fmtSize v.fmt))))
          :: (if v.sorts then [(v.b, res.2.flatMap (le 4))] else [])
        ws.all (fun w => inMem t.kind w.1 w.2.length) = true →
        ∃ u, exec (.vopComplete t false) s = .next u ∧ Claim.VopEnds s u t o.slot
          ∧ (u.dev.tile t).mem = ws.foldl (fun (m : Mem) w => m.writeN w.1 w.2) x.mem)
      ∧ (v.tangled = true → inMem t.kind v.dst (v.outs * fmtSize v.fmt) = true → (v.sorts = true → inMem t.kind v.b (4 * v.outs) = true) →
        ∃ u, exec (.vopComplete t false) s = .next u ∧ Claim.VopEnds s u t o.slot))

/-! ## Dataflow events -/

/-- What an event of a tile's dataflow leaves alone: every memory, the jobs, HBM, the map. -/
def Claim.KeepsMemories (s u : State) : Prop :=
  (∀ p : Pos, (u.dev.tile p).mem = (s.dev.tile p).mem ∧ (u.dev.tile p).prog = (s.dev.tile p).prog) ∧ u.dev.jobs = s.dev.jobs
    ∧ u.dev.brim.hbm = s.dev.brim.hbm ∧ u.dev.map = s.dev.map ∧ u.boot = s.boot

/-- TOKEN_ADMIT moves the head token of a channel that serves an operand into the match store when its tag lies in the task's
window and no entry of the operand and tag is held, and leaves everything as it is when not. INSTANCE_FIRE starts the ready
instance nearest its base, of two at one distance that of the lower task id, in a free slot, at its task's entry, with g1 the
tag, g2 the task, g3 to g6 the low words of its operands, or 0, and every other register 0; the entries stay held. -/
def Obligations.TokensEnterAndInstancesFire : Prop :=
  ∀ (s : State) (t : Pos), t.ok = true → s.dev.live t = true →
    let x := s.dev.tile t
    (∀ ch k r z i, ch < 32 → (x.chan ch).toks = k :: r → servesOp x ch = some (z, i) → (x.chan ch).kind = 1 →
      let enters := (k.tag + 65536 - z.base) % 65536 < z.decl.window
        ∧ ∀ e ∈ x.flow.store, ¬ (e.task = z.decl.id ∧ e.op = i ∧ e.tok.tag = k.tag)
      (enters → ∃ u, exec (.tokenAdmit t ch) s = .next u
        ∧ (u.dev.tile t).flow.store = x.flow.store ++ [{ task := z.decl.id, op := i, tok := k }]
        ∧ ((u.dev.tile t).chan ch).toks = r ∧ (∀ m, m ≠ ch → ((u.dev.tile t).chan m).toks = (x.chan m).toks) ∧ Claim.KeepsMemories s u)
      ∧ (¬ enters → exec (.tokenAdmit t ch) s = .next s))
    ∧ (∀ z g n, z ∈ x.flow.tasks → readyOf x z g = true →
      (∀ z' ∈ x.flow.tasks, ∀ g', readyOf x z' g' = true → (z' = z ∧ g' = g) ∨ z.dist g < z'.dist g'
        ∨ (z.dist g = z'.dist g' ∧ z.decl.id < z'.decl.id)) →
      freeSlotOf x z.decl = some n →
      ∃ u, exec (.instanceFire t) s = .next u ∧ (thread u t n).st = .running ∧ (thread u t n).wait = none
        ∧ (thread u t n).task = z.decl.id ∧ (thread u t n).tag = g ∧ (thread u t n).pc = z.decl.entry ∧ (thread u t n).ctx = 0
        ∧ (thread u t n).g 1 = BitVec.ofNat 32 g ∧ (thread u t n).g 2 = BitVec.ofNat 32 z.decl.id
        ∧ (∀ r : Reg, 3 ≤ r.val → r.val < 7 → (thread u t n).g r
            = match (entriesOf x z.decl.id g).find? (fun y => y.op == r.val - 3) with
              | some e => BitVec.ofNat 32 (fieldLe e.tok.data 0 4)
              | none => 0)
        ∧ (∀ r : Reg, 7 ≤ r.val → (thread u t n).g r = 0)
        ∧ (∀ m, m ≠ n → thread u t m = thread s t m) ∧ (u.dev.tile t).flow = x.flow ∧ Claim.KeepsMemories s u)

/-- The state after a steering unit has taken in what its holds have room for (R171, R172). -/
def Claim.filled (s : State) (t : Pos) (n : Nat) : State := on s (steerFill t n)

/-- What the holds have room for: eight data tokens, speculated ones among them, and eight control tokens. -/
def Claim.holds (x : Tile) (z : Steer) : Steer :=
  let heads := fun (ch : Option Nat) (k : Nat) => match ch with
    | some c => (x.chan c).toks.take k
    | none => []
  { z with data := if z.decl.merge then z.data else z.data ++ heads z.decl.in0 (8 - (z.data.length + z.kept.length))
           ctl := z.ctl ++ heads z.decl.ctl (8 - z.ctl.length) }

/-- A unit first takes in what its holds have room for. STEER_FORWARD then forwards one data token with its control token to the
port that the control selects, or drops it there; when the control token of a speculation has come, the speculation is over
first. STEER_SPECULATE sends a provisional copy on the predicted path under a new tag and keeps the token; without a free tag it
waits for one. MERGE_FORWARD takes the head of the selected input, with the control token that selected it, and sends it on. -/
def Obligations.SteeringUnitsForwardTokens : Prop :=
  ∀ (s : State) (t : Pos) (n : Nat) (z0 : Steer), t.ok = true → n < 16 → s.dev.live t = true →
    (s.dev.tile t).flow.steers[n]? = some z0 →
    let s1 := Claim.filled s t n
    let x := s1.dev.tile t
    let z := Claim.holds (s.dev.tile t) z0
    x.flow.steers[n]? = some z
    ∧ (z.decl.merge = false → z.kept = [] → ∀ k c, steerPick s1.dev t z z.data [] = some (k, c) →
      ∃ u, exec (.steerForward t n) s = .next u ∧ Claim.KeepsMemories s u
        ∧ (u.dev.tile t).flow.steers[n]? = some { z with data := z.data.erase k, ctl := z.ctl.erase c, lastPath := ctlPath c }
        ∧ ∀ o, z.decl.out (ctlPath c) = some o → Claim.TokenSent s1 u t o k)
    ∧ (z.decl.merge = false → ∀ g path k c, z.resolvable = some ((g, path, k), c) →
      ∃ u, exec (.steerForward t n) s = .next u ∧ (∀ y ∈ (u.dev.tile t).flow.specTags, y.1 ≠ g)
        ∧ ∀ z', (u.dev.tile t).flow.steers[n]? = some z' → ∀ y ∈ z'.kept, y.1 ≠ g)
    ∧ (z.decl.merge = false → z.predict ≠ 0 → x.flow.scratch = true →
      ∀ k, z.data.find? (fun k => k.prov.isNone && (z.ctlOf k.tag).isNone) = some k →
      (∀ o, z.decl.out z.predicted = some o → portLocal s1.dev t o = true ∧ 0 < (x.port o).credit) →
      (∀ g, freeTag x = some g →
        ∃ u, exec (.steerSpeculate t n) s = .next u ∧ Claim.KeepsMemories s u
          ∧ (u.dev.tile t).flow.steers[n]? = some { z with data := z.data.erase k, kept := z.kept ++ [(g, z.predicted, k)] }
          ∧ (u.dev.tile t).flow.specTags = x.flow.specTags ++ [(g, n)]
          ∧ ∀ o, z.decl.out z.predicted = some o → Claim.TokenSent s1 u t o { k with prov := some g })
      ∧ (freeTag x = none → ∃ u, exec (.steerSpeculate t n) s = .next u ∧ (u.dev.tile t).flow.tagWait = true
          ∧ (u.dev.tile t).flow.steers[n]? = some z ∧ Claim.KeepsMemories s u))
    ∧ (z.decl.merge = true → ∀ c ch k, mergePick s1.dev t z = some (c, some ch, k) →
      let z' := match c with
        | some c => { z with ctl := z.ctl.erase c, lastPath := ctlPath c }
        | none => z
      let taken := on s1 (fun d => dropHeads t (some ch) 1 (d.onTile t (fun x => x.setSteer n z')))
      ∃ u, exec (.mergeForward t n) s = .next u ∧ Claim.KeepsMemories s u ∧ (u.dev.tile t).flow.steers[n]? = some z'
        ∧ ((taken.dev.tile t).chan ch).toks = (x.chan ch).toks.drop 1
        ∧ ∀ o, z.decl.out0 = some o → Claim.TokenSent taken u t o k)

/-- NEIGHBOUR_TOKEN: the oldest token of a channel whose frame checks enters the consumer's channel, in its turn, and leaves the
link (R166). -/
def Obligations.NeighbourTokenCrosses : Prop :=
  ∀ (s : State) (j ci : Nat) (k : NTok) (jb : Job) (c : ChanRec) (a b : Pos), j < 32 →
    s.dev.wafer.links.find? (fun k => k.j == j && k.ci == ci) = some k → s.dev.job? j = some jb → jb.chan ci = some c →
    jb.posOf s.dev.map c.prod = some a → jb.posOf s.dev.map c.cons = some b → takesTraffic s.dev b k.sbit = true →
    k.num = ((s.dev.tile b).chan c.ch).next →
    ∃ u, exec (.neighbourToken j ci true false false) s = .next u
      ∧ ((u.dev.tile b).chan c.ch).toks = ((s.dev.tile b).chan c.ch).toks ++ [k.tok]
      ∧ u.dev.wafer.links = removeFirst (fun k => k.j == j && k.ci == ci) s.dev.wafer.links
      ∧ (∀ p : Pos, (u.dev.tile p).mem = (s.dev.tile p).mem ∧ (p.ix ≠ b.ix → u.dev.tile p = s.dev.tile p))

/-! ## Bounds that stop a job -/

/-- A log record with this code and detail, numbered next, has been appended (R422). -/
def Claim.Logged (s u : State) (code detail : Nat) : Prop :=
  ∃ l ∈ u.dev.host.log, l.code = code ∧ l.detail = detail ∧ l.seq = s.dev.host.nextSeq

/-- A bound that expires while its counters run stops the job: a send that waits for a credit with 0x0203 and the port, an
operation starved of a stream with 0x0203 and the channel plus 0x20, a wait at a sync queue with 0x0206, a wait at a line with
0x0204 (R183, R221, R232). -/
def Obligations.ExpiredBoundsStopTheJob : Prop :=
  ∀ (s : State) (t : Pos), t.ok = true → s.dev.timersRun t = true →
    let x := s.dev.tile t
    (∀ port n y w, port < 32 → stalledSend x port = some (n, y, w) →
      ∃ u, exec (.creditStallTimeout t port) s = .next u ∧ Claim.Faulted s u t n 0x0203 ∧ Claim.Logged s u 0x0203 port)
    ∧ (∀ ch w, ch < 32 → starved x ch = some w →
      ∃ u, exec (.consumerStallTimeout t ch) s = .next u ∧ Claim.Faulted s u t 0 0x0203 ∧ Claim.Logged s u 0x0203 (0x20 + ch))
    ∧ (∀ ts, slotOk t ts = true → (thread s t ts).sqWait.isSome = true → jobIsolated s.dev t = false →
      ∃ u, exec (.sqWaitTimeout t ts) s = .next u ∧ Claim.Faulted s u t ts 0x0206 ∧ Claim.Logged s u 0x0206 0)
    ∧ (∀ ts k w, slotOk t ts = true → (thread s t ts).hbWait = some (k, w) → jobIsolated s.dev t = false →
      (hbGateReg s.dev t).testBit k = false →
      ∃ u, exec (.hbWaitTimeout t ts) s = .next u ∧ Claim.Faulted s u t ts 0x0204 ∧ Claim.Logged s u 0x0204 0)

/-! ## Steps -/

/-- A thread that waited for a crossing of a line goes on after its instruction, and every other thread stays as it is (R227). -/
def Claim.LineReleased (s u : State) (t : Pos) (k : Nat) : Prop :=
  ∀ n, (∀ w, (thread s t n).wait = some (.line k w) → (thread u t n).st = .running ∧ (thread u t n).wait = none
      ∧ (thread u t n).pc = nextPc t.kind (thread s t n).pc ∧ ∀ r : Reg, (thread u t n).g r = (thread s t n).g r)
    ∧ ((∀ w, (thread s t n).wait ≠ some (.line k w)) → thread u t n = thread s t n)

/-- A tile counts a crossing of a line and clears its pending flag; its other lines and its memory stay (R33, R227). -/
def Claim.Counted (s u : State) (t : Pos) (k : Nat) : Prop :=
  (u.dev.tile t).sync.cross.get 0 k = (s.dev.tile t).sync.cross.get 0 k + 1 ∧ (u.dev.tile t).sync.pending.getLsbD k = false
    ∧ (∀ m, m < 32 → m ≠ k → (u.dev.tile t).sync.cross.get 0 m = (s.dev.tile t).sync.cross.get 0 m
        ∧ (u.dev.tile t).sync.pending.getLsbD m = (s.dev.tile t).sync.pending.getLsbD m)
    ∧ (u.dev.tile t).mem = (s.dev.tile t).mem

/-- HATBAND_CROSSING: a line whose gate is open and on which every enrolled tile has arrived crosses at the root: its count goes
up by one, no tile changes; after line 0 its gate is shut and the job stamps the newest epoch. CROSSING_SEEN: a tile that sees a
released crossing counts it, clears its pending flag and lets the waits on the line go on; on line 0 STEP_COUNT, counted without
bound (log 170, the model's choice), goes up, a tile that writes a record starts it and its queues' counts return to 0, and a
queue below a declared count stops the job with 0x0201. -/
def Obligations.StepsCross : Prop :=
  (∀ (s : State) (line k : Nat) (j : Job), line < 32 → lineOwner s.dev line = some (j, k) → mayCross s.dev j k = true →
    ∃ u, exec (.hatbandCrossing line) s = .next u ∧ u.dev.wafer = s.dev.wafer ∧ u.dev.brim.hbm = s.dev.brim.hbm
      ∧ ∃ x ∈ u.dev.jobs, x.id = j.id ∧ x.crossed.get 0 k = j.crossed.get 0 k + 1
          ∧ (∀ m, m ≠ k → x.crossed.get 0 m = j.crossed.get 0 m) ∧ x.conf = j.conf ∧ x.gates = j.gates
          ∧ (k = 0 → x.gate0 = false ∧ x.epoch = s.dev.map.epoch) ∧ (k ≠ 0 → x.gate0 = j.gate0 ∧ x.epoch = j.epoch))
  ∧ (∀ (s : State) (t : Pos) (j : Job) (k : Nat), t.ok = true → k < 32 → s.dev.jobAt t = some j →
    maySee j (s.dev.tile t) k = true → s.dev.map.isDead t = false → s.dev.suspended t = false →
    (k ≠ 0 → ∃ u, exec (.crossingSeen t k) s = .next u ∧ Claim.Counted s u t k ∧ Claim.LineReleased s u t k
        ∧ (u.dev.tile t).step = (s.dev.tile t).step ∧ (∀ p : Pos, p.ix ≠ t.ix → u.dev.tile p = s.dev.tile p)
        ∧ u.dev.jobs = s.dev.jobs ∧ u.dev.brim = s.dev.brim)
    ∧ (k = 0 → shortQueue (s.dev.tile t) (kindSqs t.kind) = none →
        ∃ u, exec (.crossingSeen t 0) s = .next u ∧ Claim.Counted s u t 0
        ∧ (u.dev.tile t).step = (s.dev.tile t).step + 1
        ∧ ((boundEntry j.img (s.dev.tile t).rc).isSome = true → (u.dev.tile t).check.recording = true ∧ Claim.LineReleased s u t 0
            ∧ ∀ q, ((u.dev.tile t).sq q).puts = 0 ∧ ((u.dev.tile t).sq q).gets = 0))
    ∧ (k = 0 → ∀ q, shortQueue (s.dev.tile t) (kindSqs t.kind) = some q → j.running = true →
        ((boundEntry j.img (s.dev.tile t).rc).isSome = true ∨ (s.dev.tile t).net.sigs = []) →
        (s.dev.tile t).faultInfo.getLsbD 31 = false →
        ∃ u, exec (.crossingSeen t 0) s = .next u
          ∧ (u.dev.tile t).faultInfo = BitVec.ofNat 32 (0x0201 + 2 ^ 31)
          ∧ ∃ x, u.dev.jobAt t = some x ∧ x.st = .halted ∧ x.trigger = 0x0201 ∧ x.gate0 = false))

/-- RETENTION_COPY_DONE: the retained range stands in its copy slot at the host. BOUNDARY_RECORD_WRITTEN: the tile's record of
its step is kept and the tile resumes; one that is too long stops the job with 0x0403. STEP_CONFIRM: a step that every tile of
the job has left clean is confirmed (R330-R334). -/
def Obligations.RecordsAndConfirmation : Prop :=
  (∀ (s : State) (t : Pos) (entry : Nat) (j : Job) (r : RetRec) (q : Pos), t.ok = true → s.dev.jobAt t = some j →
    j.img.rets[entry]? = some r → j.posOf s.dev.map r.host = some q → q.ix ≠ t.ix →
    (s.dev.tile t).check.copying.contains entry = true → (s.dev.tile t).check.recording = false → j.running = true →
    s.dev.map.isDead q = false → s.dev.map.isDead t = false → s.dev.suspended t = false → s.dev.suspended q = false →
    (s.dev.tile t).bad = [] → (s.dev.tile q).bad = [] →
    ∃ u, exec (.retentionCopyDone t entry) s = .next u
      ∧ (u.dev.tile q).mem = (s.dev.tile q).mem.writeN (r.hostOff + (s.dev.tile t).step % 2 * r.len)
          ((s.dev.tile t).mem.readN r.off r.len)
      ∧ (u.dev.tile t).mem = (s.dev.tile t).mem ∧ (u.dev.tile t).check.copying.contains entry = false)
  ∧ (∀ (s : State) (t : Pos) (j : Job) (r : RetRec), t.ok = true → s.dev.jobAt t = some j → j.faults = true →
    boundEntry j.img (s.dev.tile t).rc = some r → (s.dev.tile t).check.recording = true →
    (s.dev.tile t).tensor.drains = [] → s.dev.suspended t = false →
    let n := recordLength j (s.dev.tile t)
    let fits := n ≤ 65536 ∧ n + chanRecordSize j.img (s.dev.tile t).rc ≤ r.bndLen
    (fits → (s.dev.tile t).net.sigs = [] →
      ∃ u, exec (.boundaryRecordWritten t) s = .next u ∧ (u.dev.tile t).check.recording = false
        ∧ ∃ x ∈ u.dev.jobs, x.id = j.id ∧ ∃ b ∈ x.bounds, b.rc = (s.dev.tile t).rc ∧ b.step = (s.dev.tile t).step
            ∧ b.tile.mem = (s.dev.tile t).mem)
    ∧ (¬ fits → ∃ u, exec (.boundaryRecordWritten t) s = .next u
        ∧ ∃ x, u.dev.jobAt t = some x ∧ x.st = .halted ∧ x.trigger = 0x0403))
  ∧ (∀ (s : State) (k : Nat) (j : Job), k < 32 → s.dev.job? k = some j → j.running = true → j.conf < j.crossed.get 0 0 →
    (∀ p ∈ j.places s.dev.map, s.dev.map.isDead p = true ∨ cleanFor (s.dev.tile p) j.conf = true) →
    ∃ u, exec (.stepConfirm k) s = .next u ∧ u.dev.wafer = s.dev.wafer
      ∧ ∃ x, u.dev.job? k = some x ∧ x.conf = j.conf + 1 ∧ x.crossed = j.crossed ∧ x.st = j.st)

/-! ## The mesh -/

/-- The next router under dimension order, east or west first, with the side on which a packet enters it (R244). -/
def Claim.nextHop (p q : Pos) : Pos × Nat :=
  if p.px < q.px then (⟨p.px + 1, p.py⟩, 3) else if q.px < p.px then (⟨p.px - 1, p.py⟩, 2)
  else if q.py < p.py then (⟨p.px, p.py - 1⟩, 1) else (⟨p.px, p.py + 1⟩, 0)

/-- The output of a router serves this packet next, in this lane, from this input, with the round's rest (R247). -/
def Claim.Serves (s : State) (p : Pos) (out vl : Nat) (f : Flight) (side left : Nat) : Prop :=
  portGrant s.dev p out = some (vl, f, side, left)

/-- ROUTER_FORWARD: a packet whose CRC fails, or of a released epoch, leaves the mesh and is counted. One that arrived whole goes
one router on in dimension order, or out where it has arrived, with a hop more, when the output serves it next: VL3 before VL1
before the others, VL0 and VL2 in turn; it waits otherwise. A packet at a router that does not work is lost; one that the tables
in force lead into such a router is discarded and counted. EGRESS_PORT_TILE: transit goes out with the target of its route
prefix; a packet to the host is held at its tether port until its step is confirmed (R178, R243, R244, R247, R267, R285). -/
def Obligations.RoutersForward : Prop :=
  (∀ (s : State) (id : Nat) (f : Flight) (p : Pos) (side : Nat), s.dev.flight? id = some f → f.place = .router p side →
    (routerWorks s.dev p = false → ∀ crc, exec (.routerForward id crc) s = .next (on s (Dev.dropFlight id)))
    ∧ (routerWorks s.dev p = true →
      (∃ u, exec (.routerForward id false) s = .next u ∧ u.dev.flight? id = none ∧ u.dev.tile p = Tile.netCount 5 (s.dev.tile p))
      ∧ (stale s.dev f.pkt = true → ∃ u, exec (.routerForward id true) s = .next u ∧ u.dev.flight? id = none
          ∧ u.dev.tile p = Tile.netCount 7 (s.dev.tile p))
      ∧ ∀ q, p.ok = true → q.ok = true → stale s.dev f.pkt = false → f.pkt.ty ≠ .mcast → f.pkt.dst = .phys q →
          malformed f.pkt = false → (s.dev.map.copy f.pkt.epoch).turns.get [] p.ix = [] →
          let k := { f.pkt with hops := min 1023 (f.pkt.hops + 1) }
          let out := dimOrder p q
          let next := if p = q then Place.dest p else .router (Claim.nextHop p q).1 (Claim.nextHop p q).2
          (p = q ∨ routerWorks s.dev (Claim.nextHop p q).1 = true →
            (∀ vl sd left, Claim.Serves s p out vl f sd left → ∃ u, exec (.routerForward id true) s = .next u
              ∧ u.dev.flight? id = some { f with pkt := k, place := next }
              ∧ (u.dev.arb p out).rounds.get (4, 0) vl = (sd, left) ∧ u.dev.tile p = s.dev.tile p)
            ∧ (∀ vl g sd left, Claim.Serves s p out vl g sd left → g.id ≠ id → exec (.routerForward id true) s = .next s))
          ∧ (p ≠ q → routerWorks s.dev (Claim.nextHop p q).1 = false → f.pkt.epoch = s.dev.map.epoch →
            ∃ u, exec (.routerForward id true) s = .next u ∧ u.dev.flight? id = none
              ∧ u.dev.tile p = Tile.netCount 6 (s.dev.tile p))))
  ∧ (∀ (d : Dev) (p : Pos) (out : Nat),
    (∀ g, laneGrant d p out 3 = some g → portGrant d p out = some (3, g))
    ∧ (∀ g, laneGrant d p out 3 = none → laneGrant d p out 1 = some g → portGrant d p out = some (1, g))
    ∧ (∀ g h, laneGrant d p out 3 = none → laneGrant d p out 1 = none → laneGrant d p out 0 = some g →
        laneGrant d p out 2 = some h → portGrant d p out = some (if (d.arb p out).last2 then (0, g) else (2, h))))
  ∧ (∀ (s : State) (id n : Nat) (f : Flight), n < 50 → s.dev.flight? id = some f → f.place = .port (portId n) →
    stale s.dev f.pkt = false →
    (∀ fjob fhops target, f.transit = some (fjob, fhops) → f.pkt.pfx = some target →
      exec (.egressPortTile id) s = .next (on s (fun d =>
        fabricOut n fjob fhops { f.pkt with dst := target, pfx := none } (d.dropFlight id))))
    ∧ (∀ j, f.transit = none → f.pkt.xdev = false → 48 ≤ n → s.dev.job? f.pkt.jslot = some j →
      bufferRoom s.dev (portId n) (HeldKind.packet f.pkt).bytes = true →
      ∃ u, exec (.egressPortTile id) s = .next u ∧ u.dev.flight? id = none
        ∧ ∃ h, (u.dev.port (portId n)).held = (s.dev.port (portId n)).held ++ [h] ∧ h.kind = .packet f.pkt ∧ h.j = j.slot
            ∧ h.step = j.stepOf f.pkt.sbit))

/-- A packet of a type is at the destination interface of a tile and is taken (R242). -/
def Claim.Arrives (s : State) (id : Nat) (p : Pos) (x : Flight) (ty : PType) : Prop :=
  s.dev.flight? id = some x ∧ x.place = .dest p ∧ x.pkt.ty = ty ∧ verdict s.dev p x.pkt (ty == .signal) = .take

/-- A tile has answered a packet: the answer echoes number and attempt and stands in the tile's own router (R241, R255). -/
def Claim.Answered (u : State) (p : Pos) (k : Packet) (ty : PType) (tag : Nat) (data : List Byte) : Prop :=
  ∃ f ∈ u.dev.wafer.flights, f.place = .router p 4 ∧ f.pkt.ty = ty ∧ f.pkt.seq = k.seq ∧ f.pkt.attempt = k.attempt
    ∧ f.pkt.tag = tag ∧ f.pkt.data = data ∧ f.pkt.src = .phys p ∧ (k.xdev = false → f.pkt.dst = k.src)

/-- A completion counter gains units, saturating (R209). -/
def Claim.Gained (s u : State) (p : Pos) (c units : Nat) : Prop :=
  (u.dev.tile p).net.cc.get 0 c = BitVec.ofNat 32 (min (((s.dev.tile p).net.cc.get 0 c).toNat + units) 0xFFFFFFFF)

/-- No word of a range holds a double-bit error; none that it covers only in part (R76). -/
def Claim.Sound (t : Tile) (a n : Nat) : Prop := (wordsOf a n).any t.bad.contains = false
def Claim.SoundEdges (t : Tile) (a n : Nat) : Prop := (partWords a n).any t.bad.contains = false

/-- No memory of a tile changes. -/
def Claim.SameMemories (s u : State) : Prop := ∀ q, (u.dev.tile q).mem = (s.dev.tile q).mem

/-- A write of a packet at its target: a duplicate is acknowledged again, a bad range is refused, and the data is written,
counted and acknowledged otherwise (R250, R252, R255, R279). -/
def Claim.PacketWrites : Prop :=
  ∀ (s : State) (id : Nat) (p : Pos) (x : Flight),
    let t := s.dev.tile p
    let k := x.pkt
    let a := putOff k
    let n := k.data.length
    (Claim.Arrives s id p x .put →
      (isDup t k = false → windowAt t a n = none → inMem p.kind a n = true → remoteHeld s.dev p a n = false →
        Claim.SoundEdges t a n →
        ∃ u, exec (.putPacket id) s = .next u ∧ (u.dev.tile p).mem = t.mem.writeN a k.data
          ∧ (∀ q : Pos, q.ix ≠ p.ix → (u.dev.tile q).mem = (s.dev.tile q).mem) ∧ Claim.Answered u p k .ack 1 []
          ∧ (u.dev.tile p).net.filter.contains (k.src, k.seq, k.xdev) = true
          ∧ (putDce k = true → Claim.Gained s u p (putDcc k) (n / 16)))
      ∧ (isDup t k = true → ∃ u, exec (.putPacket id) s = .next u ∧ Claim.SameMemories s u
          ∧ Claim.Answered u p k .ack 1 [] ∧ (u.dev.tile p).net.cc = t.net.cc)
      ∧ (∀ i q y, isDup t k = false → inMem p.kind a n = true → windowAt t a n = some (i, q) → isSubmission s.dev q k = some y →
        ∃ u, exec (.putPacket id) s = .next u ∧ (u.dev.tile p).mem = t.mem.writeN (q.entry q.next) k.data
          ∧ Claim.Answered u p k .ack 1 [])
      ∧ (∀ i q, isDup t k = false → inMem p.kind a n = true → windowAt t a n = some (i, q) → isSubmission s.dev q k = none →
        ∃ u, exec (.putPacket id) s = .next u ∧ Claim.SameMemories s u ∧ Claim.Answered u p k .nack 0x0407 [])
      ∧ (isDup t k = false → inMem p.kind a n = false → ∃ u, exec (.putPacket id) s = .next u
          ∧ Claim.SameMemories s u ∧ Claim.Answered u p k .nack 0x0305 []))
    ∧ (Claim.Arrives s id p x .radd →
      (isDup t k = true → ∃ u, exec (.raddPacket id) s = .next u ∧ Claim.SameMemories s u ∧ Claim.Answered u p k .ack 3 [])
      ∧ (isDup t k = false → p.kind = 0 → rangeNack s.dev p a n = none → remoteHeld s.dev p a n = false → Claim.Sound t a n →
        let fmt := bits (fieldLe k.sub 0 1) 0 4
        let out := unelems fmt (tileLongSums s.dev p (fieldLe k.sub 1 1) fmt k.long a (elems fmt (t.mem.readN a n))
          ((elems fmt k.data).map (decodeFmt fmt)))
        out.length = n →
        ∃ u, exec (.raddPacket id) s = .next u ∧ (u.dev.tile p).mem = t.mem.writeN a out ∧ Claim.Answered u p k .ack 3 [])
      ∧ (isDup t k = false → p.kind ≠ 0 → ∃ u, exec (.raddPacket id) s = .next u ∧ Claim.SameMemories s u
          ∧ Claim.Answered u p k .nack 0x0305 []))
    ∧ (s.dev.flight? id = some x → x.place = .own p → k.ty = .mcast → verdict s.dev p k false = .take → isDup t k = false →
      let b := bits (fieldLe k.sub 12 4) 0 21
      rangeNack s.dev p b n = none → remoteHeld s.dev p b n = false → Claim.SoundEdges t b n →
      ∃ u, exec (.mcastPacket id) s = .next u ∧ (u.dev.tile p).mem = t.mem.writeN b k.data
        ∧ (u.dev.tile p).net.filter.contains (k.src, k.seq, k.xdev) = true
        ∧ (bit (fieldLe k.sub 12 4) 25 = true → Claim.Gained s u p (bits (fieldLe k.sub 12 4) 21 4) (n / 16)))
    ∧ (∀ c pxe south, s.dev.flight? id = some x → x.place = .dest p → k.ty = .mcast → stale s.dev k = false →
      treeBox k = some (c, pxe, south) →
      ∃ u, exec (.mcastPacket id) s = .next u ∧ Claim.SameMemories s u
        ∧ (∀ b ∈ Sys2Proof.Machine.branches c pxe south p, routerWorks s.dev b.1 = true →
            ∃ f ∈ u.dev.wafer.flights, f.place = .router b.1 b.2 ∧ f.pkt = k)
        ∧ (inRect s.dev p k = true → ∃ f ∈ u.dev.wafer.flights, f.place = .own p ∧ f.pkt = k))

/-- A value held as a child of node (L, j) of a reduction (R263). -/
def Claim.child (v : RedVal) (level j : Nat) (right : Bool) : RedChild :=
  { entry := v.entry, tag := v.tag, element := v.element, level := level, j := j, right := right, step := v.step, data := v.data }

/-- The packets that read, that signal and that enter a channel or a node (R231, R252, R254, R259, R263, R265, R289). -/
def Claim.PacketEnters : Prop :=
  ∀ (s : State) (id : Nat) (p : Pos) (x : Flight),
    let t := s.dev.tile p
    let k := x.pkt
    (Claim.Arrives s id p x .getReq →
      (rangeNack s.dev p (putOff k) (16 * k.len) = none → rangeForeign t none (putOff k) (16 * k.len) = false →
        Claim.Sound t (putOff k) (16 * k.len) →
        ∃ u, exec (.getReq id) s = .next u ∧ Claim.SameMemories s u
          ∧ Claim.Answered u p k .getResp 0 (t.mem.readN (putOff k) (16 * k.len)))
      ∧ (∀ c, rangeNack s.dev p (putOff k) (16 * k.len) = some c → ∃ u, exec (.getReq id) s = .next u
          ∧ Claim.SameMemories s u ∧ Claim.Answered u p k .nack c []))
    ∧ (Claim.Arrives s id p x .signal →
      let q := bits k.tag 0 6
      let v : Word := BitVec.ofNat 32 (fieldLe k.data 0 4)
      let h : HeldSig := { count := fieldLe k.data 4 4, value := v, queue := q, counter := bits k.tag 6 4, sbit := k.sbit, pkt := k }
      (kindSqs p.kind ≤ q → ∃ u, exec (.signalPacket id) s = .next u ∧ Claim.Answered u p k .nack 0x0305 [])
      ∧ (q < kindSqs p.kind → isDup t k = false →
        (h.ready t = true → (t.sq q).refuses = false → ∃ u, exec (.signalPacket id) s = .next u
          ∧ ((t.sq q).waiters = [] → ((u.dev.tile p).sq q).toks = (t.sq q).toks ++ [v])
          ∧ (∀ n rd l, (t.sq q).waiters = (n, rd) :: l → (thread u p n).g rd = (if rd.val = 0 then 0 else v)
              ∧ (thread u p n).st = .running ∧ ((u.dev.tile p).sq q).waiters = l)
          ∧ Claim.Answered u p k .signalResp 0 [])
        ∧ (h.ready t = false → ∃ u, exec (.signalPacket id) s = .next u ∧ (u.dev.tile p).net.sigs = t.net.sigs ++ [h]
          ∧ (u.dev.tile p).sync = t.sync ∧ Claim.Answered u p k .signalResp 1 [])))
    ∧ (∀ j, Claim.Arrives s id p x .token → s.dev.jobAt p = some j → deepOf s.dev p j k = none →
      let c := bits (fieldLe k.data 4 1) 0 5
      ((t.chan c).next = k.seq → ∃ u, exec (.tokenPacket id) s = .next u
        ∧ ((u.dev.tile p).chan c).toks = (t.chan c).toks ++ [tokenOf k.data]
        ∧ ((u.dev.tile p).chan c).next = (k.seq + 1) % 4096 ∧ Claim.Answered u p k .ack 5 [])
      ∧ ((t.chan c).next ≠ k.seq → passed (t.chan c).next k.seq = true → ∃ u, exec (.tokenPacket id) s = .next u
        ∧ (u.dev.tile p).flow = t.flow ∧ Claim.Answered u p k .ack 5 [])
      ∧ ((t.chan c).next ≠ k.seq → passed (t.chan c).next k.seq = false → exec (.tokenPacket id) s = .next s))
    ∧ (∀ j i q, Claim.Arrives s id p x .token → s.dev.jobAt p = some j → deepOf s.dev p j k = some (i, q) → q.next = k.seq →
      ∃ u, exec (.tokenPacket id) s = .next u ∧ Claim.Answered u p k .ack 5 []
        ∧ (i < t.deeps.length → (u.dev.tile p).deeps[i]? = some { q with toks := q.toks ++ [tokenOf k.data], next := (k.seq + 1) % 4096 })
        ∧ (u.dev.tile p).mem = t.mem.writeN (q.entry q.toks.length) (padTo 80 (tokenBytes (tokenOf k.data) 0)))
    ∧ (∀ j e, Claim.Arrives s id p x .red → s.dev.jobAt p = some j → j.img.reds[k.red]? = some e → isDup t k = false →
      let h := fieldLe k.sub 0 4
      let v : RedVal := { entry := k.red, tag := k.tag, element := bits h 0 24, step := fieldLe k.sub 4 4, data := k.data }
      let fresh := t.redNew v.entry v.tag v.element (bits h 24 6) (bits (fieldLe k.sub 8 8) 0 35) true
      (bit h 30 = true → rangeNack s.dev p (v.range e).1 (v.range e).2 = none →
        ∃ u, exec (.redPacket id) s = .next u ∧ Claim.Answered u p k .ack 13 [])
      ∧ (∀ c, bit h 30 = true → rangeNack s.dev p (v.range e).1 (v.range e).2 = some c →
        ∃ u, exec (.redPacket id) s = .next u ∧ Claim.SameMemories s u ∧ Claim.Answered u p k .nack c [])
      ∧ (bit h 30 = false → fresh = true → t.net.red.length < 32 → ∃ u, exec (.redPacket id) s = .next u
        ∧ Claim.Answered u p k .ack 13 []
        ∧ (u.dev.tile p).net.red = t.net.red ++ [Claim.child v (bits h 24 6) (bits (fieldLe k.sub 8 8) 0 35) true])
      ∧ (bit h 30 = false → fresh = false → ∃ u, exec (.redPacket id) s = .next u ∧ Claim.Answered u p k .ack 13 [])
      ∧ (bit h 30 = false → fresh = true → 32 ≤ t.net.red.length →
          exec (.redPacket id) s = .next s ∧ s.dev.redWaits p = true))
    ∧ (s.dev.flight? id = some x → x.place = .dest p → k.vl = 3 → stale s.dev k = false →
      (k.ty = .mgmt → exec (.mgmtPacket id) s = .next (on s (fun d => d.dropFlight id)))
      ∧ (k.ty = .scan → exec (.scanPacket id) s = .next (on s (fun d => d.dropFlight id))))

/-- PUT_PACKET, RADD_PACKET and MCAST_PACKET write tile memory, and a duplicate of a PUT or a RADD is acknowledged again and
writes none; MCAST_PACKET at a router of the tree sends the packet on into every branch. GET_REQ reads memory and answers the data.
SIGNAL_PACKET appends, wakes a waiting thread, or is held. TOKEN_PACKET enters its channel or its deep FIFO in send order and waits
before its turn. RED_PACKET is acknowledged, a right child without its sibling held in its node, or waits when 32 are held, which
RED_STATUS.full shows. MGMT and SCAN packets leave the mesh at their destination. -/
def Obligations.PacketsTakeEffect : Prop := Claim.PacketWrites ∧ Claim.PacketEnters

/-- A packet of a tile has been answered for good: its number is free, or quarantined when it was ever reissued; where no packet
waited for a number and no signal was held, its entry is gone and no other one changes (R251, R257). -/
def Claim.Done (s u : State) (p : Pos) (o : Out) : Prop :=
  ((s.dev.tile p).net.unsent = [] → (s.dev.tile p).net.sigs = [] →
      (u.dev.tile p).net.outs = removeFirst (fun x => x == o) (s.dev.tile p).net.outs)
    ∧ (u.dev.tile p).net.quarantine = (if o.reissued then (s.dev.tile p).net.quarantine ++ [o.pkt.seq]
        else (s.dev.tile p).net.quarantine)

/-- A deep FIFO that has gained credits, which it returns to its producer (R289). -/
def Claim.credited (q : Deep) (g count : Nat) : Deep :=
  { q with credit := q.credit + g, lastCredit := count, returned := (q.returned + g) % 65536, reps := 2 }

/-- ACK, GET_RESP, SIGNAL_RESP, NOTICE and NACK end the packet that they match: an ACK raises the local counter, that of a
multicast once per tile; an ACK of a TOKEN takes it from the send buffer; GET_RESP writes its data; NACK raises its code as a
fault. CREDIT adds what its cumulative count has gained; an answer that matches no packet is late: it is counted, logged once and
changes nothing else (R250-R259). -/
def Obligations.AnswersEndTheirPackets : Prop :=
  ∀ (s : State) (id : Nat) (p : Pos) (x : Flight),
    let t := s.dev.tile p
    let k := x.pkt
    let late := fun (d : Dev) => lateArrival p (d.dropFlight id)
    (∀ o, Claim.Arrives s id p x .ack → k.pfx = none → k.tag ≠ 5 → matching t k = some o → codeOf o.pkt.ty = k.tag →
        ∃ u, exec (.ack id) s = .next u ∧ Claim.Done s u p o ∧ Claim.SameMemories s u
          ∧ (∀ c, o.lcc = some c → Claim.Gained s u p c (if o.pkt.ty = .mcast then o.units * fieldLe k.data 0 4 else o.units)))
    ∧ (∀ o, Claim.Arrives s id p x .ack → k.pfx = none → k.tag = 5 →
        t.net.outs.find? (fun o => o.pkt.ty == .token && o.pkt.seq == k.seq && o.pkt.attempt == k.attempt && o.pkt.tag == k.red) = some o →
        ∃ u, exec (.ack id) s = .next u ∧ Claim.SameMemories s u
          ∧ (u.dev.tile p).net.outs = removeFirst (fun y => y == o) t.net.outs)
    ∧ (matching t k = none →
        (Claim.Arrives s id p x .ack → k.pfx = none → k.tag ≠ 5 → exec (.ack id) s = .next (on s late))
        ∧ (Claim.Arrives s id p x .getResp → exec (.getResp id) s = .next (on s late))
        ∧ (Claim.Arrives s id p x .signalResp → exec (.signalResp id) s = .next (on s late))
        ∧ (Claim.Arrives s id p x .nack → exec (.nack id) s = .next (on s late)))
    ∧ (∀ o, Claim.Arrives s id p x .getResp → matching t k = some o → o.pkt.ty = .getReq →
        remoteHeld s.dev p o.local_ k.data.length = false → Claim.SoundEdges t o.local_ k.data.length →
        ∃ u, exec (.getResp id) s = .next u ∧ Claim.Done s u p o ∧ (u.dev.tile p).mem = t.mem.writeN o.local_ k.data
          ∧ (∀ c, o.lcc = some c → Claim.Gained s u p c (k.data.length / 16)))
    ∧ (∀ o, Claim.Arrives s id p x .signalResp → matching t k = some o → o.pkt.ty = .signal → o.timer = true →
      (bit k.tag 0 = false → ∃ u, exec (.signalResp id) s = .next u ∧ Claim.Done s u p o
        ∧ (u.dev.tile p).sync.sigOut = t.sync.sigOut - 1)
      ∧ (bit k.tag 0 = true → ∃ u, exec (.signalResp id) s = .next u ∧ (u.dev.tile p).sync.sigOut = t.sync.sigOut
          ∧ (u.dev.tile p).net.outs = modifyFirst (fun y => y == o) (fun y => { y with timer := false }) t.net.outs))
    ∧ (∀ o, Claim.Arrives s id p x .notice → isDup t k = false →
      t.net.outs.find? (fun y => y.pkt.ty == .signal && y.pkt.seq == k.tag % 4096) = some o →
      ∃ u, exec (.notice id) s = .next u ∧ Claim.Done s u p o ∧ (u.dev.tile p).sync.sigOut = t.sync.sigOut - 1
        ∧ Claim.Answered u p k .ack 9 [])
    ∧ (Claim.Arrives s id p x .credit → ¬ (p.kind = 2 ∧ 8 ≤ bits k.red 0 5) →
      let n := bits k.red 0 5
      let g := (k.tag + 65536 - (t.port n).lastCredit) % 65536
      (0 < g → g < 32768 → ∃ u, exec (.creditPacket id) s = .next u
        ∧ ((u.dev.tile p).port n).credit = min 0xFFFF ((t.port n).credit + g)
        ∧ ((u.dev.tile p).port n).lastCredit = k.tag % 65536)
      ∧ (g = 0 ∨ 32768 ≤ g → exec (.creditPacket id) s = .next (on s (fun d => d.dropFlight id))))
    ∧ (∀ q, Claim.Arrives s id p x .credit → p.kind = 2 → 8 ≤ bits k.red 0 5 → t.deeps[bits k.red 0 5 - 8]? = some q →
      let g := (k.tag + 65536 - q.lastCredit) % 65536
      0 < g → g < 32768 → ∃ u, exec (.creditPacket id) s = .next u
        ∧ (u.dev.tile p).deeps[bits k.red 0 5 - 8]? = some (Claim.credited q g (k.tag % 65536)))
    ∧ (∀ j o, Claim.Arrives s id p x .nack → matching t k = some o → s.dev.jobAt p = some j → j.faults = true →
      ∃ u, exec (.nack id) s = .next u ∧ Claim.Done s u p o
        ∧ ∃ y, u.dev.jobAt p = some y ∧ y.st = .halted ∧ y.trigger = k.tag)

/-- The timer of a waiting packet of a tile: its own, or that of a token of an output port (R256, R259). -/
def Claim.TimerOf (s : State) (t : Pos) (tm : Timer) (o : Out) : Prop :=
  (tm = .tile t o.pkt.seq ∧ (s.dev.tile t).net.outs.find? (fun y => y.timer && y.pkt.ty != .token && y.pkt.seq == o.pkt.seq) = some o)
    ∨ (tm = .token t o.pkt.tag o.pkt.seq ∧ o.pkt.tag < 32
      ∧ (s.dev.tile t).net.outs.find? (fun y => y.pkt.ty == .token && y.pkt.tag == o.pkt.tag && y.pkt.seq == o.pkt.seq) = some o)

/-- REMOTE_TIMEOUT sends a tile's packet again with the next attempt, or gives it up after attempt 3 with 0x0307; SEQ_QUARANTINE_END
frees a number of a tile, of an output port's tokens or of a port tile; CREDIT_REPEAT sends the latest count again.
TABLE_WRITE_DONE switches to the other copy of the tables, whose epoch bit is the other one; EPOCH_CHANGE_TIMER moves a job that
has not crossed; EPOCH_RELEASE releases the old copy once every tile of a job stamps the new epoch (R251, R256, R257, R259,
R267). -/
def Obligations.MeshTimersAndTables : Prop :=
  (∀ (s : State) (t : Pos) (tm : Timer) (j : Job) (o : Out), t.ok = true → s.dev.timersRun t = true → s.dev.jobAt t = some j →
    o.pkt.seq < 4096 → Claim.TimerOf s t tm o →
    (o.pkt.attempt < 3 → (freshData (s.dev.tile t) o).isSome = true → ∃ u, exec (.remoteTimeout tm) s = .next u
      ∧ Claim.SameMemories s u
      ∧ ∃ y, (u.dev.tile t).net.outs = modifyFirst (fun x => x == o) (fun x => { x with pkt := y, reissued := true }) (s.dev.tile t).net.outs
          ∧ y.attempt = o.pkt.attempt + 1 ∧ y.seq = o.pkt.seq
          ∧ ∃ f ∈ u.dev.wafer.flights, f.pkt = y ∧ f.place = .router t 4)
    ∧ (3 ≤ o.pkt.attempt → j.faults = true → ∃ u, exec (.remoteTimeout tm) s = .next u
        ∧ (u.dev.tile t).net.outs = removeFirst (fun x => x == o) (s.dev.tile t).net.outs
        ∧ ∃ x, u.dev.jobAt t = some x ∧ x.st = .halted ∧ x.trigger = 0x0307))
  ∧ (∀ (s : State) (t : Pos) (seq : Nat), t.ok = true → seq < 4096 →
    (s.dev.timersRun t = true → (s.dev.tile t).net.quarantine.contains seq = true →
      ∃ u, exec (.seqQuarantineEnd (.tile t) seq) s = .next u ∧ (u.dev.tile t).net.quarantine.contains seq = false
        ∧ ((s.dev.tile t).net.unsent = [] → (u.dev.tile t).net.outs = (s.dev.tile t).net.outs))
    ∧ (∀ port, port < 32 → s.dev.timersRun t = true → ((s.dev.tile t).port port).quarantine.contains seq = true →
      ∃ u, exec (.seqQuarantineEnd (.token t port) seq) s = .next u
        ∧ ((u.dev.tile t).port port).quarantine.contains seq = false ∧ (u.dev.tile t).net = (s.dev.tile t).net)
    ∧ (∀ pid, pid < 146 → s.dev.map.holdTimers = false → ∃ u, exec (.seqQuarantineEnd (.port pid) seq) s = .next u
        ∧ (u.dev.port pid).quarantine = (s.dev.port pid).quarantine.filter (· != seq)
        ∧ (u.dev.port pid).outs = (s.dev.port pid).outs))
  ∧ (∀ (s : State) (t q : Pos) (j : Job) (ch ci n : Nat) (r : ChanRec), t.ok = true → ch < 32 → s.dev.jobAt t = some j →
    s.dev.timersRun t = true → ((s.dev.tile t).chan ch).ci = some ci → j.chan ci = some r → r.depth ≤ 64 →
    j.posOf s.dev.map r.prod = some q → ((s.dev.tile t).chan ch).reps = n + 1 →
    ∃ u, exec (.creditRepeat t ch) s = .next u ∧ ((u.dev.tile t).chan ch).reps = n
      ∧ ∃ f ∈ u.dev.wafer.flights, f.pkt.ty = .credit ∧ f.pkt.dst = s.dev.addrOf q ∧ f.pkt.red = r.port
          ∧ f.pkt.tag = ((s.dev.tile t).chan ch).returned % 65536)
  ∧ (∀ (s : State) (c : Change), s.dev.map.change = some c →
      (∀ turns, c.st = .writing → turnsOk s.dev.map turns = true → ∃ u, exec (.tableWriteDone turns) s = .next u
        ∧ u.dev.map.epoch = (!s.dev.map.epoch) ∧ u.dev.map.oldTurns = s.dev.map.turns ∧ u.dev.map.oldSpares = s.dev.map.spares
        ∧ u.dev.map.turns = turnTab turns ∧ u.dev.map.spares = s.dev.map.rebuilt ∧ u.dev.map.released = false
        ∧ ∃ x, u.dev.map.change = some x ∧ x.st = .armed)
      ∧ (∀ j, j < 32 → c.st = .armed → c.left.contains j = true → ∃ u, exec (.epochChangeTimer j) s = .next u
          ∧ u.dev.map.epoch = s.dev.map.epoch ∧ (∃ x, u.dev.map.change = some x ∧ x.left = c.left.filter (· != j))
          ∧ ∀ y ∈ u.dev.wafer.tiles, y.2.net.jslot = some j → y.2.net.epoch = s.dev.map.epoch)
      ∧ (c.st = .armed → c.left = [] → s.dev.wafer.tiles.all (fun x => x.2.net.jslot.isNone || x.2.net.epoch == s.dev.map.epoch) = true →
          ∃ u, exec .epochRelease s = .next u ∧ u.dev.map.released = true ∧ u.dev.map.epoch = s.dev.map.epoch
            ∧ u.dev.map.change = s.dev.map.waitingChanges.head? ∧ u.dev.map.waitingChanges = s.dev.map.waitingChanges.drop 1
            ∧ u.dev.wafer = s.dev.wafer))

/-! ## DMA and deep channels -/

/-- A piece of a run has come to a state. -/
def Claim.Piece (u : State) (eng id k : Nat) (st : PieceSt) : Prop :=
  ∃ y, u.dev.run? eng id = some y ∧ (y.pieces[k]?).map (·.st) = some st

/-- The parts of HBM that a GATHER record names: format, scales, blocks, and where index, data and scales lie (R144). -/
structure Claim.Record where
  fmt : Nat
  sc : Nat
  nblk : Nat
  index : Nat
  data : Nat
  scale : Nat

/-- The record that a GATHER names. -/
def Claim.record (s : State) (x : DDesc) : Claim.Record :=
  let h := s.dev.brim.hbmRead x.src 64
  { fmt := bits (fieldLe h 0 1) 0 4, sc := fieldLe h 1 1, nblk := fieldLe h 12 4
    index := fieldLe h 16 8, data := fieldLe h 24 8, scale := fieldLe h 32 8 }

/-- What a GATHER reads: the record, as much of its index as it needs, and the blocks it keeps with their scales (R145, R284). -/
def Claim.gatherReads (s : State) (x : DDesc) : List (Nat × Nat) :=
  let h := Claim.record s x
  let bs := 256 * fmtSize h.fmt
  let plan := gatherPlan s.dev x h.index h.nblk
  [(x.src, 64), (x.src + h.index, 8 * plan.1)] ++ plan.2.flatMap (fun i =>
    (x.src + h.data + bs * i, bs) :: (if h.sc = 1 then [(x.src + h.scale + 16 * i, 16)] else []))

/-- The window that a GATHER makes, and its writes at the tile (R145, R284). -/
def Claim.window (s : State) (x : DDesc) : Gathered :=
  let h := Claim.record s x
  gather s.dev x h.fmt h.sc h.nblk h.index h.data h.scale
def Claim.windowWrites (s : State) (x : DDesc) (off : Nat) : List (Nat × List Byte) :=
  let h := Claim.record s x
  gatherWrites x off (256 * fmtSize h.fmt) h.sc (Claim.window s x)

/-- Every chunk of a range's bytes is on its way from a port tile, as a packet of a piece. -/
def Claim.Carried (u : State) (pid : Nat) (key : Nat × Nat) (ty : PType) (bs : List Byte) : Prop :=
  ∀ c ∈ chunks (bs.length / 16) 16, ∃ o ∈ (u.dev.port pid).outs, o.2 = key ∧ o.1.pkt.ty = ty ∧ o.1.pkt.src = .port pid
    ∧ o.1.pkt.data = slice bs (16 * c.1) (16 * c.2)

/-- DMA_PIECE_DONE on a piece (R281, R282, R284, R285, R288, R338). -/
def Claim.PiecesMove : Prop :=
  ∀ (s : State) (eng id k line : Nat) (ecc : Ecc) (r : DmaRun) (p : DmaPiece) (j : Job), eng < 96 →
    s.dev.run? eng id = some r → r.pieces[k]? = some p → s.dev.job? r.j = some j → j.running = true →
    let x := ddesc r.words
    let free := fun (pid : Nat) => (s.dev.port pid).room (cdiv (p.len / 16) 16)
    (p.st = .moving → pieceQuiet s.dev id k = true → ∃ u, exec (.dmaPieceDone eng id k line ecc) s = .next u
        ∧ Claim.Piece u eng id k .ended ∧ u.dev.brim.ports = s.dev.brim.ports)
    ∧ (∀ t, p.st = .todo → x.op = 0 → ecc ≠ .uncorrectable → poisonedIn s.dev p.src p.len = false → runTile s.dev j r = some t →
        meetsHeld s.dev j p.src p.len = false → free (portOf p.src) = true →
        ∃ u, exec (.dmaPieceDone eng id k line ecc) s = .next u ∧ u.dev.brim.hbm = s.dev.brim.hbm ∧ Claim.Piece u eng id k .moving
          ∧ Claim.Carried u (portOf p.src) (r.id, k) .put (s.dev.brim.hbmRead p.src p.len))
    ∧ (∀ t, p.st = .todo → x.op = 1 → runTile s.dev j r = some t → bufferRoom s.dev (portOf p.dst) p.len = true →
        free (portOf p.dst) = true →
        ∃ u, exec (.dmaPieceDone eng id k line ecc) s = .next u ∧ Claim.Piece u eng id k .moving
          ∧ ∀ c ∈ chunks (p.len / 16) 16, ∃ o ∈ (u.dev.port (portOf p.dst)).outs, o.2 = (r.id, k) ∧ o.1.pkt.ty = .getReq
              ∧ o.1.pkt.len = c.2 ∧ o.1.pkt.dst = s.dev.addrOf t ∧ o.1.local_ = p.dst + 16 * c.1)
    ∧ (p.st = .todo → x.op = 3 → ecc ≠ .uncorrectable → poisonedIn s.dev p.src p.len = false →
        meetsHeld s.dev j p.src p.len = false → bufferRoom s.dev (portOf p.dst) p.len = true → free (portOf p.src) = true →
        ∃ u, exec (.dmaPieceDone eng id k line ecc) s = .next u ∧ u.dev.brim.hbm = s.dev.brim.hbm ∧ Claim.Piece u eng id k .moving
          ∧ ∀ c ∈ chunks (p.len / 16) 16, ∃ o ∈ (u.dev.port (portOf p.src)).outs, o.2 = (r.id, k) ∧ o.1.pkt.ty = .put
              ∧ o.1.pkt.dst = .port (portOf p.dst) ∧ o.1.pkt.data = s.dev.brim.hbmRead (p.src + 16 * c.1) (16 * c.2))
    ∧ (∀ t, p.st = .todo → x.op = 2 → ecc = .clean → runTile s.dev j r = some t → (Claim.record s x).fmt ≤ 6 →
        (∀ y ∈ Claim.gatherReads s x, meetsHeld s.dev j y.1 y.2 = false ∧ hbmRangeOk y.1 y.2 = true ∧ poisonedIn s.dev y.1 y.2 = false) →
        (∀ y ∈ Claim.windowWrites s x p.dst, y.2 ≠ [] → inMem t.kind y.1 y.2.length = true) →
        (s.dev.port eng).room ((Claim.windowWrites s x p.dst).map (fun y => cdiv (y.2.length / 16) 16)).sum = true →
        ∃ u, exec (.dmaPieceDone eng id k line ecc) s = .next u ∧ Claim.Piece u eng id k .moving
          ∧ (∃ y, u.dev.run? eng id = some y ∧ y.blocks = (Claim.window s x).blocks.length
              ∧ ((Claim.window s x).beyond = true → r.code = 0 → y.code = 0x0408))
          ∧ ∀ y ∈ Claim.windowWrites s x p.dst, Claim.Carried u eng (r.id, k) .put y.2)

/-- An answer that reaches the port tile of a run's packet (R282, R283), and COPY data that reaches its own (R281, R285). -/
def Claim.PortAnswers : Prop :=
  ∀ (s : State) (id pid e : Nat) (f : Flight) (o : Out × Nat × Nat) (r : DmaRun), s.dev.flight? id = some f →
    f.place = .port pid → f.transit = none → f.pkt.xdev = false →
    (portMatching (s.dev.port pid) f.pkt = some o → s.dev.engineOf o.2.1 = some (e, r) → r.id = o.2.1 →
      (o.2.2 < r.pieces.length →
        (f.pkt.ty = .ack → ∃ u, exec (.ack id) s = .next u
          ∧ (u.dev.port pid).outs = removeFirst (fun y => y == o) (s.dev.port pid).outs
          ∧ ∃ y, u.dev.engineOf r.id = some (e, y) ∧ y.units = r.units + o.1.units)
        ∧ (f.pkt.ty = .getResp → ∃ u, exec (.getResp id) s = .next u
          ∧ (∃ h, (u.dev.port pid).held = (s.dev.port pid).held ++ [h] ∧ h.j = r.j ∧ h.step = r.step
              ∧ h.kind = .hbm o.1.local_ f.pkt.data)
          ∧ ∃ y, u.dev.engineOf r.id = some (e, y) ∧ y.units = r.units + o.1.units)
        ∧ (f.pkt.ty = .nack → r.code = 0 → ∃ u, exec (.nack id) s = .next u ∧ Claim.Piece u e r.id o.2.2 .ended
          ∧ ∃ y, u.dev.engineOf r.id = some (e, y) ∧ y.code = f.pkt.tag))
      ∧ (r.pieces.length ≤ o.2.2 → r.stage = .counter → f.pkt.ty = .ack → ∃ u, exec (.ack id) s = .next u
          ∧ u.dev.engineOf r.id = none))
    ∧ (∀ sp q, f.pkt.ty = .put → f.pkt.src = .port sp →
      (s.dev.port sp).outs.find? (fun y => y.1.op == 3 && y.1.pkt.seq == f.pkt.seq) = some o →
      s.dev.engineOf o.2.1 = some (e, r) → r.pieces[o.2.2]? = some q → r.landed.contains (o.2.2, o.1.local_) = false →
      ∃ u, exec (.putPacket id) s = .next u ∧ u.dev.brim.hbm = s.dev.brim.hbm
        ∧ ∃ h, (u.dev.port pid).held = (s.dev.port pid).held ++ [h] ∧ h.j = r.j ∧ h.step = r.step
            ∧ h.kind = .hbm (q.dst + (o.1.local_ - q.src)) f.pkt.data)

/-- DMA_DESCRIPTOR_START puts the next descriptor of a ring, read from the Store tile's SRAM, on its engine with the code of its
check. DMA_PIECE_DONE begins a piece (READ, COPY and GATHER data leaves in packets, the data of a WRITE is asked for) and ends one
whose packets are answered. An answer at a port tile counts its data, holds that of a WRITE, fails its piece, or ends the
descriptor; COPY data is held at its port tile. DMA_COMPLETE sends the completion record (R279-R285, R338). -/
def Obligations.DescriptorsRun : Prop :=
  (∀ (s : State) (t : Pos) (q : Nat) (j : Job) (x : DmaQ) (e : RingDesc), t.ok = true → q < 4 → s.dev.jobAt t = some j →
    j.running = true → j.phase ≠ .pauseQuiesce → (s.dev.tile t).dmaq q = some x → x.ring.find? (fun y => !y.started) = some e →
    (s.dev.brim.runs.filter (fun r => r.1 == x.engine)).length < 8 → Claim.Sound (s.dev.tile t) (x.entry e.pos) 32 →
    let ws := wordsLe ((s.dev.tile t).mem.readN (x.entry e.pos) 32)
    let who := (j.posOf s.dev.map e.src).getD t
    ∃ u, exec (.dmaDescriptorStart t q) s = .next u
      ∧ ∃ r : DmaRun, u.dev.brim.runs = s.dev.brim.runs ++ [(x.engine, r)] ∧ r.requester = who ∧ r.words = ws ∧ r.j = j.slot
          ∧ r.code = descCode j who (ddesc ws) ∧ r.units = 0 ∧ r.step = j.stepOf e.sbit
          ∧ r.pieces = (if r.code = 0 then piecesOf (ddesc ws) else []))
  ∧ Claim.PiecesMove ∧ Claim.PortAnswers
  ∧ (∀ (s : State) (eng id : Nat) (r : DmaRun) (j : Job), eng < 96 → s.dev.run? eng id = some r → s.dev.job? r.j = some j →
    j.running = true → r.stage = .pieces → r.pieces.all (fun p => p.st == .ended) = true →
    (inMem r.requester.kind (ddesc r.words).statusOff 16 = true → (s.dev.port eng).room 1 = true →
      ∃ u, exec (.dmaComplete eng id) s = .next u ∧ (∃ y, u.dev.run? eng id = some y ∧ y.stage = .record)
        ∧ ∃ o ∈ (u.dev.port eng).outs, o.2.1 = r.id ∧ o.1.pkt.ty = .put ∧ o.1.pkt.data = r.record
            ∧ o.1.pkt.dst = s.dev.addrOf r.requester)
    ∧ (inMem r.requester.kind (ddesc r.words).statusOff 16 = false →
        ∃ u, exec (.dmaComplete eng id) s = .next u ∧ u.dev.run? eng id = none
          ∧ Claim.Gained s u r.requester (ddesc r.words).ccc 1))

/-- PORT_COMMIT carries a job's held writes of confirmed steps to HBM; at a fabric or tether port it sends those that the link
takes, from the oldest on; it leaves other jobs' writes and those of unconfirmed steps held. HBM_SCRUB_READ counts a corrected line
and poisons and logs an uncorrectable one. DEEP_CHANNEL_FORWARD sends the oldest token of a FIFO on one credit (R277, R286, R289,
R445). -/
def Obligations.PortsAndFifosWork : Prop :=
  (∀ (s : State) (port k : Nat) (j : Job), k < 32 → s.dev.job? k = some j →
    (port < 96 → ∃ u, exec (.portCommit port k) s = .next u
      ∧ (u.dev.port port).held = (s.dev.port port).held.filter (fun h => !ripe j h)
      ∧ u.dev.brim.hbm = (((s.dev.port port).held.filter (ripe j)).foldl (fun (b : Brim) h => match h.kind with
          | .hbm a bs => b.hbmWrite a bs
          | _ => b) s.dev.brim).hbm)
    ∧ (96 ≤ port → port < 146 → ∃ u, exec (.portCommit port k) s = .next u ∧ u.dev.brim.hbm = s.dev.brim.hbm
        ∧ (u.dev.port port).held.filter (fun h => !ripe j h) = (s.dev.port port).held.filter (fun h => !ripe j h)
        ∧ ∀ h l p, (s.dev.port port).held = h :: l → h.kind = .packet p → ripe j h = true →
            (s.dev.link (port - 96)).canSend p = true → (u.dev.port port).held.length < (s.dev.port port).held.length))
  ∧ (∀ (s : State) (stack line : Nat), stack < 24 → line < 1500000000 → s.dev.mod.st = .idle ∨ s.dev.mod.st = .active →
    exec (.hbmScrubRead stack line .clean) s = .next s
    ∧ (∃ u, exec (.hbmScrubRead stack line .corrected) s = .next u
        ∧ u.dev.brim.corrected.get 0 stack = s.dev.brim.corrected.get 0 stack + 1 ∧ u.dev.brim.hbm = s.dev.brim.hbm)
    ∧ (∃ u, exec (.hbmScrubRead stack line .uncorrectable) s = .next u
        ∧ u.dev.brim.poisoned.contains (stack * 2 ^ 31 + line) = true ∧ u.dev.brim.hbm = s.dev.brim.hbm
        ∧ Claim.Logged s u 0x0402 0))
  ∧ (∀ (s : State) (t p : Pos) (f ch : Nat) (j : Job) (q : Deep) (k : Token) (l : List Token) (r : ChanRec), t.ok = true → f < 8 →
    s.dev.jobAt t = some j → s.dev.live t = true → (s.dev.tile t).deeps[f]? = some q → q.toks = k :: l →
    j.chan q.ci = some r → r.ch = ch → j.posOf s.dev.map r.cons = some p → 0 < q.credit →
    ((s.dev.tile t).net.outs.filter (fun o => o.pkt.ty == .token)).length < 256 → (s.dev.tile t).tokenFree (8 + f) q.num = true →
    Claim.Sound (s.dev.tile t) (q.entry 0) 80 →
    ∃ u, exec (.deepChannelForward t f) s = .next u
      ∧ (∃ y, (u.dev.tile t).deeps[f]? = some y ∧ y.toks = l ∧ y.num = (q.num + 1) % 4096 ∧ y.credit = q.credit - 1
          ∧ y.head = (q.head + 1) % max 1 q.cap)
      ∧ ∃ x ∈ u.dev.wafer.flights, x.pkt.ty = .token ∧ x.pkt.seq = q.num ∧ x.pkt.tag = 8 + f ∧ x.pkt.data = tokenBytes k ch
          ∧ x.pkt.dst = s.dev.addrOf p)

/-! ## Requests and jobs -/

/-- A request has been admitted: its mailbox exists, and reading it leaves `d` (R404-R411). -/
def Claim.Admitted (s : State) (r : Req) (op : Nat) (logged : Bool) (d : Dev) : Prop :=
  boxOk r.tr r.box = true ∧ entered r op logged s.dev = .ok d

/-- A response with a status, a refusal code and a payload has been sent to the request. -/
def Claim.Responded (u : State) (r : Req) (op st refusal : Nat) (payload : List Byte) : Prop :=
  ∃ fl t l, Emit.response r.tr r.box r.session r.seq op fl st refusal t l payload ∈ u.dev.brim.emitted

/-- An admitted request has changed only its session and its doorbell; one that is not admitted changes no tile, job, map, energy
or HBM either; an opcode outside the module's state is answered NOT_PERMITTED_IN_STATE, or BUSY during a start (R404-R414). -/
def Obligations.RequestsAreReadBeforeTheyRun : Prop :=
  ∀ (d : Dev) (r : Req) (op : Nat) (logged : Bool),
    (∀ e, entered r op logged d = .ok e → e = { d with host := { d.host with
        sessions := e.host.sessions, doorbells := e.host.doorbells } })
    ∧ (∀ e, entered r op logged d = .error e → e.wafer = d.wafer ∧ e.jobs = d.jobs ∧ e.map = d.map ∧ e.energy = d.energy
        ∧ e.brim.hbm = d.brim.hbm ∧ e.mod.st = d.mod.st)
    ∧ (∀ x, d.carries .uart = true → r.tr = .uart → d.session? .uart r.session = some x → x.major = r.major → r.major = 3 →
        x.kept = [] → x.running = [] →
        (d.mod.st ≠ .starting → acceptedIn op d.mod.st = false → ∃ e, entered r op logged d = .error e
          ∧ ∃ fl t l, Emit.response r.tr r.box r.session r.seq op fl stNotPermitted 0 t l [] ∈ e.brim.emitted)
        ∧ (d.mod.st = .starting → acceptedStarting op = false → ∃ e, entered r op logged d = .error e
          ∧ ∃ fl t l, Emit.response r.tr r.box r.session r.seq op fl stBusy 0 t l [] ∈ e.brim.emitted))

/-- A START_JOB or RESUME_JOB has been accepted and stands alone in the order of placements (R293). -/
def Claim.asked (d : Dev) (j : Job) (ph : Phase) (r : Req) (origin : Option (Nat × Nat)) : Job × Dev :=
  let f := fun (x : Job) => { x with phase := ph, want := origin, preds := [], req := some r }
  (f j, { d.onJob j.slot f with host := { d.host with placements := [] } })

/-- LOAD_JOB puts the image's job into the lowest free slot and its home area into HBM; START_JOB places it, its tiles reset and
its gates shut, or waits behind a placement that waits; START_DELIVERY_DONE, on tiles that the tables in force serve and whose home
records can be read, delivers them, and the job is at step 0 with the gates of lines other than 0 open; JOB_STATUS answers (R293,
R294, R310-R313, R362, R418). -/
def Obligations.JobsAreLoadedAndStarted : Prop :=
  (∀ (s : State) (r : Req) (addr len k : Nat) (d : Dev) (p : Parsed), Claim.Admitted s r 0x40 true d →
    d.mod.failedStacks = [] → addr % 16 = 0 → (hbmKey addr).isSome = true → hbmRangeOk addr len = true → poisonedIn d addr len = false →
    d.jobNamed r.job = none →
    d.freeJobSlot = some k → parseImage (d.brim.hbmRead addr len) = .ok p → loadChecks p (d.jobs.map (·.img)) addr len = none →
    ∃ u, exec (.loadJob r addr len) s = .next u ∧ Claim.Responded u r 0x40 stOK 0 (le 1 k)
      ∧ u.dev.brim.hbm = (d.brim.hbmWrite p.img.home.1 (homeArea p.img)).hbm
      ∧ ∃ j, u.dev.jobs = d.jobs ++ [j] ∧ j.id = r.job ∧ j.slot = k ∧ j.st = .loaded ∧ j.img = p.img ∧ j.energy.cap = d.mod.inForce.ceiling)
  ∧ (∀ (s : State) (r : Req) (origin : Option (Nat × Nat)) (d : Dev) (j : Job) (ls : List Nat) (o : Nat × Nat),
    Claim.Admitted s r 0x41 true d → d.jobNamed r.job = some j → d.job? j.slot = some j → d.jobBusy j = false → j.st = .loaded →
    j.preds = [] →
    let a := Claim.asked d j .startWait r origin
    (d.host.placements = [] → startChecks a.2 a.1 origin = .ok (ls, o) → ∃ u, exec (.startJob r origin) s = .next u
      ∧ (∃ x, u.dev.job? j.slot = some x ∧ x.st = .running ∧ x.phase = .starting ∧ x.gate0 = false ∧ x.gates = false
          ∧ x.lines = ls ∧ x.origin = some o ∧ x.energy.setpoint = min 750 x.energy.cap)
      ∧ ∀ p : Pos, p.ok = true → u.dev.tile p = if inFootprint j.img o p then {} else s.dev.tile p)
    ∧ (∀ n l y, d.host.placements = n :: l → d.job? n = some y → n ≠ j.slot → y.phase = .predecessors → y.preds ≠ [] →
      ∃ u, exec (.startJob r origin) s = .next u ∧ u.dev.host.placements = n :: l ++ [j.slot] ∧ u.dev.wafer = s.dev.wafer
        ∧ ∃ x, u.dev.job? j.slot = some x ∧ x.st = .loaded ∧ x.phase = .startWait ∧ x.req = some r))
  ∧ (∀ (s : State) (k : Nat) (j : Job), k < 32 → s.dev.job? k = some j → j.phase = .starting → j.mapReady s.dev = true →
    j.fieldsUp s.dev = true → (∀ c ∈ j.img.members, homeLost s.dev j.img c = false) →
    longRecord (deliverHome j s.dev) j = none →
    ∃ u, exec (.startDeliveryDone k) s = .next u
      ∧ (∃ x, u.dev.job? k = some x ∧ x.phase = .idle ∧ x.gates = true ∧ x.gate0 = j.gate0 ∧ x.crossed = [] ∧ x.conf = 0
          ∧ x.req = none)
      ∧ ∀ c p, c ∈ j.img.members → j.posOf s.dev.map c = some p → (u.dev.tile p).step = 0 ∧ (u.dev.tile p).net.jslot = some j.slot)
  ∧ (∀ (s : State) (r : Req) (d : Dev) (j : Job), Claim.Admitted s r 0x45 false d → d.jobNamed r.job = some j → d.jobBusy j = false →
    ∃ u, exec (.jobStatus r) s = .next u ∧ Claim.Responded u r 0x45 stOK 0 (statusPayload j) ∧ u.dev.jobs = s.dev.jobs)

/-- PAUSE_JOB shuts all gates of a running job, or that of line 0 for the boundary wait, which BOUNDARY_PAUSE_READY and
BOUNDARY_PAUSE_TIMEOUT end; PAUSE_QUIESCE_DONE takes the held writes, or reopens the gates where the pause area has no
room; PAUSE_SCAN_OUT_DONE leaves the job paused with its tiles saved and freed. RESUME_JOB places the job again; RESUME_SCAN_IN_DONE brings
its tiles and its held writes back (R314-R322). -/
def Obligations.JobsPauseAndResume : Prop :=
  (∀ (s : State) (r : Req) (mode : Nat) (succ : List Nat) (d : Dev) (j : Job), Claim.Admitted s r 0x42 true d →
    d.jobNamed r.job = some j → d.job? j.slot = some j → d.jobBusy j = false → j.st = .running → succ.length ≤ 31 →
    (mode = 0 → ∃ u, exec (.pauseJob r 0 succ) s = .next u ∧ ∃ x, u.dev.job? j.slot = some x ∧ x.phase = .pauseQuiesce
        ∧ x.gate0 = false ∧ x.gates = false ∧ x.preGates = j.gateList ∧ x.req = some r)
    ∧ (mode = 1 → ∃ u, exec (.pauseJob r 1 succ) s = .next u ∧ ∃ x, u.dev.job? j.slot = some x ∧ x.phase = .pauseBoundary
        ∧ x.gate0 = false ∧ x.gates = j.gates))
  ∧ (∀ (s : State) (k : Nat) (j : Job), k < 32 → s.dev.job? k = some j →
    (j.phase = .pauseBoundary → exec (.boundaryPauseTimeout k) s = .next (on s (fun d => d.onJob k Job.shutGates)))
    ∧ (j.phase = .pauseBoundary → atBoundary s.dev j = true →
        exec (.boundaryPauseReady k) s = .next (on s (fun d => d.onJob k Job.shutGates)))
    ∧ (j.phase = .pauseBoundary → atBoundary s.dev j = false → exec (.boundaryPauseReady k) s = .next s)
    ∧ (j.phase = .pauseQuiesce → quiet s.dev j = true → settled s.dev j = true →
        let need := pauseFixed j.img + bulkTotal s.dev j + ((heldLog s.dev k).map (fun y => (logEntry y).length)).sum
        (need ≤ j.img.pause.2 → ∃ u, exec (.pauseQuiesceDone k) s = .next u
          ∧ (∃ x, u.dev.job? k = some x ∧ x.phase = .pauseScanOut ∧ (x.saved.map (·.log)) = some (heldLog s.dev k))
          ∧ heldLog u.dev k = [] ∧ u.dev.wafer = s.dev.wafer)
        ∧ (j.img.pause.2 < need → ∃ u, exec (.pauseQuiesceDone k) s = .next u
          ∧ (∃ x, u.dev.job? k = some x ∧ x.st = j.st ∧ x.phase = .idle ∧ x.gates = true ∧ x.gate0 = j.preGates.getD 0 false)
          ∧ heldLog u.dev k = heldLog s.dev k ∧ u.dev.wafer = s.dev.wafer))
    ∧ (j.phase = .pauseScanOut → j.succ = [] → j.outcomes = [] → ∃ u, exec (.pauseScanOutDone k) s = .next u
        ∧ (∃ x, u.dev.job? k = some x ∧ x.st = .paused ∧ x.phase = .idle ∧ x.origin = none ∧ x.lines = []
            ∧ x.saved.isSome = true ∧ (∀ c p, (c, p) ∈ (x.saved.map (·.tiles)).getD [] → ∃ q, j.posOf s.dev.map c = some q
                ∧ p = ((s.dev.tile q).scrub (s.dev.tile q).weak).unplaced j s.dev.map))
        ∧ ∀ y ∈ u.dev.wafer.tiles, y.2.net.jslot ≠ some k))
  ∧ (∀ (s : State) (r : Req) (origin : Option (Nat × Nat)) (d : Dev) (j : Job) (ls : List Nat) (o : Nat × Nat),
    Claim.Admitted s r 0x43 true d → d.jobNamed r.job = some j → d.job? j.slot = some j → d.jobBusy j = false → j.st = .paused →
    d.host.placements = [] →
    let a := Claim.asked d j .predecessors r origin
    startChecks a.2 a.1 origin = .ok (ls, o) →
    ∃ u, exec (.resumeJob r origin []) s = .next u ∧ ∃ x, u.dev.job? j.slot = some x ∧ x.st = .running ∧ x.phase = .resuming
      ∧ x.origin = some o ∧ x.lines = ls ∧ x.req = some r)
  ∧ (∀ (s : State) (k : Nat) (j : Job) (v : Saved), k < 32 → s.dev.job? k = some j → j.phase = .resuming → j.saved = some v →
    j.mapReady s.dev = true → j.fieldsUp s.dev = true → imageLost s.dev j v = false →
    ∃ u, exec (.resumeScanInDone k) s = .next u
      ∧ (∃ x, u.dev.job? k = some x ∧ x.phase = .idle ∧ x.gates = true ∧ x.gate0 = false ∧ x.saved = none ∧ x.conf = j.conf)
      ∧ ∀ h ∈ v.log, ∃ pid, ∃ g ∈ (u.dev.port pid).held, g.j = h.2.j ∧ g.step = h.2.step
          ∧ ∀ a bs, h.2.kind = .hbm a bs → g = h.2 ∧ pid = portOf a)

/-- JOB_STOP_QUIESCE_END, once every tile has seen the crossings released: the interfaces of a halted job stop accepting, and its
drydown begins when an area is named, or the unload that waited for the stop is made.
DRYDOWN_COMPLETE: the drydown stands in HBM at the area, and the job's stop is over. DRYDOWN: a running job is
halted by it, with no fault as trigger, and its area is the one named. UNLOAD_JOB takes a job at rest off the wafer, with its record
when discard is asked; no tile belongs to it any more. A running job is stopped first (R234-R238, R323). -/
def Obligations.JobsStopAndAreUnloaded : Prop :=
  (∀ (s : State) (k : Nat) (j : Job), k < 32 → s.dev.job? k = some j → j.st = .halted →
    (j.stop = .accepting → crossSettled s.dev j = true →
      (j.unload = none → exec (.jobStopQuiesceEnd k) s = .next (on s (fun d => d.onJob k (fun x =>
        { x with stop := if x.area.isSome then .dumping else .closed }))))
      ∧ (∀ b, j.unload = some b → ∃ u, exec (.jobStopQuiesceEnd k) s = .next u
          ∧ (∀ y ∈ u.dev.wafer.tiles, y.2.net.jslot ≠ some k) ∧ (b = true → u.dev.job? k = none)))
    ∧ (j.stop = .accepting → crossSettled s.dev j = false → exec (.jobStopQuiesceEnd k) s = .next s)
    ∧ (∀ a, j.stop = .dumping → j.area = some a → ∃ u, exec (.drydownComplete k) s = .next u
        ∧ u.dev.brim.hbm = (s.dev.brim.hbmWrite a.1 (dryBytes j a.2 s.dev).1).hbm
        ∧ ∃ x, u.dev.job? k = some x ∧ x.stop = .dumped ∧ x.st = .halted ∧ x.dumpReq = none))
  ∧ (∀ (s : State) (r : Req) (addr len : Nat) (d : Dev) (j : Job) (a : Nat × Nat), boxOk r.tr r.box = true →
    entered r 0x50 true s.dev = .ok d → d.jobNamed r.job = some j → d.job? j.slot = some j → d.jobBusy j = false → j.stop ≠ .dumped →
    dryArea d j addr len = some a → (j.st = .running ∨ j.st = .halted) →
    ∃ u, exec (.drydown r addr len) s = .next u
      ∧ ∃ x, u.dev.job? j.slot = some x ∧ x.st = .halted ∧ x.area = some a ∧ x.dumpReq = some r ∧ x.hostDump = true
          ∧ (j.st = .running → x.trigger = 0 ∧ x.gate0 = false ∧ x.gates = false))
  ∧ (∀ (s : State) (r : Req) (d : Dev) (j : Job), Claim.Admitted s r 0x44 true d → d.jobNamed r.job = some j →
      d.job? j.slot = some j → d.jobBusy j = false →
      (j.st = .running → j.stop = .none → ∃ u, exec (.unloadJobKeep r) s = .next u ∧ u.dev.wafer = s.dev.wafer
        ∧ ∃ x, u.dev.job? j.slot = some x ∧ x.st = .halted ∧ x.stop = .accepting ∧ x.gate0 = false ∧ x.gates = false
            ∧ x.unload = some false ∧ x.req = some r)
      ∧ ((j.st ≠ .running ∨ j.stop ≠ .none) → j.stop ≠ .accepting → ∃ u, exec (.unloadJobKeep r) s = .next u ∧ Claim.Responded u r 0x44 stOK 0 (le 1 0)
        ∧ (∃ x, u.dev.job? j.slot = some x ∧ x.st = .loaded ∧ x.img = j.img ∧ x.ranks = j.ranks ∧ x.lines = [] ∧ x.origin = none
            ∧ x.energy.cap = d.mod.inForce.ceiling)
        ∧ ∀ y ∈ u.dev.wafer.tiles, y.2.net.jslot ≠ some j.slot)
      ∧ ((j.st ≠ .running ∨ j.stop ≠ .none) → j.stop ≠ .accepting → ∃ u, exec (.unloadJobDiscard r) s = .next u ∧ Claim.Responded u r 0x44 stOK 0 (le 1 0xFF)
        ∧ u.dev.job? j.slot = none ∧ ∀ y ∈ u.dev.wafer.tiles, y.2.net.jslot ≠ some j.slot))
/-! ## Recoveries and fields -/

/-- ROLLBACK_QUIESCE_DONE, once every tile that works has written its record of the step, discards the job's runs and the held writes of the steps it gives up; ROLLBACK_RESTORE_DONE puts every
tile back with one replay more, and the job at the step it rolled back to; TAKEOVER_LOAD_DONE gives new tiles their slot's home
copy, where it can be read; REPLACEMENT_SCAN_OUT_DONE places the saved job again or leaves it PAUSED, and REPLACEMENT_RESUME_DONE lets it go on;
TILE_POLL raises 0x0501 at the second poll in a row without an answer: a tile that no job needs is condemned, and a job that needs it
recovers or halts (R316, R336-R344). -/
def Obligations.RecoveriesRestoreAStep : Prop :=
  (∀ (s : State) (k : Nat) (j : Job), k < 32 → s.dev.job? k = some j →
    (j.phase = .rbQuiesce → noneBound k s.dev = true → recordsIn s.dev j = true → ∃ u, exec (.rollbackQuiesceDone k) s = .next u
      ∧ u.dev.brim.hbm = s.dev.brim.hbm ∧ (∀ x ∈ u.dev.brim.runs, x.2.j ≠ k)
      ∧ (∀ x ∈ u.dev.brim.ports, ∀ h ∈ x.2.held, h.j = k → h.step < j.rbStep)
      ∧ (j.rbWhy = 0 → u.dev.wafer.tiles = s.dev.wafer.tiles ∧ ∃ x, u.dev.job? k = some x ∧ x.phase = .rbRestore)
      ∧ (j.rbWhy ≠ 0 → (∀ p ∈ j.lost, s.dev.map.isolated.contains p.field = false → u.dev.map.isDead p = true)
          ∧ ∃ x, u.dev.job? k = some x ∧ x.phase = (if j.rbWhy = 1 then .tkTable else .rpTable)))
    ∧ (j.phase = .rbRestore → j.pauseAfter = false → 0 < j.img.nLines → ∃ u, exec (.rollbackRestoreDone k) s = .next u
      ∧ (∃ x, u.dev.job? k = some x ∧ x.phase = .idle ∧ x.gates = true ∧ x.gate0 = false ∧ x.crossed.get 0 0 = rollStep j
          ∧ x.rollbacks = j.rollbacks + 1 ∧ x.conf = j.conf)
      ∧ ∀ c p, c ∈ j.img.ordered → j.posOf s.dev.map c = some p →
          (u.dev.tile p).check.replays = (s.dev.tile p).check.replays + 1 ∧ (u.dev.tile p).prog = (s.dev.tile p).prog)
    ∧ (j.phase = .tkLoad → (∀ c ∈ j.img.members, homeLost s.dev j.img c = false) → ∃ u, exec (.takeoverLoadDone k) s = .next u
      ∧ (∃ x, u.dev.job? k = some x ∧ x.phase = .rbRestore)
      ∧ ∀ c p, c ∈ j.img.members → j.posOf s.dev.map c = some p → (u.dev.tile p).net.jslot = some k)
    ∧ (j.phase = .rpScanOut → j.succ = [] → 0 < j.img.nLines → ∃ u, exec (.replacementScanOutDone k) s = .next u
      ∧ ∃ x, u.dev.job? k = some x ∧ x.saved.isSome = true ∧ (j.saved = none → x.crossed.get 0 0 = rollStep j)
          ∧ ((x.st = .running ∧ x.phase = .rpResume ∧ x.origin.isSome = true) ∨ (x.st = .paused ∧ x.origin = none)))
    ∧ (∀ v, j.phase = .rpResume → j.saved = some v → j.pauseAfter = false → j.mapReady s.dev = true → j.fieldsUp s.dev = true → ∃ u, exec (.replacementResumeDone k) s = .next u
      ∧ ∃ x, u.dev.job? k = some x ∧ x.phase = .idle ∧ x.gates = true ∧ x.gate0 = false ∧ x.saved = none ∧ x.crossed = j.crossed))
  ∧ (∀ (s : State) (t : Pos), t.ok = true → polled s.dev t = true →
    (exec (.tilePoll t true) s = .next (on s (fun d => { d with map := { d.map with missed := d.map.missed.set t.ix 0 } })))
    ∧ (s.dev.map.missed.get 0 t.ix = 0 → exec (.tilePoll t false) s = .next (on s (fun d =>
        { d with map := { d.map with missed := d.map.missed.set t.ix 1 } })))
    ∧ (s.dev.map.missed.get 0 t.ix = 1 → (∀ j, s.dev.usedBy t = some j → j.needs s.dev.map t = false) → ∃ u,
        exec (.tilePoll t false) s = .next u ∧ u.dev.map.isDead t = true ∧ Claim.Logged s u 0x0501 0)
    ∧ (∀ j, s.dev.map.missed.get 0 t.ix = 1 → s.dev.usedBy t = some j → s.dev.job? j.slot = some j → j.needs s.dev.map t = true →
        j.phase = .idle → ∃ u, exec (.tilePoll t false) s = .next u
        ∧ Claim.Logged s u 0x0501 0 ∧ ∃ x, u.dev.job? j.slot = some x ∧ x.gate0 = false ∧ x.gates = false
            ∧ ((x.phase = .rbQuiesce ∧ x.lost = [t]) ∨ (x.st = .halted ∧ x.trigger = 0x0501))))

/-- FIELD_SHORT isolates a field's supply for the rest of the input's power cycle, with all packets in it; a job that survives the
loss recovers. A field test runs on a tile that no work uses; a tile that fails twice is condemned (R27, R36, R345-R348, R456). -/
def Obligations.FieldsFailAndAreTested : Prop :=
  (∀ (s : State) (f : Nat), f < 48 → (s.dev.energy.fields.get {} f).powered = true → s.dev.map.isolated.contains f = false →
    let m : MapSt := { s.dev.map with isolated := s.dev.map.isolated ++ [f], holdTimers := true }
    (s.dev.jobs.filter (fun j => j.onWafer && !(tilesIn m j f).isEmpty) = [] → ∃ u, exec (.fieldShort f) s = .next u
      ∧ u.dev.map.isolated = m.isolated ∧ u.dev.map.holdTimers = true ∧ u.dev.mod.shortSet.contains f = true
      ∧ (u.dev.energy.fields.get {} f).powered = false ∧ (u.dev.energy.fields.get {} f).volt = 0
      ∧ u.dev.wafer.tiles = s.dev.wafer.tiles ∧ (∀ y ∈ u.dev.wafer.flights, y.inField f = false) ∧ Claim.Logged s u 0x0503 0)
    ∧ (∀ j, s.dev.jobs = [j] → j.st = .running → j.phase = .idle → (tilesIn m j f).isEmpty = false → survives { s.dev with map := m } j f = true →
      ∃ u, exec (.fieldShort f) s = .next u ∧ u.dev.map.isolated = m.isolated
        ∧ (u.dev.energy.fields.get {} f).powered = false
        ∧ ∃ x, u.dev.jobs = [x] ∧ x.phase = .rbQuiesce ∧ x.rbWhy = 2 ∧ x.lost = tilesIn m j f ∧ x.gate0 = false ∧ x.gates = false))
  ∧ (∀ (s : State) (t : Pos), t.ok = true →
    (s.dev.map.suspendTests = false → (s.dev.mod.st = .idle ∨ s.dev.mod.st = .active) → testable s.dev t = true →
      (∀ p ∈ s.dev.map.testing, p.field ≠ t.field) → s.dev.map.retest.contains t = false →
      exec (.fieldTestStart t) s = .next (on s (fun d =>
        { d with map := { d.map with testing := d.map.testing ++ [t], tests := d.map.tests + 1 } })))
    ∧ (s.dev.map.testing.contains t = true →
      (exec (.fieldTestDone t true) s = .next (on s (fun d =>
        { d with map := { d.map with testing := d.map.testing.filter (· != t) } })))
      ∧ exec (.fieldTestDone t false) s = .next (on s (fun d =>
        { d with map := { d.map with testing := d.map.testing.filter (· != t), retest := d.map.retest ++ [t] } })))
    ∧ (s.dev.map.retest.contains t = true → mayTest s.dev t = true →
      (∃ u, exec (.fieldTestRetest t true) s = .next u ∧ u.dev.map.dead = s.dev.map.dead ∧ u.dev.map.retest.contains t = false
        ∧ u.dev.map.tests = s.dev.map.tests + 1)
      ∧ (∃ u, exec (.fieldTestRetest t false) s = .next u ∧ u.dev.map.isDead t = true ∧ u.dev.map.retest.contains t = false
        ∧ u.dev.map.condemned = s.dev.map.condemned + 1 ∧ Claim.Logged s u 0x0505 0)))
/-! ## Energy -/

/-- The supply of a field as a command leaves it. -/
def Claim.field (s : State) (f : Nat) : Field := s.dev.energy.fields.get {} f

/-- The first page of a snapshot with a number (R412). -/
def Claim.page (id : Nat) (bs : List Byte) : List Byte :=
  let p := slice bs 0 (min 4016 bs.length)
  le 4 id ++ le 4 bs.length ++ le 4 0 ++ le 4 p.length ++ p

/-- LEDGER_INTERVAL charges the interval to the budget, the counts, the jobs and the record, and suspends a field at 92 °C; GATE_OPEN
releases line 0 of a job that the ledger allows and makes one wait that it does not; REGULATOR_STEP moves a supply 5 mV toward
its target, which falls at once, is never below 620 mV under a running step (log 132), and else rises 5 mV in an interval;
SUSPENSION_END ends a suspension but at duty 0; IDLE_ENTRY leaves Active; SET_ENVELOPE takes effect at the interval's end;
READ_LEDGER returns the records from a time on (R351-R366, R417). -/
def Obligations.TheLedgerRuns : Prop :=
  (∀ (s : State) (r : Readings), (s.dev.mod.st = .idle ∨ s.dev.mod.st = .active ∨ s.dev.mod.st = .parked
      ∨ (s.dev.mod.st = .starting ∧ 2 ≤ s.dev.mod.order)) →
    s.dev.energy.nextEnv = none → (∀ f, hottest r f < 95) → ∃ u, exec (.ledgerInterval r) s = .next u
      ∧ u.dev.energy.budget = min (s.dev.energy.allow : Int) (s.dev.energy.budget + (s.dev.energy.allow / s.dev.energy.window : Nat) - r.input)
      ∧ u.dev.energy.inputSum = s.dev.energy.inputSum + r.input ∧ u.dev.energy.mirror.seq = s.dev.energy.mirror.seq + 2
      ∧ u.dev.energy.sectorSum = addCounts 768 s.dev.energy.sectorSum r.sectors
      ∧ u.dev.energy.brimSum = addCounts 29 s.dev.energy.brimSum r.brim
      ∧ (∃ x ∈ u.dev.energy.records, x.time = (s.dev.now / 1000 + 1) * 1000 ∧ x.input = r.input)
      ∧ (∀ k j, k < 32 → s.dev.job? k = some j → ∃ x, u.dev.job? k = some x ∧ x.energy.total = j.energy.total + attributed j r)
      ∧ (∀ f, f < 48 → (Claim.field s f).powered = true → 92 ≤ hottest r f → (Claim.field u f).thermal = true
          ∧ (Claim.field u f).duty = 0 ∧ (Claim.field u f).suspendedNow = true ∧ (Claim.field u f).tcap = (Claim.field s f).tcap - 5))
  ∧ (∀ (s : State) (k : Nat) (j : Job), k < 32 → s.dev.job? k = some j →
    (gateReady j s.dev.now = true → (ledgerAllows s.dev j).1 = true → firstInLine s.dev j = true → ∃ u, exec (.gateOpen k) s = .next u
      ∧ (∃ x, u.dev.job? k = some x ∧ x.gate0 = true ∧ x.energy.ledgerWait = false ∧ x.energy.readyAt = none ∧ x.crossed = j.crossed
          ∧ x.conf = j.conf)
      ∧ ((ledgerAllows s.dev j).2 = true → j.energy.warned = false → Claim.Logged s u 0x0703 0))
    ∧ (gateReady j s.dev.now = true → ((ledgerAllows s.dev j).1 = false ∨ firstInLine s.dev j = false) →
      ∃ u, exec (.gateOpen k) s = .next u ∧ ∃ x, u.dev.job? k = some x ∧ x.gate0 = false ∧ x.energy.ledgerWait = true)
    ∧ (gateReady j s.dev.now = false → exec (.gateOpen k) s = .next s))
  ∧ (∀ (s : State) (f : Nat), f < 48 →
    (let x := Claim.field s f
     let t := fieldTarget s.dev f
     ∃ u, exec (.regulatorStep f) s = .next u
      ∧ (x.powered = false → Claim.field u f = x)
      ∧ (x.powered = true → (Claim.field u f).target = (if t ≤ x.target then t else if x.target < 620 then min t 620
            else if x.raised then x.target else min t (x.target + 5))
          ∧ (Claim.field u f).volt = (if x.volt < (Claim.field u f).target then min (Claim.field u f).target (x.volt + 5)
              else max (Claim.field u f).target (x.volt - 5))))
    ∧ (∃ u, exec (.suspensionEnd f) s = .next u
        ∧ Claim.field u f = (if (Claim.field s f).duty = 0 then Claim.field s f else { Claim.field s f with suspendedNow := false })))
  ∧ (∀ s : State, (s.dev.mod.st = .active → s.dev.jobs.any Job.onWafer = false →
      exec .idleEntry s = .next (on s (fun d => { d with mod := { d.mod with st := .idle } })))
    ∧ ((s.dev.mod.st ≠ .active ∨ s.dev.jobs.any Job.onWafer = true) → exec .idleEntry s = .next s))
  ∧ (∀ (s : State) (r : Req) (p w a : Nat) (clear : Bool) (d : Dev), Claim.Admitted s r 0x31 true d → 8000 ≤ p →
    p ≤ d.mod.inForce.envelope → 1 ≤ w → w ≤ 1000 → 1 ≤ a → a ≤ p * w * 1000 → ∃ u, exec (.setEnvelope r p w a clear) s = .next u
      ∧ (∃ c, u.dev.energy.nextEnv = some (p, w, a, c) ∧ (clear = true → c = true)) ∧ u.dev.energy.budget = s.dev.energy.budget
      ∧ Claim.Responded u r 0x31 stOK 0 (le 4 p ++ le 4 w ++ le 8 a ++ leSigned8 s.dev.energy.budget))
  ∧ (∀ (s : State) (r : Req) (time most : Nat) (d : Dev), Claim.Admitted s r 0x32 false d → 1 ≤ most → most ≤ 65536 →
    ∃ u, exec (.readLedger r 0 0 time most) s = .next u ∧ u.dev.energy = s.dev.energy
      ∧ Claim.Responded u r 0x32 stOK 0 (Claim.page d.host.nextSnap
          (((s.dev.energy.records.filter (fun x => decide (time ≤ x.time))).take most).flatMap IntervalRec.bytes)))

/-! ## Power states -/

/-- What a power-down leaves: no tile, no job, no HBM; what was sent stays sent, and a generation that was being programmed is neither
blank nor valid (R368, R375, R458). -/
def Claim.Dark (s u : State) : Prop :=
  u.dev.wafer.tiles = [] ∧ u.dev.wafer.flights = [] ∧ u.dev.jobs = [] ∧ u.dev.brim.hbm = [] ∧ u.dev.host.sessions = []
    ∧ u.dev.brim.emitted = s.dev.brim.emitted ∧ u.boot.staged = false ∧ u.boot.programming = none
    ∧ (∀ k n c r, s.boot.programming = some (k, n, c, r) → 1 ≤ k →
      (u.boot.slotAt k n).isBlank = false ∧ (u.boot.slotAt k n).valid k n = false)

/-- The input, WAKE_N and the conditions of a start; the emergencies, which keep a cause and power the module down; the end of
the input; POWER_STATE to Parked and from it, POWER_TRANSITION_DONE, STANDBY_ENTRY (R366-R370, R417, R454-R459). -/
def Obligations.PowerStatesChange : Prop :=
  ∀ s : State,
    (s.dev.mod.standbyOn = false → exec .inputApplied s = .next (on s (fun d => { d with mod := { d.mod with
      st := .standby, standbyOn := true, qualified := false, inputLow := true, mgmtTime := 0 } })))
    ∧ (s.dev.mod.standbyOn = true → exec .inputApplied s = .next s)
    ∧ (s.dev.mod.standbyOn = true → exec .inputQualified s = .next (on s (fun d => { d with mod := { d.mod with
        qualified := true, inputLow := false
        heldStart := d.mod.heldStart || (d.mod.st == .standby && d.mod.inputLow && !d.mod.needWake && s.boot.autoStart) } })))
    ∧ (s.dev.mod.st = .standby → exec .wakeN s = .next (on s (fun d => { d with mod := { d.mod with
        heldStart := true, needWake := false } })))
    ∧ (s.dev.mod.st ≠ .standby → exec .wakeN s = .next s)
    ∧ (s.dev.mod.st = .standby → s.dev.mod.heldStart = true → s.dev.mod.qualified = true →
        exec .startConditionsMet s = .next (on s (fun d => { d with mod := { d.mod with
          st := .starting, order := 1, heldStart := false } })))
    ∧ (s.dev.mod.standbyOn = true →
        (∃ u, exec .undervoltage s = .next u ∧ Claim.Dark s u ∧ u.dev.mod.st = .standby ∧ u.dev.mod.cause = 0x0707
          ∧ u.dev.mod.qualified = false ∧ u.dev.mod.inputLow = true)
        ∧ (∃ u, exec .coolantEmergency s = .next u ∧ Claim.Dark s u ∧ u.dev.mod.st = .standby ∧ u.dev.mod.cause = 0x0706
          ∧ u.dev.mod.needWake = true)
        ∧ (∃ u, exec .caseOvertemp s = .next u ∧ Claim.Dark s u ∧ u.dev.mod.st = .standby ∧ u.dev.mod.cause = 0x0706
          ∧ u.dev.mod.needWake = true))
    ∧ (∃ u, exec .standbyDomainStop s = .next u ∧ Claim.Dark s u ∧ u.dev.mod.st = .off ∧ u.dev.mod.standbyOn = false
        ∧ u.dev.mod.mgmtTime = 0 ∧ u.dev.mod.shortSet = [] ∧ u.dev.mod.cause = s.dev.mod.cause)
    ∧ (s.dev.mod.move = .toStandby → ∃ u, exec .standbyEntry s = .next u ∧ Claim.Dark s u ∧ u.dev.mod.st = .standby
        ∧ u.dev.mod.shortSet = s.dev.mod.shortSet)
    ∧ (s.dev.mod.move ≠ .toStandby → exec .standbyEntry s = .next s)
    ∧ (s.dev.mod.move = .toParked → ∃ u, exec .powerTransitionDone s = .next u ∧ u.dev.mod.move = .none
        ∧ u.dev.wafer.tiles = [] ∧ (∀ f, f < 48 → (Claim.field u f).powered = false ∧ (Claim.field u f).volt = 0)
        ∧ (∀ r, s.dev.mod.moveReq = some r → Claim.Responded u r 0x30 stOK 0 (le 1 2)))
    ∧ (s.dev.mod.move = .toIdle → s.dev.mod.st = .idle → ∃ u, exec .powerTransitionDone s = .next u ∧ u.dev.mod.move = .none
        ∧ u.dev.wafer = s.dev.wafer ∧ (∀ r, s.dev.mod.moveReq = some r → Claim.Responded u r 0x30 stOK 0 (le 1 1)))
    ∧ (∀ r d, Claim.Admitted s r 0x30 true d → moving d = false →
        (d.mod.st ≠ .parked → d.jobs.any Job.onWafer = false → ∃ u, exec (.powerState r 2) s = .next u ∧ u.dev.mod.st = .parked
          ∧ u.dev.mod.move = .toParked ∧ u.dev.mod.moveReq = some r)
        ∧ (d.mod.st ≠ .parked → d.jobs.any Job.onWafer = true → ∃ u, exec (.powerState r 2) s = .next u ∧ u.dev.mod.st = s.dev.mod.st
          ∧ Claim.Responded u r 0x30 stNotPermitted 0 [])
        ∧ (d.mod.st = .parked → d.mod.failedStacks = [] → ∃ u, exec (.powerState r 1) s = .next u ∧ u.dev.mod.st = .starting
          ∧ u.dev.mod.order = 4 ∧ u.dev.mod.fromParked = true ∧ u.dev.mod.moveReq = some r)
        ∧ (d.mod.st = .parked → d.jobs = [] → ∃ u, exec (.powerState r 3) s = .next u ∧ u.dev.mod.move = .toStandby
          ∧ Claim.Responded u r 0x30 stOK 0 (le 1 3)))
/-! ## The start of the module -/

/-- MODULE_START needs a valid generation of every kind but the thermometer, FLACON_VERIFY a bank that verifies, else the module
is in recovery mode. The stacks and the ports end their trainings, and the start goes on when all have, or is Parked with a failed
stack; power waves, the neighbour test, the map build and the firmware broadcast take it from order to order until the module is
Idle, the broadcast repeated at most three times for tiles that lack a segment, which are then condemned. FLACON_FALLBACK starts once
more from the other bank; GENERATION_PROGRAMMED writes the generation that was being programmed (R371-R398). -/
def Obligations.TheModuleStarts : Prop :=
  ∀ s : State,
    (s.dev.mod.st = .starting → s.dev.mod.order = 1 →
      (([1, 2, 3, 5] : List Nat).any (fun k => (s.boot.newest k).isNone) = true → ∃ u, exec .moduleStart s = .next u
        ∧ u.dev.mod.st = .recovery ∧ u.boot = s.boot)
      ∧ (([1, 2, 3, 5] : List Nat).any (fun k => (s.boot.newest k).isNone) = false → ∃ u, exec .moduleStart s = .next u
        ∧ u.dev.mod.st = .starting ∧ u.dev.mod.order = 2 ∧ u.dev.mod.inForce = s.boot.inForce ∧ u.boot = s.boot
        ∧ u.dev.energy.budget = u.dev.energy.allow ∧ u.dev.map.isolated = s.dev.mod.shortSet
        ∧ ∀ f, f < 48 → (Claim.field u f).tcap = s.boot.inForce.ceiling))
    ∧ (s.dev.mod.st = .starting → s.dev.mod.order = 2 →
      (∀ f, s.boot.bank s.boot.activeB = some f → verifies s.boot f = true → ∃ u, exec .flaconVerify s = .next u
        ∧ u.boot.running = some f ∧ u.boot.activeB = s.boot.activeB ∧ u.boot.otp = s.boot.otp ∧ u.dev.mod.order = 3
        ∧ u.dev.mod.cause = 0)
      ∧ (∀ f, (s.boot.bank s.boot.activeB).filter (verifies s.boot) = none → s.boot.bank (!s.boot.activeB) = some f →
        verifies s.boot f = true → ∃ u, exec .flaconVerify s = .next u ∧ u.boot.running = some f
        ∧ u.boot.activeB = (!s.boot.activeB) ∧ u.dev.mod.order = 3)
      ∧ ((∀ second, (s.boot.bank second).filter (verifies s.boot) = none) → ∃ u, exec .flaconVerify s = .next u
        ∧ u.dev.mod.st = .recovery ∧ u.boot = s.boot))
    ∧ (s.dev.mod.st = .starting → s.dev.mod.order = 3 →
      (∀ rs : List StackResult, rs.all (fun r => decide (r.stack < 24)) = true →
        (s.dev.mod.fastHbm = true ∨ rs.all (fun r => decide (2 ≤ r.outcome)) = true) → s.dev.mod.hbmSides = [] →
        let done : Prop := (∀ k, k < 24 → s.dev.mod.hbmEnded.contains k = true ∨ ∃ r ∈ rs, r.stack = k) ∧ s.dev.mod.optDone = true
        ∃ u, exec (.hbmTrainingDone rs) s = .next u
          ∧ (∀ k, u.dev.mod.hbmEnded.contains k = (s.dev.mod.hbmEnded.contains k || rs.any (fun r => r.stack == k)))
          ∧ (∀ r ∈ rs, r.outcome = 3 → (∀ x ∈ rs, x.stack = r.stack → x = r) → s.dev.mod.hbmEnded.contains r.stack = false →
              u.dev.mod.failedStacks.contains r.stack = true)
          ∧ (done → s.dev.mod.failedStacks = [] → (∀ r ∈ rs, r.outcome ≠ 3) → u.dev.mod.failedStacks = [] ∧ u.dev.mod.order = 4
              ∧ u.dev.mod.st = .starting)
          ∧ (done → u.dev.mod.failedStacks ≠ [] → u.dev.mod.st = .parked)
          ∧ (¬ done → u.dev.mod.order = 3 ∧ u.dev.mod.st = .starting))
      ∧ (∀ r : PortResult, s.dev.mod.optEnded.contains r.port = false → r.port < 50 → (s.dev.mod.fastOpt = true ∨ r.full = true) →
        s.dev.mod.optSides = [] →
        let rx := (r.rxMask % 2 ^ portLanes r.port) &&& (255 - fusedMask s.dev.map r.port 0)
        let tx := (r.txMask % 2 ^ portLanes r.port) &&& (255 - fusedMask s.dev.map r.port 1)
        ∃ u, exec (.opticalTrainingDone [r]) s = .next u ∧ u.dev.mod.optEnded = s.dev.mod.optEnded ++ [r.port]
          ∧ (u.dev.link r.port).rxMask = rx ∧ (u.dev.link r.port).txMask = tx
          ∧ (u.dev.link r.port).st = (if rx = 0 ∨ tx = 0 then .down else .aligned)))
    ∧ (∀ (wave : Nat) (shorts : List Nat), s.dev.mod.st = .starting → s.dev.mod.order = 4 → s.dev.mod.waves = wave → wave < 6 →
      ∃ u, exec (.fieldWavePowered wave shorts) s = .next u ∧ u.dev.mod.waves = wave + 1
        ∧ u.dev.mod.order = (if wave = 5 then 5 else 4)
        ∧ ∀ f, f < 48 → (f / 8 ≠ wave ∨ s.dev.mod.shortSet.contains f = true → Claim.field u f = Claim.field s f)
            ∧ (f / 8 = wave → s.dev.mod.shortSet.contains f = false →
                (shorts.contains f = false → (Claim.field u f).powered = true ∧ (Claim.field u f).volt = 600)
                ∧ (shorts.contains f = true → Claim.field u f = Claim.field s f ∧ u.dev.map.isolated.contains f = true
                    ∧ u.dev.mod.shortSet.contains f = true)))
    ∧ (∀ (dis : List (Pos × Pos)) (self routers : List Pos), s.dev.mod.st = .starting → s.dev.mod.order = 5 →
      (dis.map (·.1) ++ dis.map (·.2) ++ self ++ routers).all Pos.ok = true →
      ∃ u, exec (.neighbourTestDone dis self routers) s = .next u ∧ u.dev.mod.order = 6
        ∧ (∀ p ∈ routers, u.dev.map.isDead p = true ∧ u.dev.map.routerDead p = true) ∧ (∀ p ∈ self, p.kind ≠ 0 → u.dev.map.isDead p = true)
        ∧ (∀ p a b, (p, a) ∈ dis → (p, b) ∈ dis → a ≠ b → liveCompute s.dev.map p = true →
            (testersOf s.dev.map p).contains a = true → (testersOf s.dev.map p).contains b = true → u.dev.map.isDead p = true))
    ∧ (∀ turns, s.dev.mod.st = .starting → s.dev.mod.order = 6 → turnsOk s.dev.map turns = true → ∃ u, exec (.mapBuildDone turns) s = .next u
        ∧ u.dev.mod.order = 7 ∧ u.dev.map.spares = s.dev.map.rebuilt ∧ u.dev.map.turns = turnTab turns
        ∧ u.dev.map.epoch = false ∧ u.dev.map.released = true ∧ u.dev.map.change = none ∧ u.dev.map.dead = s.dev.map.dead)
    ∧ (∀ (lacking : List (List (Pos × List Nat))) (failed : Bool), s.dev.mod.st = .starting → s.dev.mod.order = 7 →
      lacking.flatten.all (fun x => x.1.ok) = true →
      let lacks := fun (p : Pos) => p ∈ reporting s.dev lacking ∧ stillLacks p lacking ≠ []
      ((lacking.length = 4 ∨ (lacking.length < 4 ∧ ∀ p, ¬ lacks p)) →
        ∃ u, exec (.firmwareBroadcastDone lacking failed) s = .next u ∧ u.dev.mod.st = .idle ∧ u.dev.mod.order = 8
          ∧ (s.dev.mod.fromParked = false → u.boot.newBank = false) ∧ ∀ p, lacks p → u.dev.map.isDead p = true)
      ∧ (∀ p, lacking.length < 4 → lacks p → exec (.firmwareBroadcastDone lacking failed) s = .next s))
    ∧ (s.dev.mod.st = .starting → s.boot.newBank = true → s.dev.mod.fromParked = false → ∃ u, exec .flaconFallback s = .next u
        ∧ u.boot.activeB = (!s.boot.activeB) ∧ u.boot.newBank = false ∧ u.dev.mod.st = .starting ∧ u.dev.mod.order = 1)
    ∧ (s.boot.newBank = false → exec .flaconFallback s = .next s)
    ∧ (s.boot.thermoDue = none →
      (∀ k n c, s.boot.programming = some (k, n, c, none) → ∃ u, exec .generationProgrammed s = .next u
        ∧ u.boot.slotAt k n = .made k n c ∧ u.boot.programming = none ∧ (k ≠ 5 → u.dev = s.dev)
        ∧ ∀ i m, (i ≠ k ∨ m ≠ n) → u.boot.slotAt i m = s.boot.slotAt i m)
      ∧ (∀ n c r, s.boot.programming = some (5, n, c, some r) → ∃ u, exec .generationProgrammed s = .next u
        ∧ u.boot.slotAt 5 n = .made 5 n c ∧ u.boot.programming = none
        ∧ Claim.Responded u r 0x61 stOK 0 (le 1 n ++ le 3 0 ++ le 4 u.dev.map.live.length)))

/-! ## The mailbox -/

/-- HELLO opens a session at the newest version both ends accept; IDENTIFY and ATTEST answer what the device is; FW_STAGE puts a
flacon into the inactive bank and FW_COMMIT has its generations programmed or its bank marked; TRAIN_LINKS retrains what it names,
fast only where the stored record passes, and TRAIN_LINKS_DONE answers it; SAVE_TRAINING returns the record (R386-R397, R404-R416). -/
def Obligations.IdentityFirmwareAndTraining : Prop :=
  (∀ (s : State) (box seq a b c : Nat) (push : Bool), boxOk .uart box = true → s.dev.carries .uart = true →
    (∀ mj mi, chooseVersion a b c = some (mj, mi) → ∃ u, exec (.hello .uart box seq a b c push) s = .next u
      ∧ (∃ x ∈ u.dev.host.sessions, x.id = s.dev.host.nextSession ∧ x.tr = .uart ∧ x.major = mj ∧ x.minor = mi ∧ x.push = push)
      ∧ u.dev.host.nextSession = (s.dev.host.nextSession + 1) % 2 ^ 32)
    ∧ (chooseVersion a b c = none → ∃ u, exec (.hello .uart box seq a b c push) s = .next u
      ∧ u.dev.host.nextSession = s.dev.host.nextSession ∧ u.dev.host.sessions.length = s.dev.host.sessions.length))
  ∧ (∀ (s : State) (r : Req) (d : Dev),
    (Claim.Admitted s r 0x02 false d → ∃ u, exec (.identify r) s = .next u ∧ u.boot = s.boot
      ∧ Claim.Responded u r 0x02 stOK 0 (identifyPayload s.boot d))
    ∧ (∀ nonce : List Byte, nonce.length = 32 → Claim.Admitted s r 0x03 false d → ∃ u, exec (.attest r nonce) s = .next u
      ∧ u.boot = s.boot ∧ Claim.Responded u r 0x03 stOK 0 (attestation s.boot d nonce))
    ∧ (∀ p : Piece, Claim.Admitted s r 0x10 true d → p.offset = 0 → p.more = false → p.total = p.bytes.length → p.total ≤ 2 ^ 26 →
      s.boot.staging = none → ∃ u, exec (.fwStage r p) s = .next u ∧ u.boot.staged = true ∧ u.boot.stagedBank = some (parseFlacon p.bytes)
      ∧ u.boot.bank u.boot.activeB = s.boot.bank s.boot.activeB ∧ u.boot.otp = s.boot.otp
      ∧ Claim.Responded u r 0x10 stOK 0 (le 4 p.bytes.length))
    ∧ (∀ f : Flacon, Claim.Admitted s r 0x11 true d → s.boot.staged = true → s.boot.stagedBank = some f → s.boot.programming = none →
      verifies s.boot f = true → f.limits = none →
      (f.settings = none → ∃ u, exec (.fwCommit r) s = .next u
        ∧ u.boot.activeB = (!s.boot.activeB) ∧ u.boot.newBank = true ∧ u.boot.staged = false ∧ u.boot.otp = s.boot.otp)
      ∧ (∀ c n nl, newItem s.boot 3 f.settings = some c → s.boot.blanks 3 = n :: nl → ∃ u, exec (.fwCommit r) s = .next u
        ∧ u.boot.programming = some (3, n, c, some r) ∧ u.boot.activeB = s.boot.activeB ∧ u.boot.otp = s.boot.otp))
    ∧ (∀ f : Flacon, Claim.Admitted s r 0x11 true d → s.boot.staged = true → s.boot.stagedBank = some f → s.boot.programming = none →
      f.major = 1 → f.wellFormed = false → ∃ u, exec (.fwCommit r) s = .next u ∧ u.boot = s.boot ∧ Claim.Responded u r 0x11 stBadSignature 0 [])
    ∧ (∀ (p : Piece) (sm pm mode : Nat), mode = 0 ∨ mode = 2 → Claim.Admitted s r 0x20 true d → p.offset = 0 → p.more = false → p.total = 0 → p.bytes = [] →
      d.jobs.any Job.onWafer = false → sm < 2 ^ 24 → pm < 2 ^ 50 → moving d = false → ∃ u, exec (.trainLinks r p sm pm mode) s = .next u
      ∧ u.dev.mod.training = some { req := r, stackMask := sm, portMask := pm, fast := mode == 0 && storedGood s.boot s.dev }
      ∧ u.boot = s.boot
      ∧ ∀ n, n < 50 → pm.testBit n = true → (u.dev.link n).st = .training)
    ∧ (∀ x : Training, s.dev.mod.training = some x → x.req = r → ∃ u, exec (.trainLinksDone [] []) s = .next u
      ∧ u.dev.mod.training = none ∧ Claim.Responded u r 0x20 stOK 0 (List.replicate 74 0xFF))
    ∧ (Claim.Admitted s r 0x21 false d → ∃ u, exec (.saveTraining r 0 0 true) s = .next u ∧ u.boot = s.boot
      ∧ Claim.Responded u r 0x21 stOK 0 (Claim.page d.host.nextSnap (trainingRecord s.boot d).1))
    ∧ (Claim.Admitted s r 0x21 true d → ∃ u, exec (.saveTraining r 0 0 false) s = .next u
      ∧ (u.boot.slot.map (·.bytes)) = some (trainingRecord s.boot d).1 ∧ u.boot.otp = s.boot.otp))

/-- MAP_READ returns the map, MAP_REFINE_COMMIT has a refinement applied or programmed, SET_RANK_TABLE stores a table or asks for a
table change; HBM_COPY moves, writes and reads bytes; TEST_CONTROL, READ_EVENTS; malformed frames, snapshots, doorbells, the event
ring and the registers of the tether (R383, R399-R413, R418-R424, R440, R448). -/
def Obligations.MapsCopiesAndRegisters : Prop :=
  (∀ (s : State) (r : Req) (d : Dev),
    (Claim.Admitted s r 0x60 false d → ∃ u, exec (.mapRead r 0 0) s = .next u ∧ u.dev.map = s.dev.map
      ∧ Claim.Responded u r 0x60 stOK 0 (Claim.page d.host.nextSnap (mapObject s.boot d)))
    ∧ (∀ (p : Piece) (l : List DefEntry), Claim.Admitted s r 0x61 true d → p.offset = 0 → p.more = false →
      p.total = p.bytes.length → p.total ≤ 2 ^ 20 →
      (d.jobs.any Job.onWafer = false → moving d = false → d.map.change = none →
        refineChecks s.boot d.map.live p.bytes = .ok l →
        let m := s.dev.map.withEntries s.dev.map.base (mergeEntries s.dev.map.added (l.filter (fun e => !holdsEntry s.dev.map.live e)))
        ∃ u, exec (.mapRefineApply r p) s = .next u ∧ u.boot = s.boot ∧ u.dev.map.added = m.added ∧ u.dev.map.dead = m.dead
        ∧ (u.dev.map.change.map (·.req)) = some (some r))
      ∧ (∀ n nl, s.boot.programming = none → s.boot.blanks 5 = n :: nl →
        refineChecks s.boot s.boot.defects.2 p.bytes = .ok l → ∃ u, exec (.mapRefineCommit r p) s = .next u
        ∧ (u.boot.programming.map (fun x => (x.1, x.2.1, x.2.2.2))) = some (5, n, some r) ∧ u.boot.otp = s.boot.otp
        ∧ u.dev.map = s.dev.map))
    ∧ (∀ (p : Piece) (j : Job) (t : RankTable), Claim.Admitted s r 0x62 true d → d.jobNamed r.job = some j → d.job? j.slot = some j →
      d.jobBusy j = false → p.offset = 0 → p.more = false → p.total = p.bytes.length → p.total ≤ 2 ^ 20 →
      (∀ e : Dev, e.jobs = d.jobs → parseRanks e j p.bytes = some t) →
      (j.st = .loaded ∨ j.st = .paused → ∃ u, exec (.setRankTable r p) s = .next u
        ∧ (∃ x, u.dev.job? j.slot = some x ∧ x.ranks = some t ∧ x.oldRanks = some t)
        ∧ Claim.Responded u r 0x62 stOK 0 (le 1 (flagAt s.dev.map.epoch 0)))
      ∧ (j.st = .running → d.map.change = none → ∃ u, exec (.setRankTable r p) s = .next u
        ∧ u.dev.jobs = s.dev.jobs ∧ (u.dev.map.change.map (·.ranks)) = some [(j.slot, t)]))
    ∧ (∀ src dst len, Claim.Admitted s r 0x70 true d → copyRangeOk src len = true → copyRangeOk dst len = true → copyMeets src dst len = false →
      copyHeld d src = false → copyHeld d dst = false → poisonedIn d src len = false →
      (∀ px py off, devAddr src ≠ .tile px py off ∧ devAddr dst ≠ .tile px py off) → ∃ u, exec (.hbmCopy r src dst len) s = .next u
      ∧ u.dev.brim.hbm = (s.dev.brim.hbmWrite dst (s.dev.brim.hbmRead src len)).hbm ∧ Claim.Responded u r 0x70 stOK 0 [])
    ∧ (∀ dst px py off (bs : List Byte), Claim.Admitted s r 0x70 true d → devAddr dst = .tile px py off → bs.length ≤ 4000 →
      copyRangeOk dst bs.length = true → copyHeld d dst = false →
      ∃ u, exec (.hbmCopyWrite r dst bs.length bs) s = .next u
      ∧ (u.dev.tile ⟨px, py⟩).mem = (s.dev.tile ⟨px, py⟩).mem.writeN off bs ∧ Claim.Responded u r 0x70 stOK 0 [])
    ∧ (∀ src px py off len, Claim.Admitted s r 0x70 false d → devAddr src = .tile px py off → len ≤ 4000 →
      copyRangeOk src len = true → copyHeld d src = false → Claim.Sound (s.dev.tile ⟨px, py⟩) off len →
      ∃ u, exec (.hbmCopyRead r src len) s = .next u ∧ Claim.SameMemories s u ∧ Claim.Responded u r 0x70 stOK 0 ((s.dev.tile ⟨px, py⟩).mem.readN off len))
    ∧ (∀ a b, Claim.Admitted s r 0x80 true d → ∃ u, exec (.testControl r a b) s = .next u ∧ u.dev.map.suspendTests = a
      ∧ u.dev.map.logSquash = b ∧ ∃ bs, Claim.Responded u r 0x80 stOK 0 bs)
    ∧ (∀ fromSeq most, Claim.Admitted s r 0x51 false d → 1 ≤ most → most ≤ 125 → ∃ u, exec (.readEvents r fromSeq most) s = .next u
      ∧ u.dev.host.log = s.dev.host.log ∧ ∃ n, Claim.Responded u r 0x51 stOK 0 (le 4 n ++ le 4 s.dev.host.nextSeq
          ++ le 2 ((s.dev.host.log.filter (fun x => decide (fromSeq ≤ x.seq))).take most).length ++ le 6 0
          ++ ((s.dev.host.log.filter (fun x => decide (fromSeq ≤ x.seq))).take most).flatMap LogRec.toBytes)))
  ∧ (∀ (s : State) (n : Nat), n < 16 →
    (exec (.malformedFrame .uart 0 n) s = .next s)
    ∧ (s.dev.carries .tether = true → s.dev.host.doorbells.get 0 n = 0 → ∃ u, exec (.malformedFrame .tether n 0) s = .next u
        ∧ u.dev.host.doorbells.get 0 n = 2 ∧ u.dev.host.log = s.dev.host.log)
    ∧ (s.dev.carries .tether = true → s.dev.host.doorbells.get 0 n = 2 → ∃ u, exec (.doorbellDone n) s = .next u
        ∧ u.dev.host.doorbells.get 0 n = 0)
    ∧ (s.dev.host.doorbells.get 0 n ≠ 2 → exec (.doorbellDone n) s = .next s)
    ∧ (∃ u, exec (.snapshotExpiry n) s = .next u ∧ (∀ x ∈ u.dev.host.snapshots, x.id ≠ n)
        ∧ ∀ x ∈ s.dev.host.snapshots, x.id ≠ n → x ∈ u.dev.host.snapshots))
  ∧ (∀ (s : State) (tport size : Nat) (v : Word), tport < 2 → s.dev.tetherOpen tport = true →
    (∃ u, exec (.evrEnable tport size) s = .next u ∧ u.dev.host.evrEnable = true ∧ u.dev.host.evrProd = 0 ∧ u.dev.host.evrCons = 0
      ∧ (s.dev.host.evrEnable = false → u.dev.host.evrSize = size % 8))
    ∧ (∃ u, exec (.registerWrite tport 0x02010 (.write32 v)) s = .next u ∧ u.dev.host.evrCons = v.toNat % 2 ^ 16)
    ∧ (s.dev.host.evrEnable = false → ∃ u, exec (.registerWrite tport 0x02004 (.write32 v)) s = .next u
        ∧ u.dev.host.evrBase.toNat = s.dev.host.evrBase.toNat % 2 ^ 32 + v.toNat * 2 ^ 32)
    ∧ (s.dev.host.evrEnable = true → exec (.registerWrite tport 0x02004 (.write32 v)) s = .next s)
    ∧ (∀ off, 0x10000 ≤ off → off < 0x30000 → off % 0x2000 < 0x1000 → off % 4 = 0 →
        ∃ u, exec (.registerWrite tport off (.write32 v)) s = .next u ∧ u.dev.host.areas = s.dev.host.areas.writeN off (le 4 v.toNat))
    ∧ (∀ off tag, off < 0x100000 → off % 4 = 0 → s.dev.host.taint.get 0 off = 0 →
        exec (.registerWrite tport off (.read32 tag)) s = .next (on s (Dev.emit (.regResp (48 + tport) tag
          (padTo 8 (le 4 (BitVec.ofNat 32 (regValue s.boot s.dev off)).toNat)))))))

/-! ## Links, the tether's window, the test access port -/

/-- LINK_BLOCK settles the credits of a block whose header and markers check, and no other; a credit frame raises the counts that
are newer; CAP_FRAME brings a link up at a version both ends accept, or fails it with 0x0802; a failed port repeats its CAP;
LANE_LOSS takes a receive lane out of service and says so until the peer has applied it, LANE_FRAME narrows the transmit mask; a link
falls for a cause that holds, and retrains; DATA_FRAME is counted and discarded for an unknown fabric job, delivered from the host,
or sent on to the port that the rank table names; DISCARD_SUMMARY logs the discards (R430-R444, R451). -/
def Obligations.LinksCarryFrames : Prop :=
  ∀ (s : State) (port : Nat), port < 50 →
    let l := s.dev.link port
    (∀ hdr m, (l.st = .up ∨ l.st = .aligned) → blockGood l hdr m = true → ∃ u, exec (.linkBlock port hdr m) s = .next u
      ∧ u.dev.link port = settleBlock hdr l ∧ (laneCounts (settleBlock hdr l).freed ≠ laneCounts l.freed →
          Emit.credit port (laneCounts (settleBlock hdr l).freed) ∈ u.dev.brim.emitted))
    ∧ (∀ hdr m, blockGood l hdr m = false → exec (.linkBlock port hdr m) s = .next s)
    ∧ (∀ counts : List Nat, l.st = .up → counts.length = 4 → ∃ u, exec (.creditFrame port counts) s = .next u
      ∧ ∀ v, v < 4 → (u.dev.link port).peerFreed.get 0 v = (if newer (counts.getD v 0 % 65536) (l.peerFreed.get 0 v)
          then counts.getD v 0 % 65536 else l.peerFreed.get 0 v))
    ∧ (l.st = .up → exec (.linkCreditRepeat port) s = .next (on s (Dev.emit (.credit port (laneCounts l.freed)))))
    ∧ (∀ c mj mi, (l.st = .aligned ∨ l.st = .failed) → agree port c = some (mj, mi) → ∃ u, exec (.capFrame port c) s = .next u
      ∧ (u.dev.link port).st = .up ∧ (u.dev.link port).major = mj ∧ (u.dev.link port).minor = mi
      ∧ (u.dev.link port).rxMask = l.rxMask ∧ ∃ x ∈ u.dev.host.log, x.code = 0x0804 ∧ x.seq = s.dev.host.nextSeq)
    ∧ (∀ c, (l.st = .aligned ∨ l.st = .failed) → agree port c = none → ∃ u, exec (.capFrame port c) s = .next u
      ∧ (u.dev.link port).st = .failed ∧ (l.logged0802 = none → ∃ x ∈ u.dev.host.log, x.code = 0x0802 ∧ x.seq = s.dev.host.nextSeq))
    ∧ (l.st = .failed → exec (.capRepeat port) s = .next (on s (Dev.emit (.cap port (s.dev.ownCap port)))))
    ∧ (∀ lane, lane < 8 → l.st = .up → l.rxMask.testBit lane = true → ∃ u, exec (.laneLoss port lane) s = .next u
      ∧ (u.dev.link port).rxMask = l.rxMask - 2 ^ lane ∧ (u.dev.link port).laneDue = true
      ∧ Emit.lane port (l.rxMask - 2 ^ lane) ((l.laneSeq + 1) % 256) ∈ u.dev.brim.emitted
      ∧ Claim.Logged s u 0x0801 (lane + 16 * laneCount (l.rxMask - 2 ^ lane)))
    ∧ (l.st = .up → l.laneDue = true → exec (.laneRepeat port) s = .next (on s (Dev.emit (.lane port l.rxMask l.laneSeq))))
    ∧ (∀ mask seq, l.st = .up → l.laneApplied ≠ seq → exec (.laneFrame port mask seq) s = .next (on s (fun d =>
        d.setLink port { l with txMask := l.txMask &&& mask, laneApplied := seq })))
    ∧ (∀ cause, l.st = .up → fallCause port l cause = true → ∃ u, exec (.linkDown port cause) s = .next u
      ∧ u.dev.link port = { l with st := .down } ∧ u.dev.brim.ports = s.dev.brim.ports
      ∧ Claim.Logged s u 0x0803 (laneCount l.rxMask + 16 * cause))
    ∧ (l.st = .down → l.lastRetrain = none → exec (.linkRetrain port) s = .next (on s (fun d =>
        d.setLink port { l with st := .training, lastRetrain := some d.now })))
    ∧ (∀ res : PortResult, res.port = port → l.st = .training → s.dev.mod.training = none → s.dev.mod.optSides = [] →
      let rx := (res.rxMask % 2 ^ portLanes port) &&& (255 - fusedMask s.dev.map port 0)
      let tx := (res.txMask % 2 ^ portLanes port) &&& (255 - fusedMask s.dev.map port 1)
      ∃ u, exec (.linkRetrainDone res) s = .next u ∧ (u.dev.link port).rxMask = rx ∧ (u.dev.link port).txMask = tx
        ∧ (u.dev.link port).st = (if rx = 0 ∨ tx = 0 then .down else .aligned) ∧ u.dev.map = s.dev.map
        ∧ (rx ≠ 0 → tx ≠ 0 → Emit.cap port (u.dev.ownCap port) ∈ u.dev.brim.emitted))
    ∧ (∀ fjob fhops rank p, l.st = .up → jobOfFjob s.dev fjob = none → ∃ u, exec (.dataFrame port fjob fhops rank p) s = .next u
      ∧ u.dev.wafer = s.dev.wafer ∧ (∃ n, 0 < n ∧ (port, 0, fjob, n) ∈ u.dev.brim.discards)
      ∧ (u.dev.link port).freed.get 0 p.vl = (l.freed.get 0 p.vl + frameCredits p) % 65536)
    ∧ (∀ fjob fhops rank p j t q, l.st = .up → 48 ≤ port → jobOfFjob s.dev fjob = some j → j.ranks = some t →
      s.dev.rankTable j p.epoch = some t → j.origin.isSome = true → p.dst = .phys q →
      ∃ u, exec (.dataFrame port fjob fhops rank p) s = .next u
      ∧ ∃ f ∈ u.dev.wafer.flights, f.pkt.jslot = j.slot ∧ f.pkt.dst = .phys q ∧ f.pkt.data = p.data ∧ f.pkt.epoch = j.epoch
          ∧ f.pkt.src = .port (portId port))
    ∧ (∀ fjob fhops rank p j t m, l.st = .up → port < 48 → jobOfFjob s.dev fjob = some j → s.dev.rankTable j p.epoch = some t →
      p.rank ≠ t.own → t.find p.rank = .port m → m < 48 → m ≠ port → fhops < 16 →
      ∃ u, exec (.dataFrame port fjob fhops rank p) s = .next u
      ∧ ∃ f ∈ u.dev.wafer.flights, f.transit = some (fjob, fhops + 1) ∧ f.pkt.pfx = some p.dst ∧ f.pkt.dst = .port (portId m))
    ∧ (∃ u, exec .discardSummary s = .next u ∧ u.dev.brim.discards = []
      ∧ ∀ x, s.dev.brim.discards = [x] → ∃ r ∈ u.dev.host.log, r.code = 0x0805 ∧ r.count = x.2.2.2
          ∧ r.detail = x.2.1 % 16 + 65536 * x.2.2.1)

/-- MEM_REQ reads and writes HBM through the tether's window, and 0xFF comes back where HBM does not answer; a supply fault of a
side ends the jobs and loses its stacks; stacks report heat; the test access port takes the instructions the state accepts, and
the model stops on an accepted brim debug instruction, whose effect stands in no rule (R275, R402, R447, R457, R464). -/
def Obligations.WindowSuppliesAndTestPort : Prop :=
  (∀ (s : State) (port tag addr len : Nat) (bs : List Byte), 48 ≤ port → port < 50 → (s.dev.link port).st = .up → 4 ≤ len → len ≤ 256 →
    len % 4 = 0 →
    (windowOpen s.dev = true → bit addr 47 = false → exec (.memReq port tag true addr len bs) s = .next (on s (fun d =>
        { d with brim := d.brim.hbmWrite addr (padTo len bs) })))
    ∧ (windowOpen s.dev = true → bit addr 47 = false → poisonedIn s.dev addr len = false →
        exec (.memReq port tag false addr len bs) s = .next (on s (Dev.emit (.memResp port tag (s.dev.brim.hbmRead addr len)))))
    ∧ (windowOpen s.dev = false → exec (.memReq port tag true addr len bs) s = .next s
        ∧ exec (.memReq port tag false addr len bs) s = .next (on s (Dev.emit (.memResp port tag (List.replicate len 0xFF))))))
  ∧ (∀ (s : State) (side : Nat) (optical : Bool), side < 4 → (s.dev.mod.st = .idle ∨ s.dev.mod.st = .active) →
    ∃ u, exec (.hbmOrOpticalSupplyFault side optical) s = .next u ∧ (∀ j ∈ u.dev.jobs, j.st ≠ .running)
      ∧ (optical = false → u.dev.mod.hbmSides.contains side = true ∧ ∀ c ∈ u.dev.brim.hbm, stackSide (c.1 / 2 ^ 37) ≠ side)
      ∧ (optical = true → u.dev.mod.optSides.contains side = true ∧ u.dev.brim.hbm = s.dev.brim.hbm
          ∧ ∀ x ∈ u.dev.brim.links, portSideOf x.1 = side → x.2.st = .dark))
  ∧ (∀ (s : State) (stack : Nat), stack < 24 →
    (∃ u, exec (.stackReportsAbove85C stack true) s = .next u ∧ u.dev.brim.hot.contains stack = true)
    ∧ ∃ u, exec (.stackReportsAbove85C stack false) s = .next u ∧ u.dev.brim.hot.contains stack = false)
  ∧ (∀ s : State,
    (∀ i, tapOn s.dev = false → exec (.tapInstruction i) s = .next s)
    ∧ (tapOn s.dev = true → (s.dev.mod.st = .active ∨ s.dev.mod.st = .idle ∨ s.dev.mod.st = .parked) →
      exec (.tapInstruction .idcode) s = .next (on s (fun d =>
        ({ d with mod := { d.mod with tap := .idcode } } : Dev).emit (.tdo 0xB2304A6D))))
    ∧ (tapOn s.dev = true → s.dev.mod.st ≠ .parked → exec (.tapInstruction .extest) s = .next (on s (fun d =>
        { d with mod := { d.mod with tap := .bypass } })))
    ∧ (s.dev.mod.st = .parked → s.dev.mod.inForce.jtagMode = 2 →
      exec (.tapInstruction .brimDebug) s = .refused .serviceDocumentation))
end

