-- ==== Sys2Proof/Laws/Mem.lean ====
section
/-! SUPPORT. Laws of byte memories: read after write, and every operation keeps the canonical form. -/

namespace Sys2Proof.Machine

/-- Every address of a memory lies above a bound. -/
def Mem.above (b : Nat) (m : Mem) : Prop := ∀ c ∈ m, b < c.1

theorem Mem.wf_cons {k : Nat} {v : Byte} {r : Mem} :
    Mem.wf ((k, v) :: r) = true ↔ v ≠ Mem.blank ∧ Mem.above k r ∧ Mem.wf r = true := by
  induction r generalizing k v with
  | nil => simp [Mem.wf, Mem.above]
  | cons x r ih =>
    obtain ⟨k', v'⟩ := x
    rw [Mem.wf]
    simp only [Bool.and_eq_true, bne_iff_ne, decide_eq_true_eq]
    constructor
    · rintro ⟨⟨h1, h2⟩, h3⟩
      refine ⟨h1, ?_, h3⟩
      intro c hc
      rcases List.mem_cons.1 hc with rfl | hc
      · exact h2
      · exact Nat.lt_trans h2 ((ih.1 h3).2.1 c hc)
    · rintro ⟨h1, h2, h3⟩
      exact ⟨⟨h1, h2 (k', v') (by simp)⟩, h3⟩

theorem Mem.read_above {m : Mem} {a : Nat} (h : Mem.above a m) : m.read a = Mem.blank := by
  induction m with
  | nil => rfl
  | cons x r ih =>
    obtain ⟨k, v⟩ := x
    have : k ≠ a := by have := h (k, v) (by simp); simp only at this; omega
    rw [Mem.read, if_neg this]
    exact ih (fun c hc => h c (by simp [hc]))

theorem Mem.write_above {m : Mem} {k a : Nat} {b : Byte} (h : Mem.above k m) (ha : k < a) :
    Mem.above k (m.write a b) := by
  induction m with
  | nil => intro c hc; simp only [Mem.write] at hc; split at hc <;> simp_all
  | cons x r ih =>
    obtain ⟨j, v⟩ := x
    have hj : k < j := h (j, v) (by simp)
    have hr : Mem.above k r := fun c hc => h c (by simp [hc])
    have ih := ih hr
    intro c hc
    simp only [Mem.write] at hc
    split at hc
    · split at hc
      · exact h c hc
      · rcases List.mem_cons.1 hc with rfl | hc
        · exact ha
        · exact h c hc
    · split at hc
      · split at hc
        · exact hr c hc
        · rcases List.mem_cons.1 hc with rfl | hc
          · exact ha
          · exact hr c hc
      · rcases List.mem_cons.1 hc with rfl | hc
        · exact hj
        · exact ih c hc

/-- A write keeps the canonical form. -/
theorem Mem.wf_write {m : Mem} (a : Nat) (b : Byte) (h : m.wf = true) : (m.write a b).wf = true := by
  induction m with
  | nil => simp only [Mem.write]; split <;> simp_all [Mem.wf]
  | cons x r ih =>
    obtain ⟨k, v⟩ := x
    have hc := Mem.wf_cons.1 h
    simp only [Mem.write]
    split
    · split
      · exact h
      · rename_i h1 h2
        refine Mem.wf_cons.2 ⟨h2, ?_, h⟩
        intro c hm
        rcases List.mem_cons.1 hm with rfl | hm
        · exact h1
        · exact Nat.lt_trans h1 (hc.2.1 c hm)
    · split
      · rename_i h1 h2
        subst h2
        split
        · exact hc.2.2
        · rename_i h3
          exact Mem.wf_cons.2 ⟨h3, hc.2.1, hc.2.2⟩
      · rename_i h1 h2
        exact Mem.wf_cons.2 ⟨hc.1, Mem.write_above hc.2.1 (by omega), ih hc.2.2⟩

/-- A run of writes keeps the canonical form. -/
theorem Mem.wf_writeN {m : Mem} (a : Nat) (bs : List Byte) (h : m.wf = true) : (m.writeN a bs).wf = true := by
  induction bs generalizing m a with
  | nil => exact h
  | cons b bs ih => exact ih (a + 1) (Mem.wf_write a b h)

theorem Mem.wf_writeLe {m : Mem} (a n v : Nat) (h : m.wf = true) : (m.writeLe a n v).wf = true :=
  Mem.wf_writeN a _ h

theorem Mem.above_filter {m : Mem} {k : Nat} (f : Host.Cell → Bool) (h : Mem.above k m) : Mem.above k (m.filter f) :=
  fun c hc => h c (List.mem_filter.1 hc).1

/-- Leaving cells out keeps the canonical form. -/
theorem Mem.wf_filter {m : Mem} (f : Host.Cell → Bool) (h : m.wf = true) : Mem.wf (m.filter f) = true := by
  induction m with
  | nil => rfl
  | cons x r ih =>
    obtain ⟨k, v⟩ := x
    have hc := Mem.wf_cons.1 h
    simp only [List.filter_cons]
    split
    · exact Mem.wf_cons.2 ⟨hc.1, Mem.above_filter f hc.2.1, ih hc.2.2⟩
    · exact ih hc.2.2

theorem Mem.wf_clear {m : Mem} (a n : Nat) (h : m.wf = true) : (m.clear a n).wf = true := Mem.wf_filter _ h

theorem Mem.wf_window {m : Mem} (a n : Nat) (h : m.wf = true) : (m.window a n).wf = true := Mem.wf_filter _ h

/-- What is written is read back. -/
theorem Mem.read_write_self {m : Mem} (a : Nat) (b : Byte) (h : m.wf = true) : (m.write a b).read a = b := by
  induction m with
  | nil => simp only [Mem.write]; split <;> simp_all [Mem.read]
  | cons x r ih =>
    obtain ⟨k, v⟩ := x
    have hc := Mem.wf_cons.1 h
    simp only [Mem.write]
    split
    · rename_i h1
      split
      · rename_i h2
        subst h2
        refine Mem.read_above ?_
        intro c hm
        rcases List.mem_cons.1 hm with rfl | hm
        · exact h1
        · exact Nat.lt_trans h1 (hc.2.1 c hm)
      · simp [Mem.read]
    · split
      · rename_i h1 h2
        subst h2
        split
        · rename_i h3
          subst h3
          exact Mem.read_above hc.2.1
        · simp [Mem.read]
      · rename_i h1 h2
        rw [Mem.read, if_neg (fun e => h2 e.symm)]
        exact ih hc.2.2

/-- Every other byte reads as before. -/
theorem Mem.read_write_ne (m : Mem) {a c : Nat} (b : Byte) (h : c ≠ a) : (m.write a b).read c = m.read c := by
  induction m with
  | nil => simp only [Mem.write]; split <;> simp [Mem.read, Ne.symm h]
  | cons x r ih =>
    obtain ⟨k, v⟩ := x
    simp only [Mem.write]
    split
    · split
      · rfl
      · simp [Mem.read, Ne.symm h]
    · split
      · rename_i h2
        subst h2
        split <;> simp [Mem.read, Ne.symm h]
      · simp only [Mem.read, ih]

/-- Bytes outside a run of writes read as before. -/
theorem Mem.read_writeN_out (m : Mem) (a : Nat) (bs : List Byte) {c : Nat} (h : c < a ∨ a + bs.length ≤ c) :
    (m.writeN a bs).read c = m.read c := by
  induction bs generalizing m a with
  | nil => rfl
  | cons b bs ih =>
    simp only [List.length_cons] at h
    rw [Mem.writeN, ih _ _ (by omega), Mem.read_write_ne _ _ (by omega)]

/-- A byte of a run of writes is read back. -/
theorem Mem.read_writeN_in {m : Mem} (a : Nat) (bs : List Byte) (h : m.wf = true) {i : Nat} (hi : i < bs.length) :
    (m.writeN a bs).read (a + i) = bs[i] := by
  induction bs generalizing m a i with
  | nil => simp at hi
  | cons b bs ih =>
    rw [Mem.writeN]
    cases i with
    | zero =>
      rw [Mem.read_writeN_out _ _ _ (by omega)]
      exact Mem.read_write_self a b h
    | succ j =>
      have := ih (a := a + 1) (i := j) (Mem.wf_write a b h) (by simpa using hi)
      simp only [List.getElem_cons_succ]
      rw [← this]
      congr 1
      omega

/-- A run that was written is read back whole. -/
theorem Mem.readN_writeN {m : Mem} (a : Nat) (bs : List Byte) (h : m.wf = true) :
    (m.writeN a bs).readN a bs.length = bs := by
  refine List.ext_getElem (by simp [Mem.readN]) ?_
  intro i h1 h2
  simp only [Mem.readN, List.getElem_map, List.getElem_range]
  exact Mem.read_writeN_in a bs h h2

end Sys2Proof.Machine
end

