-- ==== Sys2Proof/Laws/PerInstr.lean ====
section
/-! SUPPORT. Statements made once per command. Place: a well-formed command names positions of the square only. -/

namespace Sys2Proof.Laws.Place

/-- The positions that a command names. -/
def named : Instr → List Pos
  | .add t _ _ _ _ => [t]
  | .sub t _ _ _ _ => [t]
  | .and t _ _ _ _ => [t]
  | .or t _ _ _ _ => [t]
  | .xor t _ _ _ _ => [t]
  | .sll t _ _ _ _ => [t]
  | .srl t _ _ _ _ => [t]
  | .sra t _ _ _ _ => [t]
  | .slt t _ _ _ _ => [t]
  | .sltu t _ _ _ _ => [t]
  | .mul t _ _ _ _ => [t]
  | .mulhu t _ _ _ _ => [t]
  | .mins t _ _ _ _ => [t]
  | .maxs t _ _ _ _ => [t]
  | .addi t _ _ _ _ => [t]
  | .andi t _ _ _ _ => [t]
  | .ori t _ _ _ _ => [t]
  | .xori t _ _ _ _ => [t]
  | .shi t _ _ _ _ => [t]
  | .slti t _ _ _ _ => [t]
  | .lui t _ _ _ => [t]
  | .beq t _ _ _ _ => [t]
  | .bne t _ _ _ _ => [t]
  | .blt t _ _ _ _ => [t]
  | .bge t _ _ _ _ => [t]
  | .bltu t _ _ _ _ => [t]
  | .bgeu t _ _ _ _ => [t]
  | .jal t _ _ _ => [t]
  | .jalr t _ _ _ _ => [t]
  | .reservedOpcode t _ _ => [t]
  | .lb t _ _ _ _ => [t]
  | .lbu t _ _ _ _ => [t]
  | .lh t _ _ _ _ => [t]
  | .lhu t _ _ _ _ => [t]
  | .lw t _ _ _ _ => [t]
  | .sb t _ _ _ _ => [t]
  | .sh t _ _ _ _ => [t]
  | .sw t _ _ _ _ => [t]
  | .mcopy t _ _ _ _ => [t]
  | .cvt t _ _ _ _ _ => [t]
  | .cvst t _ _ _ _ _ => [t]
  | .acc t _ _ _ _ _ => [t]
  | .accv t _ _ _ _ _ => [t]
  | .oprd t _ _ _ _ => [t]
  | .opcp t _ _ _ _ => [t]
  | .send t _ _ _ _ => [t]
  | .sendr t _ _ _ _ _ => [t]
  | .predict t _ _ _ => [t]
  | .sqput t _ _ _ => [t]
  | .sqget t _ _ _ => [t]
  | .sqcnt t _ _ _ => [t]
  | .hbarr t _ _ => [t]
  | .hbwait t _ _ => [t]
  | .hbsync t _ _ => [t]
  | .put t _ _ _ _ _ => [t]
  | .get t _ _ _ _ _ => [t]
  | .radd t _ _ _ _ _ => [t]
  | .mcast t _ _ _ _ _ => [t]
  | .signal t _ _ _ _ _ => [t]
  | .redc t _ _ _ _ _ => [t]
  | .setrc t _ _ => [t]
  | .ccrd t _ _ _ => [t]
  | .ccwait t _ _ _ => [t]
  | .cctake t _ _ _ => [t]
  | .ccset t _ _ _ => [t]
  | .top t _ _ => [t]
  | .drain t _ _ _ _ _ => [t]
  | .discard t _ _ => [t]
  | .twait t _ _ => [t]
  | .vop t _ _ => [t]
  | .tend t _ => [t]
  | .tretire t _ _ _ => [t]
  | .yield t _ => [t]
  | .raise t _ _ _ => [t]
  | .gets t _ _ _ => [t]
  | .scan t _ => [t]
  | .issueQueueHead t => [t]
  | .weightFillComplete t => [t]
  | .laneBlockComplete t _ _ => [t]
  | .drainComplete t _ => [t]
  | .scoutComplete t => [t]
  | .vopComplete t _ => [t]
  | .tokenAdmit t _ => [t]
  | .instanceFire t => [t]
  | .steerForward t _ => [t]
  | .steerSpeculate t _ => [t]
  | .mergeForward t _ => [t]
  | .neighbourToken _ _ _ _ _ => []
  | .creditStallTimeout t _ => [t]
  | .consumerStallTimeout t _ => [t]
  | .jobStopQuiesceEnd _ => []
  | .drydownComplete _ => []
  | .sqWaitTimeout t _ => [t]
  | .hbWaitTimeout t _ => [t]
  | .hatbandCrossing _ => []
  | .crossingSeen t _ => [t]
  | .retentionCopyDone t _ => [t]
  | .routerForward _ _ => []
  | .egressPortTile _ => []
  | .putPacket _ => []
  | .getReq _ => []
  | .raddPacket _ => []
  | .signalPacket _ => []
  | .tokenPacket _ => []
  | .ack _ => []
  | .getResp _ => []
  | .signalResp _ => []
  | .notice _ => []
  | .creditPacket _ => []
  | .nack _ => []
  | .mcastPacket _ => []
  | .redPacket _ => []
  | .mgmtPacket _ => []
  | .scanPacket _ => []
  | .remoteTimeout tm => match tm with
    | .tile t _ => [t]
    | .token t _ _ => [t]
    | .port _ _ => []
  | .seqQuarantineEnd o _ => match o with
    | .tile t => [t]
    | .token t _ => [t]
    | .port _ => []
  | .creditRepeat t _ => [t]
  | .tableWriteDone _ => []
  | .epochChangeTimer _ => []
  | .epochRelease => []
  | .dmaDescriptorStart t _ => [t]
  | .dmaPieceDone _ _ _ _ _ => []
  | .dmaComplete _ _ => []
  | .hbmScrubRead _ _ _ => []
  | .portCommit _ _ => []
  | .deepChannelForward t _ => [t]
  | .stepConfirm _ => []
  | .gateOpen _ => []
  | .loadJob _ _ _ => []
  | .startJob _ _ => []
  | .startDeliveryDone _ => []
  | .pauseJob _ _ _ => []
  | .boundaryPauseReady _ => []
  | .boundaryPauseTimeout _ => []
  | .pauseQuiesceDone _ => []
  | .pauseScanOutDone _ => []
  | .resumeJob _ _ _ => []
  | .resumeScanInDone _ => []
  | .unloadJobKeep _ => []
  | .unloadJobDiscard _ => []
  | .jobStatus _ => []
  | .drydown _ _ _ => []
  | .rollbackQuiesceDone _ => []
  | .rollbackRestoreDone _ => []
  | .tilePoll t _ => [t]
  | .takeoverLoadDone _ => []
  | .fieldShort _ => []
  | .replacementScanOutDone _ => []
  | .replacementResumeDone _ => []
  | .fieldTestStart t => [t]
  | .fieldTestDone t _ => [t]
  | .fieldTestRetest t _ => [t]
  | .ledgerInterval _ => []
  | .suspensionEnd _ => []
  | .regulatorStep _ => []
  | .idleEntry => []
  | .setEnvelope _ _ _ _ _ => []
  | .readLedger _ _ _ _ _ => []
  | .powerState _ _ => []
  | .powerTransitionDone => []
  | .standbyEntry => []
  | .inputApplied => []
  | .inputQualified => []
  | .undervoltage => []
  | .standbyDomainStop => []
  | .coolantEmergency => []
  | .caseOvertemp => []
  | .wakeN => []
  | .startConditionsMet => []
  | .moduleStart => []
  | .flaconVerify => []
  | .hbmTrainingDone _ => []
  | .opticalTrainingDone _ => []
  | .fieldWavePowered _ _ => []
  | .neighbourTestDone dis self routers => dis.map (·.1) ++ dis.map (·.2) ++ self ++ routers
  | .mapBuildDone _ => []
  | .firmwareBroadcastDone lacking _ => lacking.flatten.map (·.1)
  | .flaconFallback => []
  | .hello _ _ _ _ _ _ _ => []
  | .identify _ => []
  | .attest _ _ => []
  | .fwStage _ _ => []
  | .fwCommit _ => []
  | .trainLinks _ _ _ _ _ => []
  | .trainLinksDone _ _ => []
  | .saveTraining _ _ _ _ => []
  | .readEvents _ _ _ => []
  | .mapRead _ _ _ => []
  | .mapRefineApply _ _ => []
  | .mapRefineCommit _ _ => []
  | .setRankTable _ _ => []
  | .hbmCopy _ _ _ _ => []
  | .hbmCopyWrite _ _ _ _ => []
  | .hbmCopyRead _ _ _ => []
  | .testControl _ _ _ => []
  | .malformedFrame _ _ _ => []
  | .snapshotExpiry _ => []
  | .doorbellDone _ => []
  | .evrEnable _ _ => []
  | .registerWrite _ _ _ => []
  | .linkBlock _ _ _ => []
  | .dataFrame _ _ _ _ _ => []
  | .creditFrame _ _ => []
  | .capFrame _ _ => []
  | .laneFrame _ _ _ => []
  | .memReq _ _ _ _ _ _ => []
  | .laneLoss _ _ => []
  | .laneRepeat _ => []
  | .linkCreditRepeat _ => []
  | .capRepeat _ => []
  | .linkDown _ _ => []
  | .linkRetrain _ => []
  | .linkRetrainDone _ => []
  | .discardSummary => []
  | .boundaryRecordWritten t => [t]
  | .generationProgrammed => []
  | .hbmOrOpticalSupplyFault _ _ => []
  | .stackReportsAbove85C _ _ => []
  | .tapInstruction _ => []

/-- A command that is well-formed names positions of the square only. -/
def Statement (i : Instr) : Prop := i.wf = true → ∀ p ∈ named i, p.ok = true

theorem of_ok {t : Pos} (h : t.ok = true) : ∀ p ∈ [t], p.ok = true := by
  intro p hp
  rw [List.mem_singleton] at hp
  rw [hp, h]

theorem of_slot {t : Pos} {ts : Nat} (h : slotOk t ts = true) : ∀ p ∈ [t], p.ok = true :=
  of_ok (Bool.and_eq_true_iff.mp h).1

theorem of_and {t : Pos} {b : Bool} (h : (t.ok && b) = true) : ∀ p ∈ [t], p.ok = true :=
  of_ok (Bool.and_eq_true_iff.mp h).1

theorem of_none : ∀ p ∈ ([] : List Pos), p.ok = true := fun _ h => nomatch h

theorem add a0 a1 a2 a3 a4 : Statement (.add a0 a1 a2 a3 a4) :=
  fun h => of_slot h
theorem sub a0 a1 a2 a3 a4 : Statement (.sub a0 a1 a2 a3 a4) :=
  fun h => of_slot h
theorem and a0 a1 a2 a3 a4 : Statement (.and a0 a1 a2 a3 a4) :=
  fun h => of_slot h
theorem or a0 a1 a2 a3 a4 : Statement (.or a0 a1 a2 a3 a4) :=
  fun h => of_slot h
theorem xor a0 a1 a2 a3 a4 : Statement (.xor a0 a1 a2 a3 a4) :=
  fun h => of_slot h
theorem sll a0 a1 a2 a3 a4 : Statement (.sll a0 a1 a2 a3 a4) :=
  fun h => of_slot h
theorem srl a0 a1 a2 a3 a4 : Statement (.srl a0 a1 a2 a3 a4) :=
  fun h => of_slot h
theorem sra a0 a1 a2 a3 a4 : Statement (.sra a0 a1 a2 a3 a4) :=
  fun h => of_slot h
theorem slt a0 a1 a2 a3 a4 : Statement (.slt a0 a1 a2 a3 a4) :=
  fun h => of_slot h
theorem sltu a0 a1 a2 a3 a4 : Statement (.sltu a0 a1 a2 a3 a4) :=
  fun h => of_slot h
theorem mul a0 a1 a2 a3 a4 : Statement (.mul a0 a1 a2 a3 a4) :=
  fun h => of_slot h
theorem mulhu a0 a1 a2 a3 a4 : Statement (.mulhu a0 a1 a2 a3 a4) :=
  fun h => of_slot h
theorem mins a0 a1 a2 a3 a4 : Statement (.mins a0 a1 a2 a3 a4) :=
  fun h => of_slot h
theorem maxs a0 a1 a2 a3 a4 : Statement (.maxs a0 a1 a2 a3 a4) :=
  fun h => of_slot h
theorem addi a0 a1 a2 a3 a4 : Statement (.addi a0 a1 a2 a3 a4) :=
  fun h => of_slot h
theorem andi a0 a1 a2 a3 a4 : Statement (.andi a0 a1 a2 a3 a4) :=
  fun h => of_slot h
theorem ori a0 a1 a2 a3 a4 : Statement (.ori a0 a1 a2 a3 a4) :=
  fun h => of_slot h
theorem xori a0 a1 a2 a3 a4 : Statement (.xori a0 a1 a2 a3 a4) :=
  fun h => of_slot h
theorem shi a0 a1 a2 a3 a4 : Statement (.shi a0 a1 a2 a3 a4) :=
  fun h => of_slot h
theorem slti a0 a1 a2 a3 a4 : Statement (.slti a0 a1 a2 a3 a4) :=
  fun h => of_slot h
theorem lui a0 a1 a2 a3 : Statement (.lui a0 a1 a2 a3) :=
  fun h => of_slot h
theorem beq a0 a1 a2 a3 a4 : Statement (.beq a0 a1 a2 a3 a4) :=
  fun h => of_slot h
theorem bne a0 a1 a2 a3 a4 : Statement (.bne a0 a1 a2 a3 a4) :=
  fun h => of_slot h
theorem blt a0 a1 a2 a3 a4 : Statement (.blt a0 a1 a2 a3 a4) :=
  fun h => of_slot h
theorem bge a0 a1 a2 a3 a4 : Statement (.bge a0 a1 a2 a3 a4) :=
  fun h => of_slot h
theorem bltu a0 a1 a2 a3 a4 : Statement (.bltu a0 a1 a2 a3 a4) :=
  fun h => of_slot h
theorem bgeu a0 a1 a2 a3 a4 : Statement (.bgeu a0 a1 a2 a3 a4) :=
  fun h => of_slot h
theorem jal a0 a1 a2 a3 : Statement (.jal a0 a1 a2 a3) :=
  fun h => of_slot h
theorem jalr a0 a1 a2 a3 a4 : Statement (.jalr a0 a1 a2 a3 a4) :=
  fun h => of_slot h
theorem reservedOpcode a0 a1 a2 : Statement (.reservedOpcode a0 a1 a2) :=
  fun h => of_slot h
theorem lb a0 a1 a2 a3 a4 : Statement (.lb a0 a1 a2 a3 a4) :=
  fun h => of_slot h
theorem lbu a0 a1 a2 a3 a4 : Statement (.lbu a0 a1 a2 a3 a4) :=
  fun h => of_slot h
theorem lh a0 a1 a2 a3 a4 : Statement (.lh a0 a1 a2 a3 a4) :=
  fun h => of_slot h
theorem lhu a0 a1 a2 a3 a4 : Statement (.lhu a0 a1 a2 a3 a4) :=
  fun h => of_slot h
theorem lw a0 a1 a2 a3 a4 : Statement (.lw a0 a1 a2 a3 a4) :=
  fun h => of_slot h
theorem sb a0 a1 a2 a3 a4 : Statement (.sb a0 a1 a2 a3 a4) :=
  fun h => of_slot h
theorem sh a0 a1 a2 a3 a4 : Statement (.sh a0 a1 a2 a3 a4) :=
  fun h => of_slot h
theorem sw a0 a1 a2 a3 a4 : Statement (.sw a0 a1 a2 a3 a4) :=
  fun h => of_slot h
theorem mcopy a0 a1 a2 a3 a4 : Statement (.mcopy a0 a1 a2 a3 a4) :=
  fun h => of_slot h
theorem cvt a0 a1 a2 a3 a4 a5 : Statement (.cvt a0 a1 a2 a3 a4 a5) :=
  fun h => of_slot h
theorem cvst a0 a1 a2 a3 a4 a5 : Statement (.cvst a0 a1 a2 a3 a4 a5) :=
  fun h => of_slot h
theorem acc a0 a1 a2 a3 a4 a5 : Statement (.acc a0 a1 a2 a3 a4 a5) :=
  fun h => of_slot h
theorem accv a0 a1 a2 a3 a4 a5 : Statement (.accv a0 a1 a2 a3 a4 a5) :=
  fun h => of_slot h
theorem oprd a0 a1 a2 a3 a4 : Statement (.oprd a0 a1 a2 a3 a4) :=
  fun h => of_slot h
theorem opcp a0 a1 a2 a3 a4 : Statement (.opcp a0 a1 a2 a3 a4) :=
  fun h => of_slot h
theorem send a0 a1 a2 a3 a4 : Statement (.send a0 a1 a2 a3 a4) :=
  fun h => of_slot h
theorem sendr a0 a1 a2 a3 a4 a5 : Statement (.sendr a0 a1 a2 a3 a4 a5) :=
  fun h => of_slot h
theorem predict a0 a1 a2 a3 : Statement (.predict a0 a1 a2 a3) :=
  fun h => of_slot h
theorem sqput a0 a1 a2 a3 : Statement (.sqput a0 a1 a2 a3) :=
  fun h => of_slot h
theorem sqget a0 a1 a2 a3 : Statement (.sqget a0 a1 a2 a3) :=
  fun h => of_slot h
theorem sqcnt a0 a1 a2 a3 : Statement (.sqcnt a0 a1 a2 a3) :=
  fun h => of_slot h
theorem hbarr a0 a1 a2 : Statement (.hbarr a0 a1 a2) :=
  fun h => of_slot h
theorem hbwait a0 a1 a2 : Statement (.hbwait a0 a1 a2) :=
  fun h => of_slot h
theorem hbsync a0 a1 a2 : Statement (.hbsync a0 a1 a2) :=
  fun h => of_slot h
theorem put a0 a1 a2 a3 a4 a5 : Statement (.put a0 a1 a2 a3 a4 a5) :=
  fun h => of_slot h
theorem get a0 a1 a2 a3 a4 a5 : Statement (.get a0 a1 a2 a3 a4 a5) :=
  fun h => of_slot h
theorem radd a0 a1 a2 a3 a4 a5 : Statement (.radd a0 a1 a2 a3 a4 a5) :=
  fun h => of_slot h
theorem mcast a0 a1 a2 a3 a4 a5 : Statement (.mcast a0 a1 a2 a3 a4 a5) :=
  fun h => of_slot h
theorem signal a0 a1 a2 a3 a4 a5 : Statement (.signal a0 a1 a2 a3 a4 a5) :=
  fun h => of_slot h
theorem redc a0 a1 a2 a3 a4 a5 : Statement (.redc a0 a1 a2 a3 a4 a5) :=
  fun h => of_slot h
theorem setrc a0 a1 a2 : Statement (.setrc a0 a1 a2) :=
  fun h => of_slot h
theorem ccrd a0 a1 a2 a3 : Statement (.ccrd a0 a1 a2 a3) :=
  fun h => of_slot h
theorem ccwait a0 a1 a2 a3 : Statement (.ccwait a0 a1 a2 a3) :=
  fun h => of_slot h
theorem cctake a0 a1 a2 a3 : Statement (.cctake a0 a1 a2 a3) :=
  fun h => of_slot h
theorem ccset a0 a1 a2 a3 : Statement (.ccset a0 a1 a2 a3) :=
  fun h => of_slot h
theorem top a0 a1 a2 : Statement (.top a0 a1 a2) :=
  fun h => of_slot h
theorem drain a0 a1 a2 a3 a4 a5 : Statement (.drain a0 a1 a2 a3 a4 a5) :=
  fun h => of_slot h
theorem discard a0 a1 a2 : Statement (.discard a0 a1 a2) :=
  fun h => of_slot h
theorem twait a0 a1 a2 : Statement (.twait a0 a1 a2) :=
  fun h => of_slot h
theorem vop a0 a1 a2 : Statement (.vop a0 a1 a2) :=
  fun h => of_slot h
theorem tend a0 a1 : Statement (.tend a0 a1) :=
  fun h => of_slot h
theorem tretire a0 a1 a2 a3 : Statement (.tretire a0 a1 a2 a3) :=
  fun h => of_slot h
theorem yield a0 a1 : Statement (.yield a0 a1) :=
  fun h => of_slot h
theorem raise a0 a1 a2 a3 : Statement (.raise a0 a1 a2 a3) :=
  fun h => of_slot h
theorem gets a0 a1 a2 a3 : Statement (.gets a0 a1 a2 a3) :=
  fun h => of_slot h
theorem scan a0 a1 : Statement (.scan a0 a1) :=
  fun h => of_slot h
theorem issueQueueHead a0 : Statement (.issueQueueHead a0) :=
  fun h => of_ok h
theorem weightFillComplete a0 : Statement (.weightFillComplete a0) :=
  fun h => of_ok h
theorem laneBlockComplete a0 a1 a2 : Statement (.laneBlockComplete a0 a1 a2) :=
  fun h => of_ok h
theorem drainComplete a0 a1 : Statement (.drainComplete a0 a1) :=
  fun h => of_ok h
theorem scoutComplete a0 : Statement (.scoutComplete a0) :=
  fun h => of_ok h
theorem vopComplete a0 a1 : Statement (.vopComplete a0 a1) :=
  fun h => of_ok h
theorem tokenAdmit a0 a1 : Statement (.tokenAdmit a0 a1) :=
  fun h => of_and h
theorem instanceFire a0 : Statement (.instanceFire a0) :=
  fun h => of_ok h
theorem steerForward a0 a1 : Statement (.steerForward a0 a1) :=
  fun h => of_and h
theorem steerSpeculate a0 a1 : Statement (.steerSpeculate a0 a1) :=
  fun h => of_and h
theorem mergeForward a0 a1 : Statement (.mergeForward a0 a1) :=
  fun h => of_and h
theorem neighbourToken a0 a1 a2 a3 a4 : Statement (.neighbourToken a0 a1 a2 a3 a4) :=
  fun _ => of_none
theorem creditStallTimeout a0 a1 : Statement (.creditStallTimeout a0 a1) :=
  fun h => of_and h
theorem consumerStallTimeout a0 a1 : Statement (.consumerStallTimeout a0 a1) :=
  fun h => of_and h
theorem jobStopQuiesceEnd a0 : Statement (.jobStopQuiesceEnd a0) :=
  fun _ => of_none
theorem drydownComplete a0 : Statement (.drydownComplete a0) :=
  fun _ => of_none
theorem sqWaitTimeout a0 a1 : Statement (.sqWaitTimeout a0 a1) :=
  fun h => of_slot h
theorem hbWaitTimeout a0 a1 : Statement (.hbWaitTimeout a0 a1) :=
  fun h => of_slot h
theorem hatbandCrossing a0 : Statement (.hatbandCrossing a0) :=
  fun _ => of_none
theorem crossingSeen a0 a1 : Statement (.crossingSeen a0 a1) :=
  fun h => of_and h
theorem retentionCopyDone a0 a1 : Statement (.retentionCopyDone a0 a1) :=
  fun h => of_ok h
theorem routerForward a0 a1 : Statement (.routerForward a0 a1) :=
  fun _ => of_none
theorem egressPortTile a0 : Statement (.egressPortTile a0) :=
  fun _ => of_none
theorem putPacket a0 : Statement (.putPacket a0) :=
  fun _ => of_none
theorem getReq a0 : Statement (.getReq a0) :=
  fun _ => of_none
theorem raddPacket a0 : Statement (.raddPacket a0) :=
  fun _ => of_none
theorem signalPacket a0 : Statement (.signalPacket a0) :=
  fun _ => of_none
theorem tokenPacket a0 : Statement (.tokenPacket a0) :=
  fun _ => of_none
theorem ack a0 : Statement (.ack a0) :=
  fun _ => of_none
theorem getResp a0 : Statement (.getResp a0) :=
  fun _ => of_none
theorem signalResp a0 : Statement (.signalResp a0) :=
  fun _ => of_none
theorem notice a0 : Statement (.notice a0) :=
  fun _ => of_none
theorem creditPacket a0 : Statement (.creditPacket a0) :=
  fun _ => of_none
theorem nack a0 : Statement (.nack a0) :=
  fun _ => of_none
theorem mcastPacket a0 : Statement (.mcastPacket a0) :=
  fun _ => of_none
theorem redPacket a0 : Statement (.redPacket a0) :=
  fun _ => of_none
theorem mgmtPacket a0 : Statement (.mgmtPacket a0) :=
  fun _ => of_none
theorem scanPacket a0 : Statement (.scanPacket a0) :=
  fun _ => of_none
theorem remoteTimeout (tm : Timer) : Statement (.remoteTimeout tm) := by
  intro h
  cases tm with
  | tile t seq => exact of_and h
  | token t port num => exact of_ok (Bool.and_eq_true_iff.mp (Bool.and_eq_true_iff.mp h).1).1
  | port id seq => exact of_none
theorem seqQuarantineEnd (o : Numbers) (seq : Nat) : Statement (.seqQuarantineEnd o seq) := by
  intro h
  cases o with
  | tile t => exact of_and h
  | token t port => exact of_ok (Bool.and_eq_true_iff.mp (Bool.and_eq_true_iff.mp h).1).1
  | port id => exact of_none
theorem creditRepeat a0 a1 : Statement (.creditRepeat a0 a1) :=
  fun h => of_and h
theorem tableWriteDone a0 : Statement (.tableWriteDone a0) :=
  fun _ => of_none
theorem epochChangeTimer a0 : Statement (.epochChangeTimer a0) :=
  fun _ => of_none
theorem epochRelease : Statement .epochRelease :=
  fun _ => of_none
theorem dmaDescriptorStart a0 a1 : Statement (.dmaDescriptorStart a0 a1) :=
  fun h => of_and h
theorem dmaPieceDone a0 a1 a2 a3 a4 : Statement (.dmaPieceDone a0 a1 a2 a3 a4) :=
  fun _ => of_none
theorem dmaComplete a0 a1 : Statement (.dmaComplete a0 a1) :=
  fun _ => of_none
theorem hbmScrubRead a0 a1 a2 : Statement (.hbmScrubRead a0 a1 a2) :=
  fun _ => of_none
theorem portCommit a0 a1 : Statement (.portCommit a0 a1) :=
  fun _ => of_none
theorem deepChannelForward a0 a1 : Statement (.deepChannelForward a0 a1) :=
  fun h => of_and h
theorem stepConfirm a0 : Statement (.stepConfirm a0) :=
  fun _ => of_none
theorem gateOpen a0 : Statement (.gateOpen a0) :=
  fun _ => of_none
theorem loadJob a0 a1 a2 : Statement (.loadJob a0 a1 a2) :=
  fun _ => of_none
theorem startJob a0 a1 : Statement (.startJob a0 a1) :=
  fun _ => of_none
theorem startDeliveryDone a0 : Statement (.startDeliveryDone a0) :=
  fun _ => of_none
theorem pauseJob a0 a1 a2 : Statement (.pauseJob a0 a1 a2) :=
  fun _ => of_none
theorem boundaryPauseReady a0 : Statement (.boundaryPauseReady a0) :=
  fun _ => of_none
theorem boundaryPauseTimeout a0 : Statement (.boundaryPauseTimeout a0) :=
  fun _ => of_none
theorem pauseQuiesceDone a0 : Statement (.pauseQuiesceDone a0) :=
  fun _ => of_none
theorem pauseScanOutDone a0 : Statement (.pauseScanOutDone a0) :=
  fun _ => of_none
theorem resumeJob a0 a1 a2 : Statement (.resumeJob a0 a1 a2) :=
  fun _ => of_none
theorem resumeScanInDone a0 : Statement (.resumeScanInDone a0) :=
  fun _ => of_none
theorem unloadJobKeep a0 : Statement (.unloadJobKeep a0) :=
  fun _ => of_none
theorem unloadJobDiscard a0 : Statement (.unloadJobDiscard a0) :=
  fun _ => of_none
theorem jobStatus a0 : Statement (.jobStatus a0) :=
  fun _ => of_none
theorem drydown a0 a1 a2 : Statement (.drydown a0 a1 a2) :=
  fun _ => of_none
theorem rollbackQuiesceDone a0 : Statement (.rollbackQuiesceDone a0) :=
  fun _ => of_none
theorem rollbackRestoreDone a0 : Statement (.rollbackRestoreDone a0) :=
  fun _ => of_none
theorem tilePoll a0 a1 : Statement (.tilePoll a0 a1) :=
  fun h => of_ok h
theorem takeoverLoadDone a0 : Statement (.takeoverLoadDone a0) :=
  fun _ => of_none
theorem fieldShort a0 : Statement (.fieldShort a0) :=
  fun _ => of_none
theorem replacementScanOutDone a0 : Statement (.replacementScanOutDone a0) :=
  fun _ => of_none
theorem replacementResumeDone a0 : Statement (.replacementResumeDone a0) :=
  fun _ => of_none
theorem fieldTestStart a0 : Statement (.fieldTestStart a0) :=
  fun h => of_ok h
theorem fieldTestDone a0 a1 : Statement (.fieldTestDone a0 a1) :=
  fun h => of_ok h
theorem fieldTestRetest a0 a1 : Statement (.fieldTestRetest a0 a1) :=
  fun h => of_ok h
theorem ledgerInterval a0 : Statement (.ledgerInterval a0) :=
  fun _ => of_none
theorem suspensionEnd a0 : Statement (.suspensionEnd a0) :=
  fun _ => of_none
theorem regulatorStep a0 : Statement (.regulatorStep a0) :=
  fun _ => of_none
theorem idleEntry : Statement .idleEntry :=
  fun _ => of_none
theorem setEnvelope a0 a1 a2 a3 a4 : Statement (.setEnvelope a0 a1 a2 a3 a4) :=
  fun _ => of_none
theorem readLedger a0 a1 a2 a3 a4 : Statement (.readLedger a0 a1 a2 a3 a4) :=
  fun _ => of_none
theorem powerState a0 a1 : Statement (.powerState a0 a1) :=
  fun _ => of_none
theorem powerTransitionDone : Statement .powerTransitionDone :=
  fun _ => of_none
theorem standbyEntry : Statement .standbyEntry :=
  fun _ => of_none
theorem inputApplied : Statement .inputApplied :=
  fun _ => of_none
theorem inputQualified : Statement .inputQualified :=
  fun _ => of_none
theorem undervoltage : Statement .undervoltage :=
  fun _ => of_none
theorem standbyDomainStop : Statement .standbyDomainStop :=
  fun _ => of_none
theorem coolantEmergency : Statement .coolantEmergency :=
  fun _ => of_none
theorem caseOvertemp : Statement .caseOvertemp :=
  fun _ => of_none
theorem wakeN : Statement .wakeN :=
  fun _ => of_none
theorem startConditionsMet : Statement .startConditionsMet :=
  fun _ => of_none
theorem moduleStart : Statement .moduleStart :=
  fun _ => of_none
theorem flaconVerify : Statement .flaconVerify :=
  fun _ => of_none
theorem hbmTrainingDone a0 : Statement (.hbmTrainingDone a0) :=
  fun _ => of_none
theorem opticalTrainingDone a0 : Statement (.opticalTrainingDone a0) :=
  fun _ => of_none
theorem fieldWavePowered a0 a1 : Statement (.fieldWavePowered a0 a1) :=
  fun _ => of_none
theorem neighbourTestDone a0 a1 a2 : Statement (.neighbourTestDone a0 a1 a2) :=
  fun h => List.all_eq_true.mp h
theorem mapBuildDone a0 : Statement (.mapBuildDone a0) :=
  fun _ => of_none
theorem firmwareBroadcastDone a0 a1 : Statement (.firmwareBroadcastDone a0 a1) :=
  fun h p hp => by
    obtain ⟨x, hx, rfl⟩ := List.mem_map.mp hp
    exact List.all_eq_true.mp h x hx
theorem flaconFallback : Statement .flaconFallback :=
  fun _ => of_none
theorem hello a0 a1 a2 a3 a4 a5 a6 : Statement (.hello a0 a1 a2 a3 a4 a5 a6) :=
  fun _ => of_none
theorem identify a0 : Statement (.identify a0) :=
  fun _ => of_none
theorem attest a0 a1 : Statement (.attest a0 a1) :=
  fun _ => of_none
theorem fwStage a0 a1 : Statement (.fwStage a0 a1) :=
  fun _ => of_none
theorem fwCommit a0 : Statement (.fwCommit a0) :=
  fun _ => of_none
theorem trainLinks a0 a1 a2 a3 a4 : Statement (.trainLinks a0 a1 a2 a3 a4) :=
  fun _ => of_none
theorem trainLinksDone a0 a1 : Statement (.trainLinksDone a0 a1) :=
  fun _ => of_none
theorem saveTraining a0 a1 a2 a3 : Statement (.saveTraining a0 a1 a2 a3) :=
  fun _ => of_none
theorem readEvents a0 a1 a2 : Statement (.readEvents a0 a1 a2) :=
  fun _ => of_none
theorem mapRead a0 a1 a2 : Statement (.mapRead a0 a1 a2) :=
  fun _ => of_none
theorem mapRefineApply a0 a1 : Statement (.mapRefineApply a0 a1) :=
  fun _ => of_none
theorem mapRefineCommit a0 a1 : Statement (.mapRefineCommit a0 a1) :=
  fun _ => of_none
theorem setRankTable a0 a1 : Statement (.setRankTable a0 a1) :=
  fun _ => of_none
theorem hbmCopy a0 a1 a2 a3 : Statement (.hbmCopy a0 a1 a2 a3) :=
  fun _ => of_none
theorem hbmCopyWrite a0 a1 a2 a3 : Statement (.hbmCopyWrite a0 a1 a2 a3) :=
  fun _ => of_none
theorem hbmCopyRead a0 a1 a2 : Statement (.hbmCopyRead a0 a1 a2) :=
  fun _ => of_none
theorem testControl a0 a1 a2 : Statement (.testControl a0 a1 a2) :=
  fun _ => of_none
theorem malformedFrame a0 a1 a2 : Statement (.malformedFrame a0 a1 a2) :=
  fun _ => of_none
theorem snapshotExpiry a0 : Statement (.snapshotExpiry a0) :=
  fun _ => of_none
theorem doorbellDone a0 : Statement (.doorbellDone a0) :=
  fun _ => of_none
theorem evrEnable a0 a1 : Statement (.evrEnable a0 a1) :=
  fun _ => of_none
theorem registerWrite a0 a1 a2 : Statement (.registerWrite a0 a1 a2) :=
  fun _ => of_none
theorem linkBlock a0 a1 a2 : Statement (.linkBlock a0 a1 a2) :=
  fun _ => of_none
theorem dataFrame a0 a1 a2 a3 a4 : Statement (.dataFrame a0 a1 a2 a3 a4) :=
  fun _ => of_none
theorem creditFrame a0 a1 : Statement (.creditFrame a0 a1) :=
  fun _ => of_none
theorem capFrame a0 a1 : Statement (.capFrame a0 a1) :=
  fun _ => of_none
theorem laneFrame a0 a1 a2 : Statement (.laneFrame a0 a1 a2) :=
  fun _ => of_none
theorem memReq a0 a1 a2 a3 a4 a5 : Statement (.memReq a0 a1 a2 a3 a4 a5) :=
  fun _ => of_none
theorem laneLoss a0 a1 : Statement (.laneLoss a0 a1) :=
  fun _ => of_none
theorem laneRepeat a0 : Statement (.laneRepeat a0) :=
  fun _ => of_none
theorem linkCreditRepeat a0 : Statement (.linkCreditRepeat a0) :=
  fun _ => of_none
theorem capRepeat a0 : Statement (.capRepeat a0) :=
  fun _ => of_none
theorem linkDown a0 a1 : Statement (.linkDown a0 a1) :=
  fun _ => of_none
theorem linkRetrain a0 : Statement (.linkRetrain a0) :=
  fun _ => of_none
theorem linkRetrainDone a0 : Statement (.linkRetrainDone a0) :=
  fun _ => of_none
theorem discardSummary : Statement .discardSummary :=
  fun _ => of_none
theorem boundaryRecordWritten a0 : Statement (.boundaryRecordWritten a0) :=
  fun h => of_ok h
theorem generationProgrammed : Statement .generationProgrammed :=
  fun _ => of_none
theorem hbmOrOpticalSupplyFault a0 a1 : Statement (.hbmOrOpticalSupplyFault a0 a1) :=
  fun _ => of_none
theorem stackReportsAbove85C a0 a1 : Statement (.stackReportsAbove85C a0 a1) :=
  fun _ => of_none
theorem tapInstruction a0 : Statement (.tapInstruction a0) :=
  fun _ => of_none

end Sys2Proof.Laws.Place
end

