-- ==== Sys2Proof/Laws/Tab.lean ====
section
/-! SUPPORT. Laws of the sparse tables: what is set is read back, every other key reads as before; and positions of
the square have keys of their own. -/

namespace Sys2Proof.Machine

@[simp] theorem Tab.get_set_self {α : Type} (d : α) (m : Tab α) (a : Nat) (v : α) : (Tab.set m a v).get d a = v := by
  induction m with
  | nil => simp [Tab.set, Tab.get]
  | cons x r ih =>
    obtain ⟨k, w⟩ := x
    simp only [Tab.set]
    split
    · simp [Tab.get]
    · split
      · simp [Tab.get]
      · rename_i h
        rw [Tab.get, if_neg (fun e => h e.symm), ih]

theorem Tab.get_set_ne {α : Type} (d : α) (m : Tab α) {a b : Nat} (v : α) (h : b ≠ a) :
    (Tab.set m a v).get d b = Tab.get d m b := by
  induction m with
  | nil => simp [Tab.set, Tab.get, Ne.symm h]
  | cons x r ih =>
    obtain ⟨k, w⟩ := x
    simp only [Tab.set]
    split
    · simp [Tab.get, Ne.symm h]
    · split
      · subst_vars; simp [Tab.get, Ne.symm h]
      · simp only [Tab.get, ih]

/-- The later of two sets of one key stands. -/
@[simp] theorem Tab.set_set {α : Type} (m : Tab α) (a : Nat) (v w : α) : Tab.set (Tab.set m a v) a w = Tab.set m a w := by
  induction m with
  | nil => simp [Tab.set]
  | cons x r ih =>
    obtain ⟨k, u⟩ := x
    simp only [Tab.set]
    split
    · simp [Tab.set]
    · split
      · simp [Tab.set]
      · rename_i h1 h2
        simp only [Tab.set, if_neg h1, if_neg h2, ih]

/-- Every entry of a table after a set is the new value or an entry of the old table. -/
theorem Tab.mem_set {α : Type} {m : Tab α} {a : Nat} {v : α} {x : Nat × α} (h : x ∈ Tab.set m a v) :
    x = (a, v) ∨ x ∈ m := by
  induction m with
  | nil => simpa [Tab.set] using h
  | cons y r ih =>
    obtain ⟨k, w⟩ := y
    simp only [Tab.set] at h
    split at h
    · simp only [List.mem_cons] at h ⊢; tauto
    · split at h
      · simp only [List.mem_cons] at h ⊢; tauto
      · simp only [List.mem_cons] at h ⊢
        rcases h with h | h
        · tauto
        · rcases ih h with h | h <;> tauto

/-- What a table reads is its default or one of its entries. -/
theorem Tab.get_mem {α : Type} (d : α) (m : Tab α) (a : Nat) : Tab.get d m a = d ∨ (a, Tab.get d m a) ∈ m := by
  induction m with
  | nil => simp [Tab.get]
  | cons y r ih =>
    obtain ⟨k, w⟩ := y
    simp only [Tab.get]
    split
    · subst_vars; simp
    · rcases ih with h | h
      · exact .inl h
      · exact .inr (by simp [h])

theorem Pos.ix_inj {p q : Pos} (hp : p.ok = true) (hq : q.ok = true) (h : p.ix = q.ix) : p = q := by
  obtain ⟨a, b⟩ := p
  obtain ⟨c, e⟩ := q
  simp only [Pos.ok, decide_eq_true_eq] at hp hq
  simp only [Pos.ix] at h
  have : b = e := by omega
  subst this
  have : a = c := by omega
  subst this
  rfl

end Sys2Proof.Machine
end

