-- ==== Sys2Proof/Laws/State.lean ====
section
/-! SUPPORT. One lemma per field per named update of the state, true by unfolding; and read-after-write for the
tables behind them. -/

namespace Sys2Proof.Machine

/-! ## Tiles of the device -/

@[simp] theorem Dev.setTile_freeCtr (d : Dev) (p : Pos) (t : Tile) : (d.setTile p t).freeCtr = d.freeCtr := rfl
@[simp] theorem Dev.setTile_brim (d : Dev) (p : Pos) (t : Tile) : (d.setTile p t).brim = d.brim := rfl
@[simp] theorem Dev.setTile_map (d : Dev) (p : Pos) (t : Tile) : (d.setTile p t).map = d.map := rfl
@[simp] theorem Dev.setTile_jobs (d : Dev) (p : Pos) (t : Tile) : (d.setTile p t).jobs = d.jobs := rfl
@[simp] theorem Dev.setTile_host (d : Dev) (p : Pos) (t : Tile) : (d.setTile p t).host = d.host := rfl
@[simp] theorem Dev.setTile_energy (d : Dev) (p : Pos) (t : Tile) : (d.setTile p t).energy = d.energy := rfl
@[simp] theorem Dev.setTile_mod (d : Dev) (p : Pos) (t : Tile) : (d.setTile p t).mod = d.mod := rfl
@[simp] theorem Dev.setTile_wafer_flights (d : Dev) (p : Pos) (t : Tile) : ((d.setTile p t).wafer).flights = d.wafer.flights := rfl
@[simp] theorem Dev.setTile_wafer_nextId (d : Dev) (p : Pos) (t : Tile) : ((d.setTile p t).wafer).nextId = d.wafer.nextId := rfl
@[simp] theorem Dev.setTile_wafer_links (d : Dev) (p : Pos) (t : Tile) : ((d.setTile p t).wafer).links = d.wafer.links := rfl
@[simp] theorem Dev.setTile_tiles (d : Dev) (p : Pos) (t : Tile) : (d.setTile p t).wafer.tiles = Tab.set d.wafer.tiles p.ix t := rfl
@[simp] theorem Dev.onTile_freeCtr (d : Dev) (p : Pos) (f : Tile → Tile) : (d.onTile p f).freeCtr = d.freeCtr := rfl
@[simp] theorem Dev.onTile_brim (d : Dev) (p : Pos) (f : Tile → Tile) : (d.onTile p f).brim = d.brim := rfl
@[simp] theorem Dev.onTile_map (d : Dev) (p : Pos) (f : Tile → Tile) : (d.onTile p f).map = d.map := rfl
@[simp] theorem Dev.onTile_jobs (d : Dev) (p : Pos) (f : Tile → Tile) : (d.onTile p f).jobs = d.jobs := rfl
@[simp] theorem Dev.onTile_host (d : Dev) (p : Pos) (f : Tile → Tile) : (d.onTile p f).host = d.host := rfl
@[simp] theorem Dev.onTile_energy (d : Dev) (p : Pos) (f : Tile → Tile) : (d.onTile p f).energy = d.energy := rfl
@[simp] theorem Dev.onTile_mod (d : Dev) (p : Pos) (f : Tile → Tile) : (d.onTile p f).mod = d.mod := rfl
@[simp] theorem Dev.onTile_wafer_flights (d : Dev) (p : Pos) (f : Tile → Tile) : ((d.onTile p f).wafer).flights = d.wafer.flights := rfl
@[simp] theorem Dev.onTile_wafer_nextId (d : Dev) (p : Pos) (f : Tile → Tile) : ((d.onTile p f).wafer).nextId = d.wafer.nextId := rfl
@[simp] theorem Dev.onTile_wafer_links (d : Dev) (p : Pos) (f : Tile → Tile) : ((d.onTile p f).wafer).links = d.wafer.links := rfl

/-! ## Jobs, time, emissions -/

@[simp] theorem Dev.onJob_freeCtr (d : Dev) (k : Nat) (f : Job → Job) : (d.onJob k f).freeCtr = d.freeCtr := rfl
@[simp] theorem Dev.onJob_wafer (d : Dev) (k : Nat) (f : Job → Job) : (d.onJob k f).wafer = d.wafer := rfl
@[simp] theorem Dev.onJob_brim (d : Dev) (k : Nat) (f : Job → Job) : (d.onJob k f).brim = d.brim := rfl
@[simp] theorem Dev.onJob_map (d : Dev) (k : Nat) (f : Job → Job) : (d.onJob k f).map = d.map := rfl
@[simp] theorem Dev.onJob_host (d : Dev) (k : Nat) (f : Job → Job) : (d.onJob k f).host = d.host := rfl
@[simp] theorem Dev.onJob_energy (d : Dev) (k : Nat) (f : Job → Job) : (d.onJob k f).energy = d.energy := rfl
@[simp] theorem Dev.onJob_mod (d : Dev) (k : Nat) (f : Job → Job) : (d.onJob k f).mod = d.mod := rfl
@[simp] theorem Dev.onJob_jobs (d : Dev) (k : Nat) (f : Job → Job) : (d.onJob k f).jobs = d.jobs.map (fun j => if j.slot = k then f j else j) := rfl
@[simp] theorem Dev.stamp_freeCtr (d : Dev) : (d.stamp).freeCtr = d.freeCtr := rfl
@[simp] theorem Dev.stamp_wafer (d : Dev) : (d.stamp).wafer = d.wafer := rfl
@[simp] theorem Dev.stamp_brim (d : Dev) : (d.stamp).brim = d.brim := rfl
@[simp] theorem Dev.stamp_map (d : Dev) : (d.stamp).map = d.map := rfl
@[simp] theorem Dev.stamp_jobs (d : Dev) : (d.stamp).jobs = d.jobs := rfl
@[simp] theorem Dev.stamp_host (d : Dev) : (d.stamp).host = d.host := rfl
@[simp] theorem Dev.stamp_energy (d : Dev) : (d.stamp).energy = d.energy := rfl
@[simp] theorem Dev.stamp_mod_st (d : Dev) : (d.stamp.mod).st = d.mod.st := rfl
@[simp] theorem Dev.stamp_mod_order (d : Dev) : (d.stamp.mod).order = d.mod.order := rfl
@[simp] theorem Dev.stamp_mod_waves (d : Dev) : (d.stamp.mod).waves = d.mod.waves := rfl
@[simp] theorem Dev.stamp_mod_hbmEnded (d : Dev) : (d.stamp.mod).hbmEnded = d.mod.hbmEnded := rfl
@[simp] theorem Dev.stamp_mod_optEnded (d : Dev) : (d.stamp.mod).optEnded = d.mod.optEnded := rfl
@[simp] theorem Dev.stamp_mod_fromParked (d : Dev) : (d.stamp.mod).fromParked = d.mod.fromParked := rfl
@[simp] theorem Dev.stamp_mod_fastHbm (d : Dev) : (d.stamp.mod).fastHbm = d.mod.fastHbm := rfl
@[simp] theorem Dev.stamp_mod_fastOpt (d : Dev) : (d.stamp.mod).fastOpt = d.mod.fastOpt := rfl
@[simp] theorem Dev.stamp_mod_standbyOn (d : Dev) : (d.stamp.mod).standbyOn = d.mod.standbyOn := rfl
@[simp] theorem Dev.stamp_mod_qualified (d : Dev) : (d.stamp.mod).qualified = d.mod.qualified := rfl
@[simp] theorem Dev.stamp_mod_inputLow (d : Dev) : (d.stamp.mod).inputLow = d.mod.inputLow := rfl
@[simp] theorem Dev.stamp_mod_heldStart (d : Dev) : (d.stamp.mod).heldStart = d.mod.heldStart := rfl
@[simp] theorem Dev.stamp_mod_cause (d : Dev) : (d.stamp.mod).cause = d.mod.cause := rfl
@[simp] theorem Dev.stamp_mod_fellBack (d : Dev) : (d.stamp.mod).fellBack = d.mod.fellBack := rfl
@[simp] theorem Dev.stamp_mod_needWake (d : Dev) : (d.stamp.mod).needWake = d.mod.needWake := rfl
@[simp] theorem Dev.stamp_mod_move (d : Dev) : (d.stamp.mod).move = d.mod.move := rfl
@[simp] theorem Dev.stamp_mod_moveReq (d : Dev) : (d.stamp.mod).moveReq = d.mod.moveReq := rfl
@[simp] theorem Dev.stamp_mod_training (d : Dev) : (d.stamp.mod).training = d.mod.training := rfl
@[simp] theorem Dev.stamp_mod_failedStacks (d : Dev) : (d.stamp.mod).failedStacks = d.mod.failedStacks := rfl
@[simp] theorem Dev.stamp_mod_shortSet (d : Dev) : (d.stamp.mod).shortSet = d.mod.shortSet := rfl
@[simp] theorem Dev.stamp_mod_hbmSides (d : Dev) : (d.stamp.mod).hbmSides = d.mod.hbmSides := rfl
@[simp] theorem Dev.stamp_mod_optSides (d : Dev) : (d.stamp.mod).optSides = d.mod.optSides := rfl
@[simp] theorem Dev.stamp_mod_tap (d : Dev) : (d.stamp.mod).tap = d.mod.tap := rfl
@[simp] theorem Dev.stamp_mod_inForce (d : Dev) : (d.stamp.mod).inForce = d.mod.inForce := rfl
@[simp] theorem Dev.stamp_now (d : Dev) : d.stamp.now = (d.now + 1) % 2 ^ 64 := rfl
@[simp] theorem Dev.emit_freeCtr (d : Dev) (e : Emit) : (d.emit e).freeCtr = d.freeCtr := rfl
@[simp] theorem Dev.emit_wafer (d : Dev) (e : Emit) : (d.emit e).wafer = d.wafer := rfl
@[simp] theorem Dev.emit_map (d : Dev) (e : Emit) : (d.emit e).map = d.map := rfl
@[simp] theorem Dev.emit_jobs (d : Dev) (e : Emit) : (d.emit e).jobs = d.jobs := rfl
@[simp] theorem Dev.emit_host (d : Dev) (e : Emit) : (d.emit e).host = d.host := rfl
@[simp] theorem Dev.emit_energy (d : Dev) (e : Emit) : (d.emit e).energy = d.energy := rfl
@[simp] theorem Dev.emit_mod (d : Dev) (e : Emit) : (d.emit e).mod = d.mod := rfl
@[simp] theorem Dev.emit_brim_hbm (d : Dev) (e : Emit) : ((d.emit e).brim).hbm = d.brim.hbm := rfl
@[simp] theorem Dev.emit_brim_poisoned (d : Dev) (e : Emit) : ((d.emit e).brim).poisoned = d.brim.poisoned := rfl
@[simp] theorem Dev.emit_brim_corrected (d : Dev) (e : Emit) : ((d.emit e).brim).corrected = d.brim.corrected := rfl
@[simp] theorem Dev.emit_brim_ports (d : Dev) (e : Emit) : ((d.emit e).brim).ports = d.brim.ports := rfl
@[simp] theorem Dev.emit_brim_runs (d : Dev) (e : Emit) : ((d.emit e).brim).runs = d.brim.runs := rfl
@[simp] theorem Dev.emit_brim_nextRun (d : Dev) (e : Emit) : ((d.emit e).brim).nextRun = d.brim.nextRun := rfl
@[simp] theorem Dev.emit_brim_links (d : Dev) (e : Emit) : ((d.emit e).brim).links = d.brim.links := rfl
@[simp] theorem Dev.emit_brim_discards (d : Dev) (e : Emit) : ((d.emit e).brim).discards = d.brim.discards := rfl
@[simp] theorem Dev.emit_brim_hot (d : Dev) (e : Emit) : ((d.emit e).brim).hot = d.brim.hot := rfl
@[simp] theorem Dev.emit_emitted (d : Dev) (e : Emit) : (d.emit e).brim.emitted = d.brim.emitted ++ [e] := rfl
@[simp] theorem Dev.onSession_freeCtr (d : Dev) (tr : Transport) (id : Nat) (f : Session → Session) : (d.onSession tr id f).freeCtr = d.freeCtr := rfl
@[simp] theorem Dev.onSession_wafer (d : Dev) (tr : Transport) (id : Nat) (f : Session → Session) : (d.onSession tr id f).wafer = d.wafer := rfl
@[simp] theorem Dev.onSession_brim (d : Dev) (tr : Transport) (id : Nat) (f : Session → Session) : (d.onSession tr id f).brim = d.brim := rfl
@[simp] theorem Dev.onSession_map (d : Dev) (tr : Transport) (id : Nat) (f : Session → Session) : (d.onSession tr id f).map = d.map := rfl
@[simp] theorem Dev.onSession_jobs (d : Dev) (tr : Transport) (id : Nat) (f : Session → Session) : (d.onSession tr id f).jobs = d.jobs := rfl
@[simp] theorem Dev.onSession_energy (d : Dev) (tr : Transport) (id : Nat) (f : Session → Session) : (d.onSession tr id f).energy = d.energy := rfl
@[simp] theorem Dev.onSession_mod (d : Dev) (tr : Transport) (id : Nat) (f : Session → Session) : (d.onSession tr id f).mod = d.mod := rfl
@[simp] theorem Dev.onSession_host_doorbells (d : Dev) (tr : Transport) (id : Nat) (f : Session → Session) : ((d.onSession tr id f).host).doorbells = d.host.doorbells := rfl
@[simp] theorem Dev.onSession_host_areas (d : Dev) (tr : Transport) (id : Nat) (f : Session → Session) : ((d.onSession tr id f).host).areas = d.host.areas := rfl
@[simp] theorem Dev.onSession_host_nextSession (d : Dev) (tr : Transport) (id : Nat) (f : Session → Session) : ((d.onSession tr id f).host).nextSession = d.host.nextSession := rfl
@[simp] theorem Dev.onSession_host_partials (d : Dev) (tr : Transport) (id : Nat) (f : Session → Session) : ((d.onSession tr id f).host).partials = d.host.partials := rfl
@[simp] theorem Dev.onSession_host_snapshots (d : Dev) (tr : Transport) (id : Nat) (f : Session → Session) : ((d.onSession tr id f).host).snapshots = d.host.snapshots := rfl
@[simp] theorem Dev.onSession_host_nextSnap (d : Dev) (tr : Transport) (id : Nat) (f : Session → Session) : ((d.onSession tr id f).host).nextSnap = d.host.nextSnap := rfl
@[simp] theorem Dev.onSession_host_log (d : Dev) (tr : Transport) (id : Nat) (f : Session → Session) : ((d.onSession tr id f).host).log = d.host.log := rfl
@[simp] theorem Dev.onSession_host_nextSeq (d : Dev) (tr : Transport) (id : Nat) (f : Session → Session) : ((d.onSession tr id f).host).nextSeq = d.host.nextSeq := rfl
@[simp] theorem Dev.onSession_host_evrBase (d : Dev) (tr : Transport) (id : Nat) (f : Session → Session) : ((d.onSession tr id f).host).evrBase = d.host.evrBase := rfl
@[simp] theorem Dev.onSession_host_evrEnable (d : Dev) (tr : Transport) (id : Nat) (f : Session → Session) : ((d.onSession tr id f).host).evrEnable = d.host.evrEnable := rfl
@[simp] theorem Dev.onSession_host_evrSize (d : Dev) (tr : Transport) (id : Nat) (f : Session → Session) : ((d.onSession tr id f).host).evrSize = d.host.evrSize := rfl
@[simp] theorem Dev.onSession_host_evrOvf (d : Dev) (tr : Transport) (id : Nat) (f : Session → Session) : ((d.onSession tr id f).host).evrOvf = d.host.evrOvf := rfl
@[simp] theorem Dev.onSession_host_evrProd (d : Dev) (tr : Transport) (id : Nat) (f : Session → Session) : ((d.onSession tr id f).host).evrProd = d.host.evrProd := rfl
@[simp] theorem Dev.onSession_host_evrCons (d : Dev) (tr : Transport) (id : Nat) (f : Session → Session) : ((d.onSession tr id f).host).evrCons = d.host.evrCons := rfl
@[simp] theorem Dev.onSession_host_evrLost (d : Dev) (tr : Transport) (id : Nat) (f : Session → Session) : ((d.onSession tr id f).host).evrLost = d.host.evrLost := rfl
@[simp] theorem Dev.onSession_host_evrPort (d : Dev) (tr : Transport) (id : Nat) (f : Session → Session) : ((d.onSession tr id f).host).evrPort = d.host.evrPort := rfl
@[simp] theorem Dev.onSession_host_placements (d : Dev) (tr : Transport) (id : Nat) (f : Session → Session) : ((d.onSession tr id f).host).placements = d.host.placements := rfl
@[simp] theorem Dev.onSession_host_taint (d : Dev) (tr : Transport) (id : Nat) (f : Session → Session) : ((d.onSession tr id f).host).taint = d.host.taint := rfl
@[simp] theorem Dev.inject_freeCtr (d : Dev) (pl : Place) (k : Packet) : (d.inject pl k).freeCtr = d.freeCtr := rfl
@[simp] theorem Dev.inject_brim (d : Dev) (pl : Place) (k : Packet) : (d.inject pl k).brim = d.brim := rfl
@[simp] theorem Dev.inject_map (d : Dev) (pl : Place) (k : Packet) : (d.inject pl k).map = d.map := rfl
@[simp] theorem Dev.inject_jobs (d : Dev) (pl : Place) (k : Packet) : (d.inject pl k).jobs = d.jobs := rfl
@[simp] theorem Dev.inject_host (d : Dev) (pl : Place) (k : Packet) : (d.inject pl k).host = d.host := rfl
@[simp] theorem Dev.inject_energy (d : Dev) (pl : Place) (k : Packet) : (d.inject pl k).energy = d.energy := rfl
@[simp] theorem Dev.inject_mod (d : Dev) (pl : Place) (k : Packet) : (d.inject pl k).mod = d.mod := rfl
@[simp] theorem Dev.inject_tiles (d : Dev) (pl : Place) (k : Packet) : (d.inject pl k).wafer.tiles = d.wafer.tiles := rfl
@[simp] theorem Dev.inject_links (d : Dev) (pl : Place) (k : Packet) : (d.inject pl k).wafer.links = d.wafer.links := rfl
@[simp] theorem Dev.free_wafer (d : Dev) : (d.free.2).wafer = d.wafer := rfl
@[simp] theorem Dev.free_brim (d : Dev) : (d.free.2).brim = d.brim := rfl
@[simp] theorem Dev.free_map (d : Dev) : (d.free.2).map = d.map := rfl
@[simp] theorem Dev.free_jobs (d : Dev) : (d.free.2).jobs = d.jobs := rfl
@[simp] theorem Dev.free_host (d : Dev) : (d.free.2).host = d.host := rfl
@[simp] theorem Dev.free_energy (d : Dev) : (d.free.2).energy = d.energy := rfl
@[simp] theorem Dev.free_mod (d : Dev) : (d.free.2).mod = d.mod := rfl
@[simp] theorem Dev.free_value (d : Dev) : d.free.1 = Config.freeWord d.freeCtr := rfl
@[simp] theorem Dev.free_freeCtr (d : Dev) : d.free.2.freeCtr = d.freeCtr + 1 := rfl

/-! ## Tiles -/

@[simp] theorem Tile.setSlot_mem (t : Tile) (n : Nat) (s : Slot) : (t.setSlot n s).mem = t.mem := rfl
@[simp] theorem Tile.setSlot_bad (t : Tile) (n : Nat) (s : Slot) : (t.setSlot n s).bad = t.bad := rfl
@[simp] theorem Tile.setSlot_weak (t : Tile) (n : Nat) (s : Slot) : (t.setSlot n s).weak = t.weak := rfl
@[simp] theorem Tile.setSlot_prog (t : Tile) (n : Nat) (s : Slot) : (t.setSlot n s).prog = t.prog := rfl
@[simp] theorem Tile.setSlot_order (t : Tile) (n : Nat) (s : Slot) : (t.setSlot n s).order = t.order := rfl
@[simp] theorem Tile.setSlot_faultInfo (t : Tile) (n : Nat) (s : Slot) : (t.setSlot n s).faultInfo = t.faultInfo := rfl
@[simp] theorem Tile.setSlot_faultPc (t : Tile) (n : Nat) (s : Slot) : (t.setSlot n s).faultPc = t.faultPc := rfl
@[simp] theorem Tile.setSlot_faultInsn (t : Tile) (n : Nat) (s : Slot) : (t.setSlot n s).faultInsn = t.faultInsn := rfl
@[simp] theorem Tile.setSlot_rc (t : Tile) (n : Nat) (s : Slot) : (t.setSlot n s).rc = t.rc := rfl
@[simp] theorem Tile.setSlot_step (t : Tile) (n : Nat) (s : Slot) : (t.setSlot n s).step = t.step := rfl
@[simp] theorem Tile.setSlot_rank (t : Tile) (n : Nat) (s : Slot) : (t.setSlot n s).rank = t.rank := rfl
@[simp] theorem Tile.setSlot_granted (t : Tile) (n : Nat) (s : Slot) : (t.setSlot n s).granted = t.granted := rfl
@[simp] theorem Tile.setSlot_ctl (t : Tile) (n : Nat) (s : Slot) : (t.setSlot n s).ctl = t.ctl := rfl
@[simp] theorem Tile.setSlot_taint (t : Tile) (n : Nat) (s : Slot) : (t.setSlot n s).taint = t.taint := rfl
@[simp] theorem Tile.setSlot_hist (t : Tile) (n : Nat) (s : Slot) : (t.setSlot n s).hist = t.hist := rfl
@[simp] theorem Tile.setSlot_stats (t : Tile) (n : Nat) (s : Slot) : (t.setSlot n s).stats = t.stats := rfl
@[simp] theorem Tile.setSlot_flow (t : Tile) (n : Nat) (s : Slot) : (t.setSlot n s).flow = t.flow := rfl
@[simp] theorem Tile.setSlot_sync (t : Tile) (n : Nat) (s : Slot) : (t.setSlot n s).sync = t.sync := rfl
@[simp] theorem Tile.setSlot_net (t : Tile) (n : Nat) (s : Slot) : (t.setSlot n s).net = t.net := rfl
@[simp] theorem Tile.setSlot_tensor (t : Tile) (n : Nat) (s : Slot) : (t.setSlot n s).tensor = t.tensor := rfl
@[simp] theorem Tile.setSlot_dmaqs (t : Tile) (n : Nat) (s : Slot) : (t.setSlot n s).dmaqs = t.dmaqs := rfl
@[simp] theorem Tile.setSlot_dmaOut (t : Tile) (n : Nat) (s : Slot) : (t.setSlot n s).dmaOut = t.dmaOut := rfl
@[simp] theorem Tile.setSlot_deeps (t : Tile) (n : Nat) (s : Slot) : (t.setSlot n s).deeps = t.deeps := rfl
@[simp] theorem Tile.setSlot_check (t : Tile) (n : Nat) (s : Slot) : (t.setSlot n s).check = t.check := rfl
@[simp] theorem Tile.setSlot_once (t : Tile) (n : Nat) (s : Slot) : (t.setSlot n s).once = t.once := rfl
@[simp] theorem Tile.setSlot_maskWatch (t : Tile) (n : Nat) (s : Slot) : (t.setSlot n s).maskWatch = t.maskWatch := rfl
@[simp] theorem Tile.setSlot_maskHit (t : Tile) (n : Nat) (s : Slot) : (t.setSlot n s).maskHit = t.maskHit := rfl
@[simp] theorem Tile.setSlot_slots (t : Tile) (n : Nat) (s : Slot) : (t.setSlot n s).slots = Tab.set t.slots n s := rfl
@[simp] theorem Tile.onSlot_mem (t : Tile) (n : Nat) (f : Slot → Slot) : (t.onSlot n f).mem = t.mem := rfl
@[simp] theorem Tile.onSlot_bad (t : Tile) (n : Nat) (f : Slot → Slot) : (t.onSlot n f).bad = t.bad := rfl
@[simp] theorem Tile.onSlot_weak (t : Tile) (n : Nat) (f : Slot → Slot) : (t.onSlot n f).weak = t.weak := rfl
@[simp] theorem Tile.onSlot_prog (t : Tile) (n : Nat) (f : Slot → Slot) : (t.onSlot n f).prog = t.prog := rfl
@[simp] theorem Tile.onSlot_order (t : Tile) (n : Nat) (f : Slot → Slot) : (t.onSlot n f).order = t.order := rfl
@[simp] theorem Tile.onSlot_faultInfo (t : Tile) (n : Nat) (f : Slot → Slot) : (t.onSlot n f).faultInfo = t.faultInfo := rfl
@[simp] theorem Tile.onSlot_faultPc (t : Tile) (n : Nat) (f : Slot → Slot) : (t.onSlot n f).faultPc = t.faultPc := rfl
@[simp] theorem Tile.onSlot_faultInsn (t : Tile) (n : Nat) (f : Slot → Slot) : (t.onSlot n f).faultInsn = t.faultInsn := rfl
@[simp] theorem Tile.onSlot_rc (t : Tile) (n : Nat) (f : Slot → Slot) : (t.onSlot n f).rc = t.rc := rfl
@[simp] theorem Tile.onSlot_step (t : Tile) (n : Nat) (f : Slot → Slot) : (t.onSlot n f).step = t.step := rfl
@[simp] theorem Tile.onSlot_rank (t : Tile) (n : Nat) (f : Slot → Slot) : (t.onSlot n f).rank = t.rank := rfl
@[simp] theorem Tile.onSlot_granted (t : Tile) (n : Nat) (f : Slot → Slot) : (t.onSlot n f).granted = t.granted := rfl
@[simp] theorem Tile.onSlot_ctl (t : Tile) (n : Nat) (f : Slot → Slot) : (t.onSlot n f).ctl = t.ctl := rfl
@[simp] theorem Tile.onSlot_taint (t : Tile) (n : Nat) (f : Slot → Slot) : (t.onSlot n f).taint = t.taint := rfl
@[simp] theorem Tile.onSlot_hist (t : Tile) (n : Nat) (f : Slot → Slot) : (t.onSlot n f).hist = t.hist := rfl
@[simp] theorem Tile.onSlot_stats (t : Tile) (n : Nat) (f : Slot → Slot) : (t.onSlot n f).stats = t.stats := rfl
@[simp] theorem Tile.onSlot_flow (t : Tile) (n : Nat) (f : Slot → Slot) : (t.onSlot n f).flow = t.flow := rfl
@[simp] theorem Tile.onSlot_sync (t : Tile) (n : Nat) (f : Slot → Slot) : (t.onSlot n f).sync = t.sync := rfl
@[simp] theorem Tile.onSlot_net (t : Tile) (n : Nat) (f : Slot → Slot) : (t.onSlot n f).net = t.net := rfl
@[simp] theorem Tile.onSlot_tensor (t : Tile) (n : Nat) (f : Slot → Slot) : (t.onSlot n f).tensor = t.tensor := rfl
@[simp] theorem Tile.onSlot_dmaqs (t : Tile) (n : Nat) (f : Slot → Slot) : (t.onSlot n f).dmaqs = t.dmaqs := rfl
@[simp] theorem Tile.onSlot_dmaOut (t : Tile) (n : Nat) (f : Slot → Slot) : (t.onSlot n f).dmaOut = t.dmaOut := rfl
@[simp] theorem Tile.onSlot_deeps (t : Tile) (n : Nat) (f : Slot → Slot) : (t.onSlot n f).deeps = t.deeps := rfl
@[simp] theorem Tile.onSlot_check (t : Tile) (n : Nat) (f : Slot → Slot) : (t.onSlot n f).check = t.check := rfl
@[simp] theorem Tile.onSlot_once (t : Tile) (n : Nat) (f : Slot → Slot) : (t.onSlot n f).once = t.once := rfl
@[simp] theorem Tile.onSlot_maskWatch (t : Tile) (n : Nat) (f : Slot → Slot) : (t.onSlot n f).maskWatch = t.maskWatch := rfl
@[simp] theorem Tile.onSlot_maskHit (t : Tile) (n : Nat) (f : Slot → Slot) : (t.onSlot n f).maskHit = t.maskHit := rfl
@[simp] theorem Tile.setSq_mem (t : Tile) (n : Nat) (s : SQ) : (t.setSq n s).mem = t.mem := rfl
@[simp] theorem Tile.setSq_bad (t : Tile) (n : Nat) (s : SQ) : (t.setSq n s).bad = t.bad := rfl
@[simp] theorem Tile.setSq_weak (t : Tile) (n : Nat) (s : SQ) : (t.setSq n s).weak = t.weak := rfl
@[simp] theorem Tile.setSq_prog (t : Tile) (n : Nat) (s : SQ) : (t.setSq n s).prog = t.prog := rfl
@[simp] theorem Tile.setSq_slots (t : Tile) (n : Nat) (s : SQ) : (t.setSq n s).slots = t.slots := rfl
@[simp] theorem Tile.setSq_order (t : Tile) (n : Nat) (s : SQ) : (t.setSq n s).order = t.order := rfl
@[simp] theorem Tile.setSq_faultInfo (t : Tile) (n : Nat) (s : SQ) : (t.setSq n s).faultInfo = t.faultInfo := rfl
@[simp] theorem Tile.setSq_faultPc (t : Tile) (n : Nat) (s : SQ) : (t.setSq n s).faultPc = t.faultPc := rfl
@[simp] theorem Tile.setSq_faultInsn (t : Tile) (n : Nat) (s : SQ) : (t.setSq n s).faultInsn = t.faultInsn := rfl
@[simp] theorem Tile.setSq_rc (t : Tile) (n : Nat) (s : SQ) : (t.setSq n s).rc = t.rc := rfl
@[simp] theorem Tile.setSq_step (t : Tile) (n : Nat) (s : SQ) : (t.setSq n s).step = t.step := rfl
@[simp] theorem Tile.setSq_rank (t : Tile) (n : Nat) (s : SQ) : (t.setSq n s).rank = t.rank := rfl
@[simp] theorem Tile.setSq_granted (t : Tile) (n : Nat) (s : SQ) : (t.setSq n s).granted = t.granted := rfl
@[simp] theorem Tile.setSq_ctl (t : Tile) (n : Nat) (s : SQ) : (t.setSq n s).ctl = t.ctl := rfl
@[simp] theorem Tile.setSq_taint (t : Tile) (n : Nat) (s : SQ) : (t.setSq n s).taint = t.taint := rfl
@[simp] theorem Tile.setSq_hist (t : Tile) (n : Nat) (s : SQ) : (t.setSq n s).hist = t.hist := rfl
@[simp] theorem Tile.setSq_stats (t : Tile) (n : Nat) (s : SQ) : (t.setSq n s).stats = t.stats := rfl
@[simp] theorem Tile.setSq_flow (t : Tile) (n : Nat) (s : SQ) : (t.setSq n s).flow = t.flow := rfl
@[simp] theorem Tile.setSq_net (t : Tile) (n : Nat) (s : SQ) : (t.setSq n s).net = t.net := rfl
@[simp] theorem Tile.setSq_tensor (t : Tile) (n : Nat) (s : SQ) : (t.setSq n s).tensor = t.tensor := rfl
@[simp] theorem Tile.setSq_dmaqs (t : Tile) (n : Nat) (s : SQ) : (t.setSq n s).dmaqs = t.dmaqs := rfl
@[simp] theorem Tile.setSq_dmaOut (t : Tile) (n : Nat) (s : SQ) : (t.setSq n s).dmaOut = t.dmaOut := rfl
@[simp] theorem Tile.setSq_deeps (t : Tile) (n : Nat) (s : SQ) : (t.setSq n s).deeps = t.deeps := rfl
@[simp] theorem Tile.setSq_check (t : Tile) (n : Nat) (s : SQ) : (t.setSq n s).check = t.check := rfl
@[simp] theorem Tile.setSq_once (t : Tile) (n : Nat) (s : SQ) : (t.setSq n s).once = t.once := rfl
@[simp] theorem Tile.setSq_maskWatch (t : Tile) (n : Nat) (s : SQ) : (t.setSq n s).maskWatch = t.maskWatch := rfl
@[simp] theorem Tile.setSq_maskHit (t : Tile) (n : Nat) (s : SQ) : (t.setSq n s).maskHit = t.maskHit := rfl
@[simp] theorem Tile.setSq_sync_nLines (t : Tile) (n : Nat) (s : SQ) : ((t.setSq n s).sync).nLines = t.sync.nLines := rfl
@[simp] theorem Tile.setSq_sync_sqExp (t : Tile) (n : Nat) (s : SQ) : ((t.setSq n s).sync).sqExp = t.sync.sqExp := rfl
@[simp] theorem Tile.setSq_sync_hbExp (t : Tile) (n : Nat) (s : SQ) : ((t.setSq n s).sync).hbExp = t.sync.hbExp := rfl
@[simp] theorem Tile.setSq_sync_enrol (t : Tile) (n : Nat) (s : SQ) : ((t.setSq n s).sync).enrol = t.sync.enrol := rfl
@[simp] theorem Tile.setSq_sync_pending (t : Tile) (n : Nat) (s : SQ) : ((t.setSq n s).sync).pending = t.sync.pending := rfl
@[simp] theorem Tile.setSq_sync_map (t : Tile) (n : Nat) (s : SQ) : ((t.setSq n s).sync).map = t.sync.map := rfl
@[simp] theorem Tile.setSq_sync_cross (t : Tile) (n : Nat) (s : SQ) : ((t.setSq n s).sync).cross = t.sync.cross := rfl
@[simp] theorem Tile.setSq_sync_sigOut (t : Tile) (n : Nat) (s : SQ) : ((t.setSq n s).sync).sigOut = t.sync.sigOut := rfl
@[simp] theorem Tile.setChan_mem (t : Tile) (n : Nat) (c : Chan) : (t.setChan n c).mem = t.mem := rfl
@[simp] theorem Tile.setChan_bad (t : Tile) (n : Nat) (c : Chan) : (t.setChan n c).bad = t.bad := rfl
@[simp] theorem Tile.setChan_weak (t : Tile) (n : Nat) (c : Chan) : (t.setChan n c).weak = t.weak := rfl
@[simp] theorem Tile.setChan_prog (t : Tile) (n : Nat) (c : Chan) : (t.setChan n c).prog = t.prog := rfl
@[simp] theorem Tile.setChan_slots (t : Tile) (n : Nat) (c : Chan) : (t.setChan n c).slots = t.slots := rfl
@[simp] theorem Tile.setChan_order (t : Tile) (n : Nat) (c : Chan) : (t.setChan n c).order = t.order := rfl
@[simp] theorem Tile.setChan_faultInfo (t : Tile) (n : Nat) (c : Chan) : (t.setChan n c).faultInfo = t.faultInfo := rfl
@[simp] theorem Tile.setChan_faultPc (t : Tile) (n : Nat) (c : Chan) : (t.setChan n c).faultPc = t.faultPc := rfl
@[simp] theorem Tile.setChan_faultInsn (t : Tile) (n : Nat) (c : Chan) : (t.setChan n c).faultInsn = t.faultInsn := rfl
@[simp] theorem Tile.setChan_rc (t : Tile) (n : Nat) (c : Chan) : (t.setChan n c).rc = t.rc := rfl
@[simp] theorem Tile.setChan_step (t : Tile) (n : Nat) (c : Chan) : (t.setChan n c).step = t.step := rfl
@[simp] theorem Tile.setChan_rank (t : Tile) (n : Nat) (c : Chan) : (t.setChan n c).rank = t.rank := rfl
@[simp] theorem Tile.setChan_granted (t : Tile) (n : Nat) (c : Chan) : (t.setChan n c).granted = t.granted := rfl
@[simp] theorem Tile.setChan_ctl (t : Tile) (n : Nat) (c : Chan) : (t.setChan n c).ctl = t.ctl := rfl
@[simp] theorem Tile.setChan_taint (t : Tile) (n : Nat) (c : Chan) : (t.setChan n c).taint = t.taint := rfl
@[simp] theorem Tile.setChan_hist (t : Tile) (n : Nat) (c : Chan) : (t.setChan n c).hist = t.hist := rfl
@[simp] theorem Tile.setChan_stats (t : Tile) (n : Nat) (c : Chan) : (t.setChan n c).stats = t.stats := rfl
@[simp] theorem Tile.setChan_sync (t : Tile) (n : Nat) (c : Chan) : (t.setChan n c).sync = t.sync := rfl
@[simp] theorem Tile.setChan_net (t : Tile) (n : Nat) (c : Chan) : (t.setChan n c).net = t.net := rfl
@[simp] theorem Tile.setChan_tensor (t : Tile) (n : Nat) (c : Chan) : (t.setChan n c).tensor = t.tensor := rfl
@[simp] theorem Tile.setChan_dmaqs (t : Tile) (n : Nat) (c : Chan) : (t.setChan n c).dmaqs = t.dmaqs := rfl
@[simp] theorem Tile.setChan_dmaOut (t : Tile) (n : Nat) (c : Chan) : (t.setChan n c).dmaOut = t.dmaOut := rfl
@[simp] theorem Tile.setChan_deeps (t : Tile) (n : Nat) (c : Chan) : (t.setChan n c).deeps = t.deeps := rfl
@[simp] theorem Tile.setChan_check (t : Tile) (n : Nat) (c : Chan) : (t.setChan n c).check = t.check := rfl
@[simp] theorem Tile.setChan_once (t : Tile) (n : Nat) (c : Chan) : (t.setChan n c).once = t.once := rfl
@[simp] theorem Tile.setChan_maskWatch (t : Tile) (n : Nat) (c : Chan) : (t.setChan n c).maskWatch = t.maskWatch := rfl
@[simp] theorem Tile.setChan_maskHit (t : Tile) (n : Nat) (c : Chan) : (t.setChan n c).maskHit = t.maskHit := rfl
@[simp] theorem Tile.setChan_flow_tasks (t : Tile) (n : Nat) (c : Chan) : ((t.setChan n c).flow).tasks = t.flow.tasks := rfl
@[simp] theorem Tile.setChan_flow_store (t : Tile) (n : Nat) (c : Chan) : ((t.setChan n c).flow).store = t.flow.store := rfl
@[simp] theorem Tile.setChan_flow_ports (t : Tile) (n : Nat) (c : Chan) : ((t.setChan n c).flow).ports = t.flow.ports := rfl
@[simp] theorem Tile.setChan_flow_steers (t : Tile) (n : Nat) (c : Chan) : ((t.setChan n c).flow).steers = t.flow.steers := rfl
@[simp] theorem Tile.setChan_flow_specTags (t : Tile) (n : Nat) (c : Chan) : ((t.setChan n c).flow).specTags = t.flow.specTags := rfl
@[simp] theorem Tile.setChan_flow_tagWait (t : Tile) (n : Nat) (c : Chan) : ((t.setChan n c).flow).tagWait = t.flow.tagWait := rfl
@[simp] theorem Tile.setChan_flow_owners (t : Tile) (n : Nat) (c : Chan) : ((t.setChan n c).flow).owners = t.flow.owners := rfl
@[simp] theorem Tile.setChan_flow_scratch (t : Tile) (n : Nat) (c : Chan) : ((t.setChan n c).flow).scratch = t.flow.scratch := rfl
@[simp] theorem Tile.setPort_mem (t : Tile) (n : Nat) (c : OPort) : (t.setPort n c).mem = t.mem := rfl
@[simp] theorem Tile.setPort_bad (t : Tile) (n : Nat) (c : OPort) : (t.setPort n c).bad = t.bad := rfl
@[simp] theorem Tile.setPort_weak (t : Tile) (n : Nat) (c : OPort) : (t.setPort n c).weak = t.weak := rfl
@[simp] theorem Tile.setPort_prog (t : Tile) (n : Nat) (c : OPort) : (t.setPort n c).prog = t.prog := rfl
@[simp] theorem Tile.setPort_slots (t : Tile) (n : Nat) (c : OPort) : (t.setPort n c).slots = t.slots := rfl
@[simp] theorem Tile.setPort_order (t : Tile) (n : Nat) (c : OPort) : (t.setPort n c).order = t.order := rfl
@[simp] theorem Tile.setPort_faultInfo (t : Tile) (n : Nat) (c : OPort) : (t.setPort n c).faultInfo = t.faultInfo := rfl
@[simp] theorem Tile.setPort_faultPc (t : Tile) (n : Nat) (c : OPort) : (t.setPort n c).faultPc = t.faultPc := rfl
@[simp] theorem Tile.setPort_faultInsn (t : Tile) (n : Nat) (c : OPort) : (t.setPort n c).faultInsn = t.faultInsn := rfl
@[simp] theorem Tile.setPort_rc (t : Tile) (n : Nat) (c : OPort) : (t.setPort n c).rc = t.rc := rfl
@[simp] theorem Tile.setPort_step (t : Tile) (n : Nat) (c : OPort) : (t.setPort n c).step = t.step := rfl
@[simp] theorem Tile.setPort_rank (t : Tile) (n : Nat) (c : OPort) : (t.setPort n c).rank = t.rank := rfl
@[simp] theorem Tile.setPort_granted (t : Tile) (n : Nat) (c : OPort) : (t.setPort n c).granted = t.granted := rfl
@[simp] theorem Tile.setPort_ctl (t : Tile) (n : Nat) (c : OPort) : (t.setPort n c).ctl = t.ctl := rfl
@[simp] theorem Tile.setPort_taint (t : Tile) (n : Nat) (c : OPort) : (t.setPort n c).taint = t.taint := rfl
@[simp] theorem Tile.setPort_hist (t : Tile) (n : Nat) (c : OPort) : (t.setPort n c).hist = t.hist := rfl
@[simp] theorem Tile.setPort_stats (t : Tile) (n : Nat) (c : OPort) : (t.setPort n c).stats = t.stats := rfl
@[simp] theorem Tile.setPort_sync (t : Tile) (n : Nat) (c : OPort) : (t.setPort n c).sync = t.sync := rfl
@[simp] theorem Tile.setPort_net (t : Tile) (n : Nat) (c : OPort) : (t.setPort n c).net = t.net := rfl
@[simp] theorem Tile.setPort_tensor (t : Tile) (n : Nat) (c : OPort) : (t.setPort n c).tensor = t.tensor := rfl
@[simp] theorem Tile.setPort_dmaqs (t : Tile) (n : Nat) (c : OPort) : (t.setPort n c).dmaqs = t.dmaqs := rfl
@[simp] theorem Tile.setPort_dmaOut (t : Tile) (n : Nat) (c : OPort) : (t.setPort n c).dmaOut = t.dmaOut := rfl
@[simp] theorem Tile.setPort_deeps (t : Tile) (n : Nat) (c : OPort) : (t.setPort n c).deeps = t.deeps := rfl
@[simp] theorem Tile.setPort_check (t : Tile) (n : Nat) (c : OPort) : (t.setPort n c).check = t.check := rfl
@[simp] theorem Tile.setPort_once (t : Tile) (n : Nat) (c : OPort) : (t.setPort n c).once = t.once := rfl
@[simp] theorem Tile.setPort_maskWatch (t : Tile) (n : Nat) (c : OPort) : (t.setPort n c).maskWatch = t.maskWatch := rfl
@[simp] theorem Tile.setPort_maskHit (t : Tile) (n : Nat) (c : OPort) : (t.setPort n c).maskHit = t.maskHit := rfl
@[simp] theorem Tile.setPort_flow_tasks (t : Tile) (n : Nat) (c : OPort) : ((t.setPort n c).flow).tasks = t.flow.tasks := rfl
@[simp] theorem Tile.setPort_flow_store (t : Tile) (n : Nat) (c : OPort) : ((t.setPort n c).flow).store = t.flow.store := rfl
@[simp] theorem Tile.setPort_flow_chans (t : Tile) (n : Nat) (c : OPort) : ((t.setPort n c).flow).chans = t.flow.chans := rfl
@[simp] theorem Tile.setPort_flow_steers (t : Tile) (n : Nat) (c : OPort) : ((t.setPort n c).flow).steers = t.flow.steers := rfl
@[simp] theorem Tile.setPort_flow_specTags (t : Tile) (n : Nat) (c : OPort) : ((t.setPort n c).flow).specTags = t.flow.specTags := rfl
@[simp] theorem Tile.setPort_flow_tagWait (t : Tile) (n : Nat) (c : OPort) : ((t.setPort n c).flow).tagWait = t.flow.tagWait := rfl
@[simp] theorem Tile.setPort_flow_owners (t : Tile) (n : Nat) (c : OPort) : ((t.setPort n c).flow).owners = t.flow.owners := rfl
@[simp] theorem Tile.setPort_flow_scratch (t : Tile) (n : Nat) (c : OPort) : ((t.setPort n c).flow).scratch = t.flow.scratch := rfl
@[simp] theorem Tile.setAcc_mem (t : Tile) (n : Nat) (a : Accord) : (t.setAcc n a).mem = t.mem := rfl
@[simp] theorem Tile.setAcc_bad (t : Tile) (n : Nat) (a : Accord) : (t.setAcc n a).bad = t.bad := rfl
@[simp] theorem Tile.setAcc_weak (t : Tile) (n : Nat) (a : Accord) : (t.setAcc n a).weak = t.weak := rfl
@[simp] theorem Tile.setAcc_prog (t : Tile) (n : Nat) (a : Accord) : (t.setAcc n a).prog = t.prog := rfl
@[simp] theorem Tile.setAcc_slots (t : Tile) (n : Nat) (a : Accord) : (t.setAcc n a).slots = t.slots := rfl
@[simp] theorem Tile.setAcc_order (t : Tile) (n : Nat) (a : Accord) : (t.setAcc n a).order = t.order := rfl
@[simp] theorem Tile.setAcc_faultInfo (t : Tile) (n : Nat) (a : Accord) : (t.setAcc n a).faultInfo = t.faultInfo := rfl
@[simp] theorem Tile.setAcc_faultPc (t : Tile) (n : Nat) (a : Accord) : (t.setAcc n a).faultPc = t.faultPc := rfl
@[simp] theorem Tile.setAcc_faultInsn (t : Tile) (n : Nat) (a : Accord) : (t.setAcc n a).faultInsn = t.faultInsn := rfl
@[simp] theorem Tile.setAcc_rc (t : Tile) (n : Nat) (a : Accord) : (t.setAcc n a).rc = t.rc := rfl
@[simp] theorem Tile.setAcc_step (t : Tile) (n : Nat) (a : Accord) : (t.setAcc n a).step = t.step := rfl
@[simp] theorem Tile.setAcc_rank (t : Tile) (n : Nat) (a : Accord) : (t.setAcc n a).rank = t.rank := rfl
@[simp] theorem Tile.setAcc_granted (t : Tile) (n : Nat) (a : Accord) : (t.setAcc n a).granted = t.granted := rfl
@[simp] theorem Tile.setAcc_ctl (t : Tile) (n : Nat) (a : Accord) : (t.setAcc n a).ctl = t.ctl := rfl
@[simp] theorem Tile.setAcc_taint (t : Tile) (n : Nat) (a : Accord) : (t.setAcc n a).taint = t.taint := rfl
@[simp] theorem Tile.setAcc_hist (t : Tile) (n : Nat) (a : Accord) : (t.setAcc n a).hist = t.hist := rfl
@[simp] theorem Tile.setAcc_stats (t : Tile) (n : Nat) (a : Accord) : (t.setAcc n a).stats = t.stats := rfl
@[simp] theorem Tile.setAcc_flow (t : Tile) (n : Nat) (a : Accord) : (t.setAcc n a).flow = t.flow := rfl
@[simp] theorem Tile.setAcc_sync (t : Tile) (n : Nat) (a : Accord) : (t.setAcc n a).sync = t.sync := rfl
@[simp] theorem Tile.setAcc_net (t : Tile) (n : Nat) (a : Accord) : (t.setAcc n a).net = t.net := rfl
@[simp] theorem Tile.setAcc_dmaqs (t : Tile) (n : Nat) (a : Accord) : (t.setAcc n a).dmaqs = t.dmaqs := rfl
@[simp] theorem Tile.setAcc_dmaOut (t : Tile) (n : Nat) (a : Accord) : (t.setAcc n a).dmaOut = t.dmaOut := rfl
@[simp] theorem Tile.setAcc_deeps (t : Tile) (n : Nat) (a : Accord) : (t.setAcc n a).deeps = t.deeps := rfl
@[simp] theorem Tile.setAcc_check (t : Tile) (n : Nat) (a : Accord) : (t.setAcc n a).check = t.check := rfl
@[simp] theorem Tile.setAcc_once (t : Tile) (n : Nat) (a : Accord) : (t.setAcc n a).once = t.once := rfl
@[simp] theorem Tile.setAcc_maskWatch (t : Tile) (n : Nat) (a : Accord) : (t.setAcc n a).maskWatch = t.maskWatch := rfl
@[simp] theorem Tile.setAcc_maskHit (t : Tile) (n : Nat) (a : Accord) : (t.setAcc n a).maskHit = t.maskHit := rfl
@[simp] theorem Tile.setAcc_tensor_queue (t : Tile) (n : Nat) (a : Accord) : ((t.setAcc n a).tensor).queue = t.tensor.queue := rfl
@[simp] theorem Tile.setAcc_tensor_drains (t : Tile) (n : Nat) (a : Accord) : ((t.setAcc n a).tensor).drains = t.tensor.drains := rfl
@[simp] theorem Tile.setAcc_tensor_pendingDrains (t : Tile) (n : Nat) (a : Accord) : ((t.setAcc n a).tensor).pendingDrains = t.tensor.pendingDrains := rfl
@[simp] theorem Tile.setAcc_tensor_vop (t : Tile) (n : Nat) (a : Accord) : ((t.setAcc n a).tensor).vop = t.tensor.vop := rfl
@[simp] theorem Tile.count_mem (t : Tile) (i n : Nat) : (t.count i n).mem = t.mem := rfl
@[simp] theorem Tile.count_bad (t : Tile) (i n : Nat) : (t.count i n).bad = t.bad := rfl
@[simp] theorem Tile.count_weak (t : Tile) (i n : Nat) : (t.count i n).weak = t.weak := rfl
@[simp] theorem Tile.count_prog (t : Tile) (i n : Nat) : (t.count i n).prog = t.prog := rfl
@[simp] theorem Tile.count_slots (t : Tile) (i n : Nat) : (t.count i n).slots = t.slots := rfl
@[simp] theorem Tile.count_order (t : Tile) (i n : Nat) : (t.count i n).order = t.order := rfl
@[simp] theorem Tile.count_faultInfo (t : Tile) (i n : Nat) : (t.count i n).faultInfo = t.faultInfo := rfl
@[simp] theorem Tile.count_faultPc (t : Tile) (i n : Nat) : (t.count i n).faultPc = t.faultPc := rfl
@[simp] theorem Tile.count_faultInsn (t : Tile) (i n : Nat) : (t.count i n).faultInsn = t.faultInsn := rfl
@[simp] theorem Tile.count_rc (t : Tile) (i n : Nat) : (t.count i n).rc = t.rc := rfl
@[simp] theorem Tile.count_step (t : Tile) (i n : Nat) : (t.count i n).step = t.step := rfl
@[simp] theorem Tile.count_rank (t : Tile) (i n : Nat) : (t.count i n).rank = t.rank := rfl
@[simp] theorem Tile.count_granted (t : Tile) (i n : Nat) : (t.count i n).granted = t.granted := rfl
@[simp] theorem Tile.count_ctl (t : Tile) (i n : Nat) : (t.count i n).ctl = t.ctl := rfl
@[simp] theorem Tile.count_taint (t : Tile) (i n : Nat) : (t.count i n).taint = t.taint := rfl
@[simp] theorem Tile.count_hist (t : Tile) (i n : Nat) : (t.count i n).hist = t.hist := rfl
@[simp] theorem Tile.count_flow (t : Tile) (i n : Nat) : (t.count i n).flow = t.flow := rfl
@[simp] theorem Tile.count_sync (t : Tile) (i n : Nat) : (t.count i n).sync = t.sync := rfl
@[simp] theorem Tile.count_net (t : Tile) (i n : Nat) : (t.count i n).net = t.net := rfl
@[simp] theorem Tile.count_tensor (t : Tile) (i n : Nat) : (t.count i n).tensor = t.tensor := rfl
@[simp] theorem Tile.count_dmaqs (t : Tile) (i n : Nat) : (t.count i n).dmaqs = t.dmaqs := rfl
@[simp] theorem Tile.count_dmaOut (t : Tile) (i n : Nat) : (t.count i n).dmaOut = t.dmaOut := rfl
@[simp] theorem Tile.count_deeps (t : Tile) (i n : Nat) : (t.count i n).deeps = t.deeps := rfl
@[simp] theorem Tile.count_check (t : Tile) (i n : Nat) : (t.count i n).check = t.check := rfl
@[simp] theorem Tile.count_once (t : Tile) (i n : Nat) : (t.count i n).once = t.once := rfl
@[simp] theorem Tile.count_maskWatch (t : Tile) (i n : Nat) : (t.count i n).maskWatch = t.maskWatch := rfl
@[simp] theorem Tile.count_maskHit (t : Tile) (i n : Nat) : (t.count i n).maskHit = t.maskHit := rfl
@[simp] theorem Tile.netCount_mem (t : Tile) (i : Nat) : (t.netCount i).mem = t.mem := rfl
@[simp] theorem Tile.netCount_bad (t : Tile) (i : Nat) : (t.netCount i).bad = t.bad := rfl
@[simp] theorem Tile.netCount_weak (t : Tile) (i : Nat) : (t.netCount i).weak = t.weak := rfl
@[simp] theorem Tile.netCount_prog (t : Tile) (i : Nat) : (t.netCount i).prog = t.prog := rfl
@[simp] theorem Tile.netCount_slots (t : Tile) (i : Nat) : (t.netCount i).slots = t.slots := rfl
@[simp] theorem Tile.netCount_order (t : Tile) (i : Nat) : (t.netCount i).order = t.order := rfl
@[simp] theorem Tile.netCount_faultInfo (t : Tile) (i : Nat) : (t.netCount i).faultInfo = t.faultInfo := rfl
@[simp] theorem Tile.netCount_faultPc (t : Tile) (i : Nat) : (t.netCount i).faultPc = t.faultPc := rfl
@[simp] theorem Tile.netCount_faultInsn (t : Tile) (i : Nat) : (t.netCount i).faultInsn = t.faultInsn := rfl
@[simp] theorem Tile.netCount_rc (t : Tile) (i : Nat) : (t.netCount i).rc = t.rc := rfl
@[simp] theorem Tile.netCount_step (t : Tile) (i : Nat) : (t.netCount i).step = t.step := rfl
@[simp] theorem Tile.netCount_rank (t : Tile) (i : Nat) : (t.netCount i).rank = t.rank := rfl
@[simp] theorem Tile.netCount_granted (t : Tile) (i : Nat) : (t.netCount i).granted = t.granted := rfl
@[simp] theorem Tile.netCount_ctl (t : Tile) (i : Nat) : (t.netCount i).ctl = t.ctl := rfl
@[simp] theorem Tile.netCount_taint (t : Tile) (i : Nat) : (t.netCount i).taint = t.taint := rfl
@[simp] theorem Tile.netCount_hist (t : Tile) (i : Nat) : (t.netCount i).hist = t.hist := rfl
@[simp] theorem Tile.netCount_stats (t : Tile) (i : Nat) : (t.netCount i).stats = t.stats := rfl
@[simp] theorem Tile.netCount_flow (t : Tile) (i : Nat) : (t.netCount i).flow = t.flow := rfl
@[simp] theorem Tile.netCount_sync (t : Tile) (i : Nat) : (t.netCount i).sync = t.sync := rfl
@[simp] theorem Tile.netCount_tensor (t : Tile) (i : Nat) : (t.netCount i).tensor = t.tensor := rfl
@[simp] theorem Tile.netCount_dmaqs (t : Tile) (i : Nat) : (t.netCount i).dmaqs = t.dmaqs := rfl
@[simp] theorem Tile.netCount_dmaOut (t : Tile) (i : Nat) : (t.netCount i).dmaOut = t.dmaOut := rfl
@[simp] theorem Tile.netCount_deeps (t : Tile) (i : Nat) : (t.netCount i).deeps = t.deeps := rfl
@[simp] theorem Tile.netCount_check (t : Tile) (i : Nat) : (t.netCount i).check = t.check := rfl
@[simp] theorem Tile.netCount_once (t : Tile) (i : Nat) : (t.netCount i).once = t.once := rfl
@[simp] theorem Tile.netCount_maskWatch (t : Tile) (i : Nat) : (t.netCount i).maskWatch = t.maskWatch := rfl
@[simp] theorem Tile.netCount_maskHit (t : Tile) (i : Nat) : (t.netCount i).maskHit = t.maskHit := rfl
@[simp] theorem Tile.netCount_net_cc (t : Tile) (i : Nat) : ((t.netCount i).net).cc = t.net.cc := rfl
@[simp] theorem Tile.netCount_net_rto (t : Tile) (i : Nat) : ((t.netCount i).net).rto = t.net.rto := rfl
@[simp] theorem Tile.netCount_net_egress (t : Tile) (i : Nat) : ((t.netCount i).net).egress = t.net.egress := rfl
@[simp] theorem Tile.netCount_net_epoch (t : Tile) (i : Nat) : ((t.netCount i).net).epoch = t.net.epoch := rfl
@[simp] theorem Tile.netCount_net_jslot (t : Tile) (i : Nat) : ((t.netCount i).net).jslot = t.net.jslot := rfl
@[simp] theorem Tile.netCount_net_seqNext (t : Tile) (i : Nat) : ((t.netCount i).net).seqNext = t.net.seqNext := rfl
@[simp] theorem Tile.netCount_net_windowWait (t : Tile) (i : Nat) : ((t.netCount i).net).windowWait = t.net.windowWait := rfl
@[simp] theorem Tile.netCount_net_outs (t : Tile) (i : Nat) : ((t.netCount i).net).outs = t.net.outs := rfl
@[simp] theorem Tile.netCount_net_unsent (t : Tile) (i : Nat) : ((t.netCount i).net).unsent = t.net.unsent := rfl
@[simp] theorem Tile.netCount_net_quarantine (t : Tile) (i : Nat) : ((t.netCount i).net).quarantine = t.net.quarantine := rfl
@[simp] theorem Tile.netCount_net_filter (t : Tile) (i : Nat) : ((t.netCount i).net).filter = t.net.filter := rfl
@[simp] theorem Tile.netCount_net_sigs (t : Tile) (i : Nat) : ((t.netCount i).net).sigs = t.net.sigs := rfl
@[simp] theorem Tile.netCount_net_red (t : Tile) (i : Nat) : ((t.netCount i).net).red = t.net.red := rfl
@[simp] theorem Tile.netCount_net_redSeen (t : Tile) (i : Nat) : ((t.netCount i).net).redSeen = t.net.redSeen := rfl
@[simp] theorem Tile.netCount_net_mc (t : Tile) (i : Nat) : ((t.netCount i).net).mc = t.net.mc := rfl
@[simp] theorem wakeCause_mem (t : Tile) (c : Nat) : (wakeCause c t).mem = t.mem := rfl
@[simp] theorem wakeCause_bad (t : Tile) (c : Nat) : (wakeCause c t).bad = t.bad := rfl
@[simp] theorem wakeCause_weak (t : Tile) (c : Nat) : (wakeCause c t).weak = t.weak := rfl
@[simp] theorem wakeCause_prog (t : Tile) (c : Nat) : (wakeCause c t).prog = t.prog := rfl
@[simp] theorem wakeCause_order (t : Tile) (c : Nat) : (wakeCause c t).order = t.order := rfl
@[simp] theorem wakeCause_faultInfo (t : Tile) (c : Nat) : (wakeCause c t).faultInfo = t.faultInfo := rfl
@[simp] theorem wakeCause_faultPc (t : Tile) (c : Nat) : (wakeCause c t).faultPc = t.faultPc := rfl
@[simp] theorem wakeCause_faultInsn (t : Tile) (c : Nat) : (wakeCause c t).faultInsn = t.faultInsn := rfl
@[simp] theorem wakeCause_rc (t : Tile) (c : Nat) : (wakeCause c t).rc = t.rc := rfl
@[simp] theorem wakeCause_step (t : Tile) (c : Nat) : (wakeCause c t).step = t.step := rfl
@[simp] theorem wakeCause_rank (t : Tile) (c : Nat) : (wakeCause c t).rank = t.rank := rfl
@[simp] theorem wakeCause_granted (t : Tile) (c : Nat) : (wakeCause c t).granted = t.granted := rfl
@[simp] theorem wakeCause_ctl (t : Tile) (c : Nat) : (wakeCause c t).ctl = t.ctl := rfl
@[simp] theorem wakeCause_taint (t : Tile) (c : Nat) : (wakeCause c t).taint = t.taint := rfl
@[simp] theorem wakeCause_hist (t : Tile) (c : Nat) : (wakeCause c t).hist = t.hist := rfl
@[simp] theorem wakeCause_stats (t : Tile) (c : Nat) : (wakeCause c t).stats = t.stats := rfl
@[simp] theorem wakeCause_flow (t : Tile) (c : Nat) : (wakeCause c t).flow = t.flow := rfl
@[simp] theorem wakeCause_sync (t : Tile) (c : Nat) : (wakeCause c t).sync = t.sync := rfl
@[simp] theorem wakeCause_net (t : Tile) (c : Nat) : (wakeCause c t).net = t.net := rfl
@[simp] theorem wakeCause_tensor (t : Tile) (c : Nat) : (wakeCause c t).tensor = t.tensor := rfl
@[simp] theorem wakeCause_dmaqs (t : Tile) (c : Nat) : (wakeCause c t).dmaqs = t.dmaqs := rfl
@[simp] theorem wakeCause_dmaOut (t : Tile) (c : Nat) : (wakeCause c t).dmaOut = t.dmaOut := rfl
@[simp] theorem wakeCause_deeps (t : Tile) (c : Nat) : (wakeCause c t).deeps = t.deeps := rfl
@[simp] theorem wakeCause_check (t : Tile) (c : Nat) : (wakeCause c t).check = t.check := rfl
@[simp] theorem wakeCause_once (t : Tile) (c : Nat) : (wakeCause c t).once = t.once := rfl
@[simp] theorem wakeCause_maskWatch (t : Tile) (c : Nat) : (wakeCause c t).maskWatch = t.maskWatch := rfl
@[simp] theorem wakeCause_maskHit (t : Tile) (c : Nat) : (wakeCause c t).maskHit = t.maskHit := rfl

/-! ## Slots -/

@[simp] theorem Slot.resume_task (s : Slot) (k : Nat) : (s.resume k).task = s.task := rfl
@[simp] theorem Slot.resume_tag (s : Slot) (k : Nat) : (s.resume k).tag = s.tag := rfl
@[simp] theorem Slot.resume_regs (s : Slot) (k : Nat) : (s.resume k).regs = s.regs := rfl
@[simp] theorem Slot.resume_ctx (s : Slot) (k : Nat) : (s.resume k).ctx = s.ctx := rfl
@[simp] theorem Slot.resume_spec (s : Slot) (k : Nat) : (s.resume k).spec = s.spec := rfl
@[simp] theorem Slot.resume_pc (s : Slot) (k : Nat) : (s.resume k).pc = nextPc k s.pc := rfl
@[simp] theorem Slot.resume_st (s : Slot) (k : Nat) : (s.resume k).st = .running := rfl
@[simp] theorem Slot.resume_wait (s : Slot) (k : Nat) : (s.resume k).wait = none := rfl
@[simp] theorem Slot.retry_task (s : Slot) (c : Nat) (w : Word) : (s.retry c w).task = s.task := rfl
@[simp] theorem Slot.retry_tag (s : Slot) (c : Nat) (w : Word) : (s.retry c w).tag = s.tag := rfl
@[simp] theorem Slot.retry_pc (s : Slot) (c : Nat) (w : Word) : (s.retry c w).pc = s.pc := rfl
@[simp] theorem Slot.retry_regs (s : Slot) (c : Nat) (w : Word) : (s.retry c w).regs = s.regs := rfl
@[simp] theorem Slot.retry_ctx (s : Slot) (c : Nat) (w : Word) : (s.retry c w).ctx = s.ctx := rfl
@[simp] theorem Slot.retry_spec (s : Slot) (c : Nat) (w : Word) : (s.retry c w).spec = s.spec := rfl

/-! ## Brim and energy -/

@[simp] theorem Dev.setLink_freeCtr (d : Dev) (n : Nat) (l : Link) : (d.setLink n l).freeCtr = d.freeCtr := rfl
@[simp] theorem Dev.setLink_wafer (d : Dev) (n : Nat) (l : Link) : (d.setLink n l).wafer = d.wafer := rfl
@[simp] theorem Dev.setLink_map (d : Dev) (n : Nat) (l : Link) : (d.setLink n l).map = d.map := rfl
@[simp] theorem Dev.setLink_jobs (d : Dev) (n : Nat) (l : Link) : (d.setLink n l).jobs = d.jobs := rfl
@[simp] theorem Dev.setLink_host (d : Dev) (n : Nat) (l : Link) : (d.setLink n l).host = d.host := rfl
@[simp] theorem Dev.setLink_energy (d : Dev) (n : Nat) (l : Link) : (d.setLink n l).energy = d.energy := rfl
@[simp] theorem Dev.setLink_mod (d : Dev) (n : Nat) (l : Link) : (d.setLink n l).mod = d.mod := rfl
@[simp] theorem Dev.setLink_brim_hbm (d : Dev) (n : Nat) (l : Link) : ((d.setLink n l).brim).hbm = d.brim.hbm := rfl
@[simp] theorem Dev.setLink_brim_poisoned (d : Dev) (n : Nat) (l : Link) : ((d.setLink n l).brim).poisoned = d.brim.poisoned := rfl
@[simp] theorem Dev.setLink_brim_corrected (d : Dev) (n : Nat) (l : Link) : ((d.setLink n l).brim).corrected = d.brim.corrected := rfl
@[simp] theorem Dev.setLink_brim_ports (d : Dev) (n : Nat) (l : Link) : ((d.setLink n l).brim).ports = d.brim.ports := rfl
@[simp] theorem Dev.setLink_brim_runs (d : Dev) (n : Nat) (l : Link) : ((d.setLink n l).brim).runs = d.brim.runs := rfl
@[simp] theorem Dev.setLink_brim_nextRun (d : Dev) (n : Nat) (l : Link) : ((d.setLink n l).brim).nextRun = d.brim.nextRun := rfl
@[simp] theorem Dev.setLink_brim_discards (d : Dev) (n : Nat) (l : Link) : ((d.setLink n l).brim).discards = d.brim.discards := rfl
@[simp] theorem Dev.setLink_brim_hot (d : Dev) (n : Nat) (l : Link) : ((d.setLink n l).brim).hot = d.brim.hot := rfl
@[simp] theorem Dev.setLink_brim_emitted (d : Dev) (n : Nat) (l : Link) : ((d.setLink n l).brim).emitted = d.brim.emitted := rfl
@[simp] theorem Dev.setPortTile_freeCtr (d : Dev) (n : Nat) (x : PortTile) : (d.setPortTile n x).freeCtr = d.freeCtr := rfl
@[simp] theorem Dev.setPortTile_wafer (d : Dev) (n : Nat) (x : PortTile) : (d.setPortTile n x).wafer = d.wafer := rfl
@[simp] theorem Dev.setPortTile_map (d : Dev) (n : Nat) (x : PortTile) : (d.setPortTile n x).map = d.map := rfl
@[simp] theorem Dev.setPortTile_jobs (d : Dev) (n : Nat) (x : PortTile) : (d.setPortTile n x).jobs = d.jobs := rfl
@[simp] theorem Dev.setPortTile_host (d : Dev) (n : Nat) (x : PortTile) : (d.setPortTile n x).host = d.host := rfl
@[simp] theorem Dev.setPortTile_energy (d : Dev) (n : Nat) (x : PortTile) : (d.setPortTile n x).energy = d.energy := rfl
@[simp] theorem Dev.setPortTile_mod (d : Dev) (n : Nat) (x : PortTile) : (d.setPortTile n x).mod = d.mod := rfl
@[simp] theorem Dev.setPortTile_brim_hbm (d : Dev) (n : Nat) (x : PortTile) : ((d.setPortTile n x).brim).hbm = d.brim.hbm := rfl
@[simp] theorem Dev.setPortTile_brim_poisoned (d : Dev) (n : Nat) (x : PortTile) : ((d.setPortTile n x).brim).poisoned = d.brim.poisoned := rfl
@[simp] theorem Dev.setPortTile_brim_corrected (d : Dev) (n : Nat) (x : PortTile) : ((d.setPortTile n x).brim).corrected = d.brim.corrected := rfl
@[simp] theorem Dev.setPortTile_brim_runs (d : Dev) (n : Nat) (x : PortTile) : ((d.setPortTile n x).brim).runs = d.brim.runs := rfl
@[simp] theorem Dev.setPortTile_brim_nextRun (d : Dev) (n : Nat) (x : PortTile) : ((d.setPortTile n x).brim).nextRun = d.brim.nextRun := rfl
@[simp] theorem Dev.setPortTile_brim_links (d : Dev) (n : Nat) (x : PortTile) : ((d.setPortTile n x).brim).links = d.brim.links := rfl
@[simp] theorem Dev.setPortTile_brim_discards (d : Dev) (n : Nat) (x : PortTile) : ((d.setPortTile n x).brim).discards = d.brim.discards := rfl
@[simp] theorem Dev.setPortTile_brim_hot (d : Dev) (n : Nat) (x : PortTile) : ((d.setPortTile n x).brim).hot = d.brim.hot := rfl
@[simp] theorem Dev.setPortTile_brim_emitted (d : Dev) (n : Nat) (x : PortTile) : ((d.setPortTile n x).brim).emitted = d.brim.emitted := rfl
@[simp] theorem Dev.onPort_freeCtr (d : Dev) (n : Nat) (f : PortTile → PortTile) : (d.onPort n f).freeCtr = d.freeCtr := rfl
@[simp] theorem Dev.onPort_wafer (d : Dev) (n : Nat) (f : PortTile → PortTile) : (d.onPort n f).wafer = d.wafer := rfl
@[simp] theorem Dev.onPort_map (d : Dev) (n : Nat) (f : PortTile → PortTile) : (d.onPort n f).map = d.map := rfl
@[simp] theorem Dev.onPort_jobs (d : Dev) (n : Nat) (f : PortTile → PortTile) : (d.onPort n f).jobs = d.jobs := rfl
@[simp] theorem Dev.onPort_host (d : Dev) (n : Nat) (f : PortTile → PortTile) : (d.onPort n f).host = d.host := rfl
@[simp] theorem Dev.onPort_energy (d : Dev) (n : Nat) (f : PortTile → PortTile) : (d.onPort n f).energy = d.energy := rfl
@[simp] theorem Dev.onPort_mod (d : Dev) (n : Nat) (f : PortTile → PortTile) : (d.onPort n f).mod = d.mod := rfl
@[simp] theorem Dev.onPort_brim_hbm (d : Dev) (n : Nat) (f : PortTile → PortTile) : ((d.onPort n f).brim).hbm = d.brim.hbm := rfl
@[simp] theorem Dev.onPort_brim_poisoned (d : Dev) (n : Nat) (f : PortTile → PortTile) : ((d.onPort n f).brim).poisoned = d.brim.poisoned := rfl
@[simp] theorem Dev.onPort_brim_corrected (d : Dev) (n : Nat) (f : PortTile → PortTile) : ((d.onPort n f).brim).corrected = d.brim.corrected := rfl
@[simp] theorem Dev.onPort_brim_runs (d : Dev) (n : Nat) (f : PortTile → PortTile) : ((d.onPort n f).brim).runs = d.brim.runs := rfl
@[simp] theorem Dev.onPort_brim_nextRun (d : Dev) (n : Nat) (f : PortTile → PortTile) : ((d.onPort n f).brim).nextRun = d.brim.nextRun := rfl
@[simp] theorem Dev.onPort_brim_links (d : Dev) (n : Nat) (f : PortTile → PortTile) : ((d.onPort n f).brim).links = d.brim.links := rfl
@[simp] theorem Dev.onPort_brim_discards (d : Dev) (n : Nat) (f : PortTile → PortTile) : ((d.onPort n f).brim).discards = d.brim.discards := rfl
@[simp] theorem Dev.onPort_brim_hot (d : Dev) (n : Nat) (f : PortTile → PortTile) : ((d.onPort n f).brim).hot = d.brim.hot := rfl
@[simp] theorem Dev.onPort_brim_emitted (d : Dev) (n : Nat) (f : PortTile → PortTile) : ((d.onPort n f).brim).emitted = d.brim.emitted := rfl
@[simp] theorem Dev.onRun_freeCtr (d : Dev) (n : Nat) (f : DmaRun → DmaRun) : (d.onRun n f).freeCtr = d.freeCtr := rfl
@[simp] theorem Dev.onRun_wafer (d : Dev) (n : Nat) (f : DmaRun → DmaRun) : (d.onRun n f).wafer = d.wafer := rfl
@[simp] theorem Dev.onRun_map (d : Dev) (n : Nat) (f : DmaRun → DmaRun) : (d.onRun n f).map = d.map := rfl
@[simp] theorem Dev.onRun_jobs (d : Dev) (n : Nat) (f : DmaRun → DmaRun) : (d.onRun n f).jobs = d.jobs := rfl
@[simp] theorem Dev.onRun_host (d : Dev) (n : Nat) (f : DmaRun → DmaRun) : (d.onRun n f).host = d.host := rfl
@[simp] theorem Dev.onRun_energy (d : Dev) (n : Nat) (f : DmaRun → DmaRun) : (d.onRun n f).energy = d.energy := rfl
@[simp] theorem Dev.onRun_mod (d : Dev) (n : Nat) (f : DmaRun → DmaRun) : (d.onRun n f).mod = d.mod := rfl
@[simp] theorem Dev.onField_freeCtr (d : Dev) (n : Nat) (f : Field → Field) : (d.onField n f).freeCtr = d.freeCtr := rfl
@[simp] theorem Dev.onField_wafer (d : Dev) (n : Nat) (f : Field → Field) : (d.onField n f).wafer = d.wafer := rfl
@[simp] theorem Dev.onField_brim (d : Dev) (n : Nat) (f : Field → Field) : (d.onField n f).brim = d.brim := rfl
@[simp] theorem Dev.onField_map (d : Dev) (n : Nat) (f : Field → Field) : (d.onField n f).map = d.map := rfl
@[simp] theorem Dev.onField_jobs (d : Dev) (n : Nat) (f : Field → Field) : (d.onField n f).jobs = d.jobs := rfl
@[simp] theorem Dev.onField_host (d : Dev) (n : Nat) (f : Field → Field) : (d.onField n f).host = d.host := rfl
@[simp] theorem Dev.onField_mod (d : Dev) (n : Nat) (f : Field → Field) : (d.onField n f).mod = d.mod := rfl
@[simp] theorem Dev.onField_energy_penv (d : Dev) (n : Nat) (f : Field → Field) : ((d.onField n f).energy).penv = d.energy.penv := rfl
@[simp] theorem Dev.onField_energy_window (d : Dev) (n : Nat) (f : Field → Field) : ((d.onField n f).energy).window = d.energy.window := rfl
@[simp] theorem Dev.onField_energy_allow (d : Dev) (n : Nat) (f : Field → Field) : ((d.onField n f).energy).allow = d.energy.allow := rfl
@[simp] theorem Dev.onField_energy_nextEnv (d : Dev) (n : Nat) (f : Field → Field) : ((d.onField n f).energy).nextEnv = d.energy.nextEnv := rfl
@[simp] theorem Dev.onField_energy_budget (d : Dev) (n : Nat) (f : Field → Field) : ((d.onField n f).energy).budget = d.energy.budget := rfl
@[simp] theorem Dev.onField_energy_limCap (d : Dev) (n : Nat) (f : Field → Field) : ((d.onField n f).energy).limCap = d.energy.limCap := rfl
@[simp] theorem Dev.onField_energy_limDuty (d : Dev) (n : Nat) (f : Field → Field) : ((d.onField n f).energy).limDuty = d.energy.limDuty := rfl
@[simp] theorem Dev.onField_energy_throttled (d : Dev) (n : Nat) (f : Field → Field) : ((d.onField n f).energy).throttled = d.energy.throttled := rfl
@[simp] theorem Dev.onField_energy_sinceLower (d : Dev) (n : Nat) (f : Field → Field) : ((d.onField n f).energy).sinceLower = d.energy.sinceLower := rfl
@[simp] theorem Dev.onField_energy_recent (d : Dev) (n : Nat) (f : Field → Field) : ((d.onField n f).energy).recent = d.energy.recent := rfl
@[simp] theorem Dev.onField_energy_records (d : Dev) (n : Nat) (f : Field → Field) : ((d.onField n f).energy).records = d.energy.records := rfl
@[simp] theorem Dev.onField_energy_inputSum (d : Dev) (n : Nat) (f : Field → Field) : ((d.onField n f).energy).inputSum = d.energy.inputSum := rfl
@[simp] theorem Dev.onField_energy_overheadSum (d : Dev) (n : Nat) (f : Field → Field) : ((d.onField n f).energy).overheadSum = d.energy.overheadSum := rfl
@[simp] theorem Dev.onField_energy_mirror (d : Dev) (n : Nat) (f : Field → Field) : ((d.onField n f).energy).mirror = d.energy.mirror := rfl
@[simp] theorem Dev.onField_energy_sectorSum (d : Dev) (n : Nat) (f : Field → Field) : ((d.onField n f).energy).sectorSum = d.energy.sectorSum := rfl
@[simp] theorem Dev.onField_energy_brimSum (d : Dev) (n : Nat) (f : Field → Field) : ((d.onField n f).energy).brimSum = d.energy.brimSum := rfl

/-! ## Fuses -/

@[simp] theorem Boot.setSlot_programming (b : Boot) (k n : Nat) (x : OtpSlot) : (b.setSlot k n x).programming = b.programming := rfl
@[simp] theorem Boot.setSlot_bankA (b : Boot) (k n : Nat) (x : OtpSlot) : (b.setSlot k n x).bankA = b.bankA := rfl
@[simp] theorem Boot.setSlot_bankB (b : Boot) (k n : Nat) (x : OtpSlot) : (b.setSlot k n x).bankB = b.bankB := rfl
@[simp] theorem Boot.setSlot_activeB (b : Boot) (k n : Nat) (x : OtpSlot) : (b.setSlot k n x).activeB = b.activeB := rfl
@[simp] theorem Boot.setSlot_newBank (b : Boot) (k n : Nat) (x : OtpSlot) : (b.setSlot k n x).newBank = b.newBank := rfl
@[simp] theorem Boot.setSlot_runningB (b : Boot) (k n : Nat) (x : OtpSlot) : (b.setSlot k n x).runningB = b.runningB := rfl
@[simp] theorem Boot.setSlot_running (b : Boot) (k n : Nat) (x : OtpSlot) : (b.setSlot k n x).running = b.running := rfl
@[simp] theorem Boot.setSlot_slot (b : Boot) (k n : Nat) (x : OtpSlot) : (b.setSlot k n x).slot = b.slot := rfl
@[simp] theorem Boot.setSlot_staging (b : Boot) (k n : Nat) (x : OtpSlot) : (b.setSlot k n x).staging = b.staging := rfl
@[simp] theorem Boot.setSlot_staged (b : Boot) (k n : Nat) (x : OtpSlot) : (b.setSlot k n x).staged = b.staged := rfl
@[simp] theorem Boot.setSlot_commitGens (b : Boot) (k n : Nat) (x : OtpSlot) : (b.setSlot k n x).commitGens = b.commitGens := rfl
@[simp] theorem Boot.setSlot_thermoDue (b : Boot) (k n : Nat) (x : OtpSlot) : (b.setSlot k n x).thermoDue = b.thermoDue := rfl
@[simp] theorem Boot.setSlot_fru (b : Boot) (k n : Nat) (x : OtpSlot) : (b.setSlot k n x).fru = b.fru := rfl

/-! ## Read after write -/

@[simp] theorem Dev.tile_setTile (d : Dev) (p : Pos) (t : Tile) : (d.setTile p t).tile p = t :=
  Tab.get_set_self _ _ _ _

theorem Dev.tile_setTile_ne (d : Dev) {p q : Pos} (t : Tile) (h : q.ix ≠ p.ix) : (d.setTile p t).tile q = d.tile q :=
  Tab.get_set_ne _ _ _ h

@[simp] theorem Dev.tile_onTile (d : Dev) (p : Pos) (f : Tile → Tile) : (d.onTile p f).tile p = f (d.tile p) :=
  Dev.tile_setTile _ _ _

theorem Dev.tile_onTile_ne (d : Dev) {p q : Pos} (f : Tile → Tile) (h : q.ix ≠ p.ix) : (d.onTile p f).tile q = d.tile q :=
  Dev.tile_setTile_ne _ _ h

/-- Two changes of one tile are one change. -/
theorem Dev.onTile_onTile (d : Dev) (p : Pos) (f g : Tile → Tile) :
    (d.onTile p f).onTile p g = d.onTile p (fun t => g (f t)) := by
  simp [Dev.onTile, Dev.setTile, Dev.tile]

theorem Tile.onSlot_onSlot (t : Tile) (n : Nat) (f g : Slot → Slot) :
    (t.onSlot n f).onSlot n g = t.onSlot n (fun s => g (f s)) := by
  simp [Tile.onSlot, Tile.setSlot, Tile.slot]

@[simp] theorem Tile.slot_setSlot (t : Tile) (n : Nat) (s : Slot) : (t.setSlot n s).slot n = s := Tab.get_set_self _ _ _ _

theorem Tile.slot_setSlot_ne (t : Tile) {n m : Nat} (s : Slot) (h : m ≠ n) : (t.setSlot n s).slot m = t.slot m :=
  Tab.get_set_ne _ _ _ h

@[simp] theorem Tile.slot_onSlot (t : Tile) (n : Nat) (f : Slot → Slot) : (t.onSlot n f).slot n = f (t.slot n) :=
  Tile.slot_setSlot _ _ _

theorem Tile.slot_onSlot_ne (t : Tile) {n m : Nat} (f : Slot → Slot) (h : m ≠ n) : (t.onSlot n f).slot m = t.slot m :=
  Tile.slot_setSlot_ne _ _ h

@[simp] theorem Tile.sq_setSq (t : Tile) (n : Nat) (s : SQ) : (t.setSq n s).sq n = s := Tab.get_set_self _ _ _ _
@[simp] theorem Tile.chan_setChan (t : Tile) (n : Nat) (c : Chan) : (t.setChan n c).chan n = c := Tab.get_set_self _ _ _ _
@[simp] theorem Tile.port_setPort (t : Tile) (n : Nat) (c : OPort) : (t.setPort n c).port n = c := Tab.get_set_self _ _ _ _
@[simp] theorem Tile.acc_setAcc (t : Tile) (n : Nat) (a : Accord) : (t.setAcc n a).acc n = a := Tab.get_set_self _ _ _ _

/-- g0 reads 0 whatever the slot lists (R75, R188). -/
@[simp] theorem Slot.g_zero (s : Slot) : s.g 0 = 0 := rfl

/-- A write to g0 is discarded; any other register holds what is written (R188). -/
theorem Slot.g_setG (s : Slot) (r : Reg) (v : Word) : (s.setG r v).g r = if r.val = 0 then 0 else v := by
  unfold Slot.setG Slot.g
  split <;> simp_all

/-- A write to a register leaves every other register alone. -/
theorem Slot.g_setG_ne (s : Slot) {r q : Reg} (v : Word) (h : q ≠ r) : (s.setG r v).g q = s.g q := by
  unfold Slot.setG Slot.g
  split
  · rfl
  · split
    · rfl
    · exact Tab.get_set_ne _ _ _ (fun e => h (Fin.ext e))

@[simp] theorem Slot.setG_pc (s : Slot) (r : Reg) (v : Word) : (s.setG r v).pc = s.pc := by unfold Slot.setG; split <;> rfl
@[simp] theorem Slot.setG_st (s : Slot) (r : Reg) (v : Word) : (s.setG r v).st = s.st := by unfold Slot.setG; split <;> rfl
@[simp] theorem Slot.setG_wait (s : Slot) (r : Reg) (v : Word) : (s.setG r v).wait = s.wait := by
  unfold Slot.setG; split <;> rfl
@[simp] theorem Slot.setG_ctx (s : Slot) (r : Reg) (v : Word) : (s.setG r v).ctx = s.ctx := by unfold Slot.setG; split <;> rfl
@[simp] theorem Slot.setG_spec (s : Slot) (r : Reg) (v : Word) : (s.setG r v).spec = s.spec := by
  unfold Slot.setG; split <;> rfl
@[simp] theorem Slot.setG_tag (s : Slot) (r : Reg) (v : Word) : (s.setG r v).tag = s.tag := by unfold Slot.setG; split <;> rfl
@[simp] theorem Slot.setG_task (s : Slot) (r : Reg) (v : Word) : (s.setG r v).task = s.task := by
  unfold Slot.setG; split <;> rfl
@[simp] theorem Slot.resume_g (s : Slot) (k : Nat) (r : Reg) : (s.resume k).g r = s.g r := rfl

@[simp] theorem Dev.setTile_arbs (d : Dev) (p : Pos) (t : Tile) : (d.setTile p t).wafer.arbs = d.wafer.arbs := rfl
@[simp] theorem Dev.setTile_firmware (d : Dev) (p : Pos) (t : Tile) : (d.setTile p t).wafer.firmware = d.wafer.firmware := rfl
@[simp] theorem Dev.setTile_fwLacks (d : Dev) (p : Pos) (t : Tile) : (d.setTile p t).wafer.fwLacks = d.wafer.fwLacks := rfl
@[simp] theorem Dev.onTile_arbs (d : Dev) (p : Pos) (f : Tile → Tile) : (d.onTile p f).wafer.arbs = d.wafer.arbs := rfl
@[simp] theorem Dev.onTile_firmware (d : Dev) (p : Pos) (f : Tile → Tile) : (d.onTile p f).wafer.firmware = d.wafer.firmware := rfl
@[simp] theorem Dev.onTile_fwLacks (d : Dev) (p : Pos) (f : Tile → Tile) : (d.onTile p f).wafer.fwLacks = d.wafer.fwLacks := rfl
@[simp] theorem Dev.inject_arbs (d : Dev) (pl : Place) (k : Packet) : (d.inject pl k).wafer.arbs = d.wafer.arbs := rfl
@[simp] theorem Dev.inject_firmware (d : Dev) (pl : Place) (k : Packet) : (d.inject pl k).wafer.firmware = d.wafer.firmware := rfl
@[simp] theorem Dev.inject_fwLacks (d : Dev) (pl : Place) (k : Packet) : (d.inject pl k).wafer.fwLacks = d.wafer.fwLacks := rfl

/-- A write over a mask that a running operation watches marks rows of it, and nothing else. -/
theorem Tile.noteMask_eq (t : Tile) (a n : Nat) : t.noteMask a n = { t with maskHit := (t.noteMask a n).maskHit } := by
  unfold Tile.noteMask; split <;> rfl

/-- A range overwritten: the bytes are there, words covered whole lose their errors, rows of a watched mask are marked; nothing
else changes (R76, R154). -/
theorem Tile.overwrite_eq (t : Tile) (a : Nat) (bs : List Byte) :
    t.overwrite a bs = { t with mem := t.mem.writeN a bs, bad := (t.overwrite a bs).bad, weak := (t.overwrite a bs).weak
                                maskHit := (t.overwrite a bs).maskHit } := by
  unfold Tile.overwrite
  rw [Tile.noteMask_eq]

end Sys2Proof.Machine
end

