-- ==== Sys2Proof/Laws/Thread.lean ====
section
/-! SUPPORT. What running a thread's instruction can do, and what a fault of a tile does: the lemmas that statements
about single instructions cite instead of unfolding `runThread` and `faultTile`. -/

namespace Sys2Proof.Machine

theorem liftAt_ok {b : Bool} (f : Dev → Dev) (s : State) (h : b = true) :
    liftAt b f s = .next { s with dev := f s.dev } := by subst h; rfl

/-- A command lifted from the device keeps the queue, fuses and flash. -/
theorem lift_keeps {f : Dev → Dev} {s t : State} (h : lift f s = .next t) :
    t.pending = s.pending ∧ t.boot = s.boot ∧ t.dev = f s.dev := by
  cases h; exact ⟨rfl, rfl, rfl⟩

theorem liftAt_keeps {b : Bool} {f : Dev → Dev} {s t : State} (h : liftAt b f s = .next t) :
    t.pending = s.pending ∧ t.boot = s.boot ∧ t.dev = f s.dev := by
  cases b
  · cases h
  · exact lift_keeps h

theorem liftBoot_keeps {f : Boot → Dev → Boot × Dev} {s t : State} (h : liftBoot f s = .next t) :
    t.pending = s.pending ∧ t.boot = (f s.boot s.dev).1 ∧ t.dev = (f s.boot s.dev).2 := by
  cases h; exact ⟨rfl, rfl, rfl⟩

/-- An instruction that can be issued, is legal and need not stall has its own end. -/
theorem runThread_own {p : Pos} {ts : Nat} {w : Word} {f : Dev → Res} {d : Dev} (hi : canIssue p ts w d = true)
    (hl : wordLegal p.kind w = true) (hs : ((d.tile p).slot ts).spec = none ∨ stallsUnderTag (opOf w) = false) :
    runThread p ts w f d = (f d).apply p ts w d := by
  unfold runThread
  rcases hs with hs | hs <;> simp [hi, hl, hs]

/-- All that running an instruction can do. -/
theorem runThread_cases (p : Pos) (ts : Nat) (w : Word) (f : Dev → Res) (d : Dev) :
    runThread p ts w f d = d
    ∨ runThread p ts w f d = insnFault p ts w 0x0104 0 d
    ∨ runThread p ts w f d = d.onTile p (fun t => t.onSlot ts (Slot.retry 4 w))
    ∨ runThread p ts w f d = (f d).apply p ts w d := by
  unfold runThread
  split
  · exact .inl rfl
  · split
    · exact .inr (.inl rfl)
    · split
      · exact .inr (.inr (.inl rfl))
      · exact .inr (.inr (.inr rfl))

/-- Job lookup after a change of one job that keeps its slot. -/
theorem Dev.job?_onJob (d : Dev) (k : Nat) (f : Job → Job) (hf : ∀ j, (f j).slot = j.slot) :
    (d.onJob k f).job? k = (d.job? k).map f := by
  unfold Dev.job?
  simp only [Dev.onJob_jobs]
  induction d.jobs with
  | nil => rfl
  | cons j r ih =>
    simp only [List.map_cons, List.find?_cons]
    by_cases h : j.slot = k
    · simp [h, hf]
    · simp only [h, if_false]
      rw [show (j.slot == k) = false by simpa using h]
      exact ih

/-- What a report outside does at most: host side, management data and what has been sent out change; tiles, jobs, maps,
energy, HBM, port tiles and links do not. -/
def Reports (d e : Dev) : Prop :=
  e = { d with host := e.host, mod := e.mod, brim := { d.brim with emitted := e.brim.emitted } }

theorem Reports.refl (d : Dev) : Reports d d := rfl

theorem Reports.trans {d e f : Dev} (h : Reports d e) (k : Reports e f) : Reports d f := by
  unfold Reports at *
  rw [k, h]

theorem Reports.emit (d : Dev) (e : Emit) : Reports d (d.emit e) := rfl
theorem Reports.stamp (d : Dev) : Reports d d.stamp := rfl
theorem Reports.onSession (d : Dev) (tr : Transport) (id : Nat) (f : Session → Session) :
    Reports d (d.onSession tr id f) := rfl

/-- A change of the host side alone. -/
theorem Reports.host (d : Dev) (h : HostSide) : Reports d { d with host := h } := rfl

theorem Reports.wafer {d e : Dev} (h : Reports d e) : e.wafer = d.wafer := by rw [h]
theorem Reports.jobs {d e : Dev} (h : Reports d e) : e.jobs = d.jobs := by rw [h]
theorem Reports.map {d e : Dev} (h : Reports d e) : e.map = d.map := by rw [h]
theorem Reports.energy {d e : Dev} (h : Reports d e) : e.energy = d.energy := by rw [h]
theorem Reports.hbm {d e : Dev} (h : Reports d e) : e.brim.hbm = d.brim.hbm := by rw [h]
theorem Reports.tile {d e : Dev} (h : Reports d e) (p : Pos) : e.tile p = d.tile p := by rw [h]; rfl
theorem Reports.job? {d e : Dev} (h : Reports d e) (k : Nat) : e.job? k = d.job? k := by
  unfold Dev.job?; rw [h.jobs]

theorem Reports.ringPut (r : LogRec) (d : Dev) : Reports d (ringPut r d) := by
  rw [Machine.ringPut]
  dsimp only
  split
  · exact Reports.refl d
  · split
    · exact Reports.host d _
    · exact (Reports.host d _).trans (Reports.emit _ _)

theorem Reports.pushOut (r : LogRec) (d : Dev) : Reports d (pushOut r d) := by
  have : ∀ (l : List Session) (b : Session → List Byte) (e : Dev), Reports e (e.each l (fun s d => d.emit (.push s.id (b s)))) := by
    intro l b
    induction l with
    | nil => exact Reports.refl
    | cons x r ih => exact fun e => (Reports.emit e _).trans (ih _)
  exact this _ _ _

/-- A log record is a report (R422-R424). -/
theorem Reports.appendLog (code origin : Nat) (stopped : Bool) (job loc detail count : Nat) (d : Dev) :
    Reports d (appendLog code origin stopped job loc detail count d) := by
  rw [Machine.appendLog]
  dsimp only
  exact ((Reports.stamp d).trans (Reports.host _ _)).trans ((Reports.ringPut _ _).trans (Reports.pushOut _ _))

/-- A response is a report (R404, R405, R411). -/
theorem Reports.respond (r : Req) (opcode flags status refusal logSeq : Nat) (payload : List Byte) (d : Dev) :
    Reports d (respond r opcode flags status refusal logSeq payload d) := by
  rw [Machine.respond]
  dsimp only
  refine (Reports.stamp d).trans ?_
  split
  · exact (Reports.emit _ _).trans (Reports.host _ _)
  · exact (Reports.emit _ _).trans (Reports.onSession _ _ _ _)

/-- The end of a logged command is a report: its record and its response. -/
theorem Reports.finishCmd (r : Req) (opcode status refusal : Nat) (payload : List Byte) (d : Dev) :
    Reports d (finishCmd r opcode status refusal payload d) := by
  rw [Machine.finishCmd]
  refine Reports.trans ?_ (Reports.respond _ _ _ _ _ _ _ _)
  rw [cmdRecord]
  split
  · exact Reports.refl d
  · exact Reports.appendLog _ _ _ _ _ _ _ _

theorem Reports.answerCmd (r : Req) (opcode status : Nat) (payload : List Byte) (d : Dev) :
    Reports d (answerCmd r opcode status payload d) := Reports.respond _ _ _ _ _ _ _ _

/-- The stop of a job changes that job and reports; tiles, map, energy and HBM stay (R235). -/
theorem stopJob_does (k code : Nat) (c : RC) (step : Nat) (b : Bool) (d : Dev) :
    Reports d (stopJob k code c step b d) ∧ d.job? k = none
    ∨ Reports (d.onJob k (fun j => j.stopped code c step d.now b)) (stopJob k code c step b d) := by
  rw [stopJob]
  split
  · rename_i h; exact .inl ⟨Reports.refl d, h⟩
  · dsimp only
    split
    · split
      · exact .inr (Reports.finishCmd _ _ _ _ _ _)
      · exact .inr (Reports.refl _)
    · exact .inr (Reports.refl _)

theorem stopJob_wafer (k code : Nat) (c : RC) (step : Nat) (b : Bool) (d : Dev) :
    (stopJob k code c step b d).wafer = d.wafer := by
  rcases stopJob_does k code c step b d with ⟨h, _⟩ | h <;> exact h.wafer

theorem stopJob_map (k code : Nat) (c : RC) (step : Nat) (b : Bool) (d : Dev) :
    (stopJob k code c step b d).map = d.map := by
  rcases stopJob_does k code c step b d with ⟨h, _⟩ | h <;> exact h.map

theorem stopJob_energy (k code : Nat) (c : RC) (step : Nat) (b : Bool) (d : Dev) :
    (stopJob k code c step b d).energy = d.energy := by
  rcases stopJob_does k code c step b d with ⟨h, _⟩ | h <;> exact h.energy

theorem stopJob_hbm (k code : Nat) (c : RC) (step : Nat) (b : Bool) (d : Dev) :
    (stopJob k code c step b d).brim.hbm = d.brim.hbm := by
  rcases stopJob_does k code c step b d with ⟨h, _⟩ | h <;> exact h.hbm

theorem stopJob_job (k code : Nat) (c : RC) (step : Nat) (b : Bool) (d : Dev) :
    (stopJob k code c step b d).job? k = (d.job? k).map (fun j => j.stopped code c step d.now b) := by
  rcases stopJob_does k code c step b d with ⟨h, e⟩ | h
  · rw [h.job?, e]; rfl
  · rw [h.job?, Dev.job?_onJob d k (fun j => j.stopped code c step d.now b) (fun _ => rfl)]

/-- Recording a fault changes the fault registers of the tile alone. -/
theorem Tile.recordFault_eq (t : Tile) (code : Nat) (a : FaultAt) :
    t.recordFault code a = { t with
      faultInfo := (t.recordFault code a).faultInfo
      faultPc := (t.recordFault code a).faultPc
      faultInsn := (t.recordFault code a).faultInsn } := by
  unfold Tile.recordFault
  split <;> rfl

/-- All that a fault of a tile does (R191, R234): the fault recorded and the job stopped, or only a log record. -/
theorem faultTile_does (p : Pos) (code detail : Nat) (a : FaultAt) (d : Dev) :
    Reports d (faultTile p code detail a d)
    ∨ ∃ j e, d.jobAt p = some j ∧ Reports (d.onTile p (fun t => t.recordFault code a)) e
        ∧ faultTile p code detail a d = stopJob j.slot code (d.tile p).rc (d.tile p).step true e := by
  rw [faultTile]
  split
  · exact .inl (Reports.refl d)
  · rename_i j h
    split
    · exact .inr ⟨j, _, h, Reports.appendLog _ _ _ _ _ _ _ _, rfl⟩
    · exact .inl (Reports.appendLog _ _ _ _ _ _ _ _)

/-- A tile after a fault of a tile: as before, or as before but for its fault registers. -/
theorem faultTile_tile (p : Pos) (code detail : Nat) (a : FaultAt) (d : Dev) (q : Pos) :
    (faultTile p code detail a d).tile q = d.tile q
    ∨ (faultTile p code detail a d).tile q = (d.tile q).recordFault code a := by
  rcases faultTile_does p code detail a d with h | ⟨j, e, _, h, he⟩
  · exact .inl (h.tile q)
  · have : (faultTile p code detail a d).tile q = (d.onTile p (fun t => t.recordFault code a)).tile q := by
      rw [he]
      unfold Dev.tile
      rw [stopJob_wafer, h.wafer]
    rw [this]
    by_cases hq : q.ix = p.ix
    · refine .inr ?_
      have e1 : (d.onTile p (fun t => t.recordFault code a)).tile q = (d.onTile p (fun t => t.recordFault code a)).tile p := by
        unfold Dev.tile; rw [hq]
      have e2 : d.tile q = d.tile p := by unfold Dev.tile; rw [hq]
      rw [e1, e2, Dev.tile_onTile]
    · exact .inl (Dev.tile_onTile_ne d _ hq)

theorem faultTile_map (p : Pos) (code detail : Nat) (a : FaultAt) (d : Dev) :
    (faultTile p code detail a d).map = d.map := by
  rcases faultTile_does p code detail a d with h | ⟨j, e, _, h, he⟩
  · exact h.map
  · rw [he, stopJob_map, h.map]; rfl

theorem faultTile_energy (p : Pos) (code detail : Nat) (a : FaultAt) (d : Dev) :
    (faultTile p code detail a d).energy = d.energy := by
  rcases faultTile_does p code detail a d with h | ⟨j, e, _, h, he⟩
  · exact h.energy
  · rw [he, stopJob_energy, h.energy]; rfl

theorem faultTile_hbm (p : Pos) (code detail : Nat) (a : FaultAt) (d : Dev) :
    (faultTile p code detail a d).brim.hbm = d.brim.hbm := by
  rcases faultTile_does p code detail a d with h | ⟨j, e, _, h, he⟩
  · exact h.hbm
  · rw [he, stopJob_hbm, h.hbm]; rfl

end Sys2Proof.Machine
end

