-- ==== Sys2Proof/Tests/Slice0.lean ====
section
/-! SUPPORT. Tests of the model's own work: the checks of well-formed commands refuse ill-formed ones; small cases whose
expected results come from the spec; and, for every statement that has hypotheses, states and operands that meet all of
them, so that no statement is empty. -/

set_option maxRecDepth 20000
set_option Elab.async false

namespace Sys2Proof.Tests

open Sys2Proof Sys2Proof.Machine Sys2Proof.Claim

/-! ## Small states -/

/-- A Compute, a Function and a Store position of field 0, and the next Compute position to the east. -/
def tC : Pos := ⟨0, 0⟩
def tF : Pos := ⟨7, 0⟩
def tS : Pos := ⟨3, 0⟩
def tD : Pos := ⟨1, 0⟩

/-- A TILES record without tasks. -/
def recAt (rx : Nat) : TileRec :=
  { rc := ⟨rx, 0⟩, kind := rcKind rx, accords := 3, sqExp := 24, enrol := 1, maxInflight := 0, blocked := false, spec := false
    prog := [], memUsed := 0, tasks := [], steers := [], sqs := [], segs := [], tables := [] }

/-- A job image of one group: Compute tiles 0 and 1, Store tile 3, Function tile 7; one line. -/
def img : Image :=
  { narrow := false, nLines := 1, hbExp := 34, rtoExp := 18, ndev := 1, seed := 0, energyStep := 0, stepRate := 0, w := 1
    skip := 0, h := 1, tiles := [recAt 0, recAt 1, recAt 3, recAt 7], chans := [], reds := [], home := (0, 0), pause := (0, 0)
    dryd := (0, 0), ranges := [(0, 0x10000)], dmaqs := [], rets := [] }

/-- The job of that image, running in slot 0 from group 0, row 0, on line 0. -/
def job : Job := { newJob 1 0 850 0 img with st := .running, origin := some (0, 0), lines := [0], gate0 := true, gates := true }

/-- A tile of the job with a running thread in slot 0. -/
def tile (rx : Nat) : Tile :=
  { rc := ⟨rx, 0⟩, slots := [(0, { st := .running, regs := [(1, 6), (2, 3)] })], order := [0], net := { jslot := some 0 }
    granted := true }

/-- A device in the Active state with its first field powered. -/
def devOf (x : Tab Tile) (j : Job) : Dev :=
  { wafer := { tiles := x }, jobs := [j], energy := { fields := [(0, { powered := true, volt := 750, target := 750 })] }
    mod := { st := .active, standbyOn := true, qualified := true } }

def stateOf (d : Dev) : State := { pending := [], dev := d, boot := Boot.shipped }

/-- The job runs on its four tiles. -/
def devJ : Dev := devOf [(tC.ix, tile 0), (tD.ix, tile 1), (tS.ix, tile 3), (tF.ix, tile 7)] job
def sJ : State := stateOf devJ

/-- The same with tile `p` and the job changed. -/
def sWith (p : Pos) (f : Tile → Tile) (g : Job → Job) : State := stateOf ((devJ.onTile p f).onJob 0 g)

/-- The registers of the thread in slot 0. -/
def regs (l : Tab Word) (x : Tile) : Tile := x.onSlot 0 (fun y => { y with regs := l })

/-- Whether a command answers a next state with a property. -/
def gives (c : Instr) (s : State) (p : Dev → Bool) : Bool :=
  match exec c s with
  | .next t => p t.dev
  | _ => false

def faults (c : Instr) (s : State) : Bool :=
  match exec c s with
  | .fault .noSuchPlace => true
  | _ => false

def res (c : Instr) (s : State) (p : State → Bool) : Bool :=
  match exec c s with
  | .next t => p t
  | _ => false

/-! ## The queue and whole-machine statements -/

/-- A command that answers a next state. -/
theorem next_of {c : Instr} {s : State} {p : State → Bool} (h : res c s p = true) : ∃ t, exec c s = .next t ∧ p t = true := by
  unfold res at h
  split at h
  · exact ⟨_, by assumption, h⟩
  · cases h

def add1 : Instr := .add tC 0 3 1 2

/-- A register of the first thread of tile 0. -/
def reg (t : Dev) (r : Nat) : Word := ((t.tile tC).slot 0).regs.get 0 r

theorem witness_StepRunsTheFrontCommand :
    { sJ with pending := [add1, .yield tC 0] }.pending = add1 :: [.yield tC 0] ∧ sJ.pending = [] ∧ State.reset.pending = [] :=
  ⟨rfl, rfl, rfl⟩

theorem witness_QueueIsNotAnEffect : ∃ t, exec add1 sJ = .next t ∧ (t.dev.tile tC).mem = [] := by
  obtain ⟨t, h, e⟩ := next_of (c := add1) (s := sJ) (p := fun t => (t.dev.tile tC).mem == []) (by decide +kernel)
  exact ⟨t, h, by simpa using e⟩

theorem witness_FusesAndFlash : Claim.mayWriteBoot add1 = false ∧ ∃ t, exec add1 sJ = .next t ∧ reg t.dev 3 = 9 := by
  obtain ⟨t, h, e⟩ := next_of (c := add1) (s := sJ) (p := fun t => reg t.dev 3 == 9) (by decide +kernel)
  exact ⟨rfl, t, h, by simpa using e⟩

/-! The fuses of a part as shipped -/

theorem made_valid (k n : Nat) (c : OtpContent) : (OtpSlot.made k n c).valid k n = true := by
  simp [OtpSlot.valid, OtpSlot.made, OtpSlot.sum]

theorem newest_of {b : Boot} {k : Nat} {c : OtpContent} (hk : k ≠ 0) (h0 : b.slotAt k 0 = .made k 0 c) (hs : c.sound = true)
    (hn : ∀ n : Nat, n ∈ [1, 2, 3, 4] → b.slotAt k n = {}) : b.newest k = some (0, c) := by
  have e : ∀ n l, (({} : OtpSlot)).counts k n l = false := by
    intro n l
    simp [OtpSlot.counts, OtpSlot.valid, Ne.symm hk]
  have hc : (OtpSlot.made k 0 c).content = c := rfl
  have h1 := hn 1 (by simp)
  have h2 := hn 2 (by simp)
  have h3 := hn 3 (by simp)
  have h4 := hn 4 (by simp)
  have r : List.range 5 = [0, 1, 2, 3, 4] := by decide
  unfold Boot.newest Boot.valids
  rw [r]
  simp only [List.foldl_cons, List.foldl_nil, h0, h1, h2, h3, h4, e]
  simp [OtpSlot.counts, made_valid, hc, hs]

theorem shipped_slots {b : Boot} (hb : b.otp = Boot.shipped.otp) :
    b.newest 2 = some (0, .limits 0 850 42000 48000 1200) ∧ b.newest 3 = some (0, .settings true true false true 1 50300)
    ∧ b.newest 5 = some (0, .defects [] []) ∧ b.newest 1 = some (0, .seed Config.identitySeed) := by
  have hs : ∀ k n, b.slotAt k n = Boot.shipped.slotAt k n := by intro k n; simp [Boot.slotAt, hb]
  refine ⟨newest_of (by decide) ((hs _ _).trans rfl) (by decide) ?_, newest_of (by decide) ((hs _ _).trans rfl) rfl ?_,
    newest_of (by decide) ((hs _ _).trans rfl) rfl ?_, newest_of (by decide) ((hs _ _).trans rfl) rfl ?_⟩ <;>
    (intro n h; simp only [List.mem_cons, List.not_mem_nil, or_false] at h; rcases h with rfl | rfl | rfl | rfl <;> exact (hs _ _).trans rfl)

theorem shipped_count {b : Boot} (hb : b.otp = Boot.shipped.otp) : b.count = 0 := by
  unfold Boot.count Boot.thermometer Boot.slotAt
  rw [hb]; decide +kernel

theorem shipped_blanks {b : Boot} (hb : b.otp = Boot.shipped.otp) : b.blanks 5 = [1, 2, 3, 4] ∧ b.blanks 3 = [1, 2, 3, 4] := by
  unfold Boot.blanks Boot.slotAt
  rw [hb]; decide +kernel

/-- A part that raises its thermometer in generation 1 and is told that the generation is programmed. -/
def sProg : State :=
  { pending := [.generationProgrammed], dev := devJ
    boot := { Boot.shipped with programming := some (4, 1, .thermometer [true], none) } }

theorem sProg_programs : sProg.boot.Programs := by
  intro k n c r h
  cases h
  rfl

theorem witness_Programming : sProg.boot.Programs ∧ (sProg.boot.slotAt 4 1).isBlank = true ∧ (sProg.boot.slotAt 5 0).isBlank = false
    ∧ ∃ t, step sProg = .next t ∧ (t.boot.slotAt 4 1).isBlank = false := by
  refine ⟨sProg_programs, by decide +kernel, by decide +kernel, ?_⟩
  obtain ⟨t, h, e⟩ := next_of (c := .generationProgrammed) (s := { sProg with pending := [] })
    (p := fun t => (t.boot.slotAt 4 1).isBlank == false) (by decide +kernel)
  exact ⟨t, h, by simpa using e⟩

/-- A store of one byte on a step of the block. -/
def sStore : State := { sJ with pending := [.sb tC 0 1 2 5] }

theorem witness_MemoriesStayCanonical : sStore.dev.memWf = true ∧ ∃ t, step sStore = .next t ∧ (t.dev.tile tC).mem.read 8 = 6 := by
  refine ⟨by decide +kernel, ?_⟩
  obtain ⟨t, h, e⟩ := next_of (c := .sb tC 0 1 2 5) (s := sJ) (p := fun t => (t.dev.tile tC).mem.read 8 == 6) (by decide +kernel)
  exact ⟨t, h, by simpa using e⟩

/-- The highest opcode that a word holds is admitted. -/
theorem witness_WordFields : (0x7F : Nat) < 128 ∧ (0 : Nat) < 128 ∧ opOf (encA 0x7F 31 31 31 0x3FF) = 0x7F := by decide +kernel

/-! ## Scalar and branch instructions -/

theorem witness_three : ∀ e ∈ Claim.threeReg tC 0 3 1 2, Issues sJ tC 0 (encA e.2.1 3 1 2 0) := by
  unfold Issues thread; decide +kernel

theorem witness_three_g0 : Issues sJ tS 0 (encA 0x01 0 31 31 0) := by unfold Issues thread; decide +kernel

theorem witness_immediate : (∀ e ∈ Claim.immediate tC 0 3 1 0x7FFF, Issues sJ tC 0 (encI e.2.1 3 1 0x7FFF))
    ∧ Issues sJ tC 0 (encU 0x16 3 0xFFFFF)
    ∧ ∀ k ∈ [0, 1, 2, 3], Issues sJ tC 0 (encA 0x14 3 1 0 (BitVec.ofNat 10 (31 + 32 * k)))
        ∧ bits (BitVec.ofNat 10 (31 + 32 * k)).toNat 5 2 = k := by
  unfold Issues thread; decide +kernel

theorem witness_branches : ∀ a ∈ [[(1, 6), (2, 6)], [(1, 5), (2, 6)], [(1, 6), (2, 5)]],
    (∀ e ∈ Claim.branches tC 0 1 2 0x7FFF, Issues (sWith tC (regs a) id) tC 0 (encI e.2.1 1 2 0x7FFF))
    ∧ Issues (sWith tC (regs a) id) tC 0 (encI 0x1E 1 0 0x4000) ∧ Issues (sWith tC (regs a) id) tC 0 (encI 0x1F 1 2 0x4000) := by
  unfold Issues thread; decide +kernel

/-- Each condition holds and fails for some operands. -/
theorem witness_conditions : ∃ a b c : Word, ∀ e ∈ Claim.branches tC 0 1 2 0x7FFF,
    (e.2.2 a a ∨ e.2.2 b c ∨ e.2.2 c b) ∧ (¬ e.2.2 a a ∨ ¬ e.2.2 b c ∨ ¬ e.2.2 c b) := by
  refine ⟨5, 5, 6, ?_⟩
  intro e h
  simp only [Claim.branches, List.mem_cons, List.not_mem_nil, or_false] at h
  rcases h with rfl | rfl | rfl | rfl | rfl | rfl <;> decide

theorem witness_illegal : slotOk tC 0 = true ∧ canIssue tC 0 0 sJ.dev = true ∧ wordLegal tC.kind 0 = false
    ∧ canIssue tC 0 (encA 0x75 0 0 0 0) sJ.dev = true ∧ wordLegal tS.kind (encA 0x29 1 2 3 0) = false
    ∧ canIssue tS 0 (encA 0x29 1 2 3 0) sJ.dev = true := by decide +kernel

theorem witness_scalar_frame : add1 ∈ (Claim.threeReg tC 0 3 1 2).map (·.1) ∧ ∃ u, exec add1 sJ = .next u ∧ (thread u tC 0).g 3 = 9 := by
  refine ⟨by decide +kernel, ?_⟩
  obtain ⟨t, h, e⟩ := next_of (c := add1) (s := sJ) (p := fun t => (thread t tC 0).g 3 == 9) (by decide +kernel)
  exact ⟨t, h, by simpa using e⟩

/-! ## Well-formed commands: one ill-formed term for every check, and one that passes it -/

def rq (tr : Transport) (box : Nat) : Req := { tr := tr, box := box, session := 1, major := 1, seq := 1, job := 0 }

theorem test_wf_slot_compute : (Instr.add tC 31 1 2 3).wf = true ∧ (Instr.add tC 32 1 2 3).wf = false := by decide +kernel
theorem test_wf_slot_function : (Instr.vop tF 15 1).wf = true ∧ (Instr.vop tF 16 1).wf = false := by decide +kernel
theorem test_wf_slot_store : (Instr.lw tS 3 1 2 0).wf = true ∧ (Instr.lw tS 4 1 2 0).wf = false := by decide +kernel
theorem test_wf_position : (Instr.tend ⟨511, 479⟩ 0).wf = true ∧ (Instr.tend ⟨512, 0⟩ 0).wf = false
    ∧ (Instr.instanceFire ⟨0, 480⟩).wf = false := by decide +kernel
theorem test_wf_timer : (Instr.remoteTimeout (.tile tC 4096)).wf = false ∧ (Instr.remoteTimeout (.token tC 32 0)).wf = false
    ∧ (Instr.remoteTimeout (.port 147 0)).wf = false ∧ (Instr.remoteTimeout (.token tC 31 4095)).wf = true := by decide +kernel
theorem test_wf_box : (Instr.identify (rq .tether 16)).wf = false ∧ (Instr.identify (rq .tether 15)).wf = true
    ∧ (Instr.identify (rq .uart 16)).wf = true := by decide +kernel
theorem test_wf_line : (Instr.hatbandCrossing 32).wf = false ∧ (Instr.crossingSeen tC 32).wf = false
    ∧ (Instr.hatbandCrossing 31).wf = true := by decide +kernel
theorem test_wf_job : (Instr.stepConfirm 32).wf = false ∧ (Instr.gateOpen 31).wf = true := by decide +kernel
theorem test_wf_channel : (Instr.tokenAdmit tC 32).wf = false ∧ (Instr.creditRepeat tC 40).wf = false
    ∧ (Instr.creditRepeat tC 39).wf = true ∧ (Instr.deepChannelForward tS 8).wf = false := by decide +kernel
theorem test_wf_unit : (Instr.steerForward tC 16).wf = false ∧ (Instr.mergeForward tC 15).wf = true := by decide +kernel
theorem test_wf_seq : (Instr.seqQuarantineEnd (.tile tC) 4096).wf = false ∧ (Instr.seqQuarantineEnd (.tile tC) 4095).wf = true := by
  decide +kernel
theorem test_wf_dma : (Instr.dmaDescriptorStart tS 4).wf = false ∧ (Instr.dmaComplete 96 0).wf = false
    ∧ (Instr.dmaComplete 95 0).wf = true := by decide +kernel
theorem test_wf_stack : (Instr.hbmScrubRead 24 0 .clean).wf = false ∧ (Instr.hbmScrubRead 23 1500000000 .clean).wf = false
    ∧ (Instr.hbmScrubRead 23 1499999999 .clean).wf = true := by decide +kernel
theorem test_wf_port : (Instr.portCommit 146 0).wf = false ∧ (Instr.laneLoss 50 0).wf = false ∧ (Instr.laneLoss 0 8).wf = false
    ∧ (Instr.laneLoss 49 7).wf = true := by decide +kernel
theorem test_wf_field : (Instr.fieldShort 48).wf = false ∧ (Instr.fieldWavePowered 6 []).wf = false
    ∧ (Instr.regulatorStep 47).wf = true := by decide +kernel
theorem test_wf_tether : (Instr.doorbellDone 16).wf = false ∧ (Instr.evrEnable 2 16).wf = false ∧ (Instr.evrEnable 1 16).wf = true := by
  decide +kernel
theorem test_wf_side : (Instr.hbmOrOpticalSupplyFault 4 false).wf = false ∧ (Instr.hbmOrOpticalSupplyFault 3 true).wf = true := by
  decide +kernel
theorem test_wf_results : (Instr.hbmTrainingDone [⟨24, 0, []⟩]).wf = false ∧ (Instr.opticalTrainingDone [⟨50, 0, 0, false⟩]).wf = false
    ∧ (Instr.trainLinksDone [⟨23, 0, []⟩] [⟨49, 0, 0, false⟩]).wf = true := by decide +kernel
theorem test_wf_tiles : (Instr.neighbourTestDone [(tC, ⟨512, 0⟩)] [] []).wf = false
    ∧ (Instr.firmwareBroadcastDone [[(⟨0, 512⟩, [])]] false).wf = false ∧ (Instr.neighbourTestDone [(tC, tD)] [] [tF]).wf = true := by
  decide +kernel

/-! ## Values that the spec's worked examples give -/

/-- The conversions into F8a of the table below R69, in RNE: 1.3, 1.3125, 490, 500, −1,000,000, −0.0009, −0. -/
theorem test_convert_rne : (cvtElem false 4 0 0 0 0x3FA66666).1 = 0x3A ∧ (cvtElem false 4 0 0 0 0x3FA80000).1 = 0x3A
    ∧ cvtElem false 4 0 0 0 0x43F50000 = (0x7F, false) ∧ cvtElem false 4 0 0 0 0x43FA0000 = (0x7F, true)
    ∧ cvtElem false 4 0 0 0 0xC9742400 = (0xFF, true) ∧ (cvtElem false 4 0 0 0 0xBA6BEDFA).1 = 0
    ∧ (cvtElem false 4 0 0 0 0x80000000).1 = 0 := by decide +kernel

/-- The same table in RTZ and SR: the threshold of 1.3 is 2,458; a BF16 infinity gives NaN in every mode. -/
theorem test_convert_modes : (cvtElem false 4 0 1 0 0x3FA66666).1 = 0x3A ∧ (cvtElem false 4 0 2 2457 0x3FA66666).1 = 0x3A
    ∧ (cvtElem false 4 0 2 2458 0x3FA66666).1 = 0x3B ∧ (cvtElem false 2 0 0 0 0x7F80).1 = 0x80
    ∧ (cvtElem false 2 0 2 4095 0x7F80).1 = 0x80 := by decide +kernel

/-- The first output word of an all-zero key and counter, and the bits of the example below R74. -/
theorem test_philox : (philox 0 0 0 0 0 0).1 = 0x6627E8D5 ∧ srBits ⟨0, 0, 0, ⟨0, 0⟩, 0⟩ 0 0 = 2261
    ∧ (cvtElem false 4 0 2 2261 0x3FA66666).1 = 0x3A := by decide +kernel

/-- The output scale of the example below R64: amax 37.2 gives byte 0x7C, and 37.2, −0.9, 0.0001 give 0x79, 0xCE, 0x00. -/
theorem test_output_scale : scaleByte 0 [ofF32 0x4214CCCD, ofF32 0xBF666666, ofF32 0x38D1B717] = 0x7C
    ∧ (scaledCode 0 0 0 0x7C (ofF32 0x4214CCCD)).1 = 0x79 ∧ (scaledCode 0 0 0 0x7C (ofF32 0xBF666666)).1 = 0xCE
    ∧ (scaledCode 0 0 0 0x7C (ofF32 0x38D1B717)).1 = 0 := by decide +kernel

/-- The worked example of the reference order: a lane block of 2^24 + 1 + 1 − 2^24 is 2.0, and the three lane blocks add up to
16,777,220.0. -/
theorem test_reference_order :
    laneBlock [.num ⟨16777216, 1⟩, .num ⟨1, 1⟩, .num ⟨1, 1⟩, .num ⟨-16777216, 1⟩] = 0x40000000
    ∧ addF32 (addF32 (addF32 0 0x40000000) 0x4B800000) 0x3F800000 = 0x4B800002
    ∧ addF32 (addF32 0x3F800000 0x4B800000) 0x40000000 = 0x4B800001 := by decide +kernel

/-- The reduction example below R129: 1.0 + 0.00390625 into BF16 rounds up from 2,048; the exact nodes draw nothing. -/
theorem test_long_sum : longSum 2 2 2047 (decodeFmt 2 0x3F80) (decodeFmt 2 0x3B80) = 0x3F80
    ∧ longSum 2 2 2048 (decodeFmt 2 0x3F80) (decodeFmt 2 0x3B80) = 0x3F81
    ∧ longSum 2 2 4095 (decodeFmt 2 0x4040) (decodeFmt 2 0xBF80) = 0x4000 := by decide +kernel

/-- The fulling example below R149: which positions each group keeps, and its metadata. -/
theorem test_fulling : nmKept 2 [ofF32 0x3F000000, ofF32 0xC0400000, ofF32 0, ofF32 0x3F800000] = [1, 3]
    ∧ nmKept 2 [ofF32 0, ofF32 0, ofF32 0x3F400000, ofF32 0] = [2]
    ∧ nmKept 2 [ofF32 0x3E800000, ofF32 0x3E800000, ofF32 0x3E800000, ofF32 0] = [0, 1]
    ∧ nmWord 1 [1, 3] = 0x2D ∧ nmWord 1 [2] = 0x12 ∧ nmWord 1 [0, 1] = 0x24 := by decide +kernel

/-- The sparse metadata of the example below R142: a count of 3 is treated as 2. -/
theorem test_metadata : nmIndices 1 0xF9 = [1, 2] ∧ nmIndices 1 0x25 = [1, 1] ∧ nmIndices 1 0x1C = [0] := by decide +kernel

/-- The scout example below R154: products 8, 8, 2 and 1 are estimated at 136. -/
theorem test_scout : scoutEstimate [(decodeFmt 0 0x50, decodeFmt 0 0x38), (decodeFmt 0 0x50, decodeFmt 0 0x38),
    (decodeFmt 0 0x40, decodeFmt 0 0x38), (decodeFmt 0 0x38, decodeFmt 0 0x38)] = 136 := by decide +kernel

/-- The sillage bins of the finishing example: 3.0 in bin 49, 498.25 in bin 56. -/
theorem test_histogram : histBin (ofF32 0x40400000) = 4 * 49 ∧ histBin (ofF32 0x43F92000) = 4 * 56 := by decide +kernel

/-- The spare example below R23: row 97 has the spare index 4 in group 12, row 96 the default. -/
theorem test_spare :
    let m : MapSt := { spares := [(32 * 97 + 12, 4)] }
    m.physicalOf 154 97 = some ⟨206, 97⟩ ∧ m.physicalOf 154 96 = some ⟨205, 96⟩ ∧ m.logicalOf ⟨205, 97⟩ = some (153, 97)
    ∧ m.logicalOf ⟨203, 97⟩ = none ∧ m.logicalOf ⟨197, 97⟩ = none := by decide +kernel

/-- The interleaving example below R290. -/
theorem test_interleaved : interleaved 0x100005400 = (21, 0xAAAA400) := by decide +kernel

/-- The rank table of the example below R451 finds a port, the device itself, or nothing. -/
theorem test_rank_table :
    let t : RankTable := { fjob := 0x31, own := 5, ndev := 8, ranges := [(0, 3, 12, 2), (4, 4, 40, 1), (6, 7, 12, 2), (8, 8, 48, 2)]
                           rows := [], egressDefault := 0 }
    t.find 2 = .port 12 ∧ t.find 7 = .port 13 ∧ t.find 5 = .own ∧ t.find 8 = .port 48 ∧ t.find 9 = .missing := by decide +kernel

/-- The check values of CRC-32C and CRC-8 over the digits 1 to 9 (their polynomials and initial values: R240, R431). -/
theorem test_crc : crc32c [0x31, 0x32, 0x33, 0x34, 0x35, 0x36, 0x37, 0x38, 0x39] = 0xE3069283
    ∧ crc8 [0x31, 0x32, 0x33, 0x34, 0x35, 0x36, 0x37, 0x38, 0x39] = 0xF4 := by decide +kernel

/-! ## Single instructions -/

/-- R194: a sum wraps, a signed compare, an arithmetic shift, a high product. -/
theorem test_add_wraps : gives (.add tC 0 3 1 2) (sWith tC (regs [(1, 0xFFFFFFFF), (2, 2)]) id) (fun d => reg d 3 == 1) = true := by
  decide +kernel
theorem test_sub_order : gives (.sub tC 0 3 1 2) (sWith tC (regs [(1, 3), (2, 5)]) id) (fun d => reg d 3 == 0xFFFFFFFE) = true := by
  decide +kernel
theorem test_slt_signed : gives (.slt tC 0 3 1 2) (sWith tC (regs [(1, 0xFFFFFFFF), (2, 0)]) id) (fun d => reg d 3 == 1) = true
    ∧ gives (.sltu tC 0 3 1 2) (sWith tC (regs [(1, 0xFFFFFFFF), (2, 0)]) id) (fun d => reg d 3 == 0) = true := by decide +kernel
theorem test_sra_sign : gives (.sra tC 0 3 1 2) (sWith tC (regs [(1, 0x80000000), (2, 36)]) id) (fun d => reg d 3 == 0xF8000000) = true := by
  decide +kernel
theorem test_mulhu_high : gives (.mulhu tC 0 3 1 2) (sWith tC (regs [(1, 0xFFFFFFFF), (2, 0xFFFFFFFF)]) id)
    (fun d => reg d 3 == 0xFFFFFFFE) = true := by decide +kernel
/-- Register 0 reads as 0 and keeps nothing (R188). -/
theorem test_register_zero : gives (.add tC 0 0 1 2) sJ (fun d => reg d 0 == 0) = true := by decide +kernel
/-- A reserved opcode faults the thread with 0x0104 (R188, R191). -/
theorem test_reserved_opcode : gives (.reservedOpcode tC 0 0) sJ (fun d => (d.tile tC).faultInfo == 0x80000104) = true := by
  decide +kernel

/-! ## Instruction words: the encodings that the example of the instruction set writes out (R187) -/

theorem test_words_producer : encU 0x16 4 2 = 0x2C400002 ∧ encI 0x10 5 0 0x605 = 0x20500605 ∧ encU 0x16 6 0x20010 = 0x2C620010
    ∧ encI 0x10 7 0 256 = 0x20700100 ∧ encA 0x50 4 5 6 0x012 = 0xA0429812 ∧ encA 0x54 7 5 1 0x052 = 0xA8728452
    ∧ encA 0x70 0 0 0 0 = 0xE0000000 := by decide +kernel
theorem test_words_consumer : encQ 0x41 3 0 0 0 5 = 0x82300005 ∧ encI 0x10 3 3 1 = 0x20318001 ∧ encQ 0x33 0 0 3 0 0 = 0x66000C00 ∧ encI 0x1E 0 0 (-42) = 0x3C007FD6 := by
  decide +kernel
/-! ## Tile memory -/

/-- A Compute tile with some bytes, and a thread whose g1 to g3 are given. -/
def sMem (a b c : Word) : State :=
  sWith tC (fun x => { regs [(1, a), (2, b), (3, c)] x with mem := [(0x100, 1), (0x104, 0x80), (0x105, 0x3F)] }) id

/-- The first and the last word of a Compute tile's memory. -/
theorem witness_loads : ∀ n : Nat, n ∈ [0, 0x3FFFC] → ∀ e ∈ Claim.loads tC 0 3 1 0, Issues (sMem (BitVec.ofNat 32 n) 0 0) tC 0 (encI e.2.1 3 1 0)
    ∧ addrOf ((thread (sMem (BitVec.ofNat 32 n) 0 0) tC 0).g 1) 0 % e.2.2.1 = 0 ∧ inWindow (addrOf ((thread (sMem (BitVec.ofNat 32 n) 0 0) tC 0).g 1) 0) = false
    ∧ Claim.Readable (sMem (BitVec.ofNat 32 n) 0 0) tC 0 (addrOf ((thread (sMem (BitVec.ofNat 32 n) 0 0) tC 0).g 1) 0) e.2.2.1 := by
  unfold Issues thread Claim.Readable thread; decide +kernel

theorem witness_stores : ∀ n : Nat, n ∈ [0, 0x3FFFC] → ∀ e ∈ Claim.stores tC 0 3 1 0, Issues (sMem (BitVec.ofNat 32 n) 0 0) tC 0 (encI e.2.1 3 1 0)
    ∧ addrOf ((thread (sMem (BitVec.ofNat 32 n) 0 0) tC 0).g 1) 0 % e.2.2 = 0 ∧ inWindow (addrOf ((thread (sMem (BitVec.ofNat 32 n) 0 0) tC 0).g 1) 0) = false
    ∧ Claim.Writable (sMem (BitVec.ofNat 32 n) 0 0) tC 0 (addrOf ((thread (sMem (BitVec.ofNat 32 n) 0 0) tC 0).g 1) 0) e.2.2
    ∧ ((sMem (BitVec.ofNat 32 n) 0 0).dev.tile tC).mem.wf = true := by
  unfold Issues thread Claim.Writable thread; decide +kernel

theorem witness_window : ∀ n : Nat, n ∈ [0x180000, 0x18FFFC] → Issues (sMem (BitVec.ofNat 32 n) 0 0) tC 0 (encI 0x24 3 1 0)
    ∧ Issues (sMem (BitVec.ofNat 32 n) 0 0) tC 0 (encI 0x27 3 1 0) ∧ addrOf ((thread (sMem (BitVec.ofNat 32 n) 0 0) tC 0).g 1) 0 % 4 = 0
    ∧ inWindow (addrOf ((thread (sMem (BitVec.ofNat 32 n) 0 0) tC 0).g 1) 0) = true ∧ (thread (sMem (BitVec.ofNat 32 n) 0 0) tC 0).spec = none
    ∧ ((sMem (BitVec.ofNat 32 n) 0 0).dev.tile tC).taint.get 0 (addrOf ((thread (sMem (BitVec.ofNat 32 n) 0 0) tC 0).g 1) 0 - windowBase) = 0 := by
  unfold Issues thread; decide +kernel

theorem witness_misaligned : ∀ e ∈ (Claim.loads tC 0 3 1 0).map (fun e => (e.1, e.2.1, e.2.2.1)) ++ Claim.stores tC 0 3 1 0,
    Issues (sMem 0x180001 0 0) tC 0 (encI e.2.1 3 1 0)
    ∧ (addrOf ((thread (sMem 0x180001 0 0) tC 0).g 1) 0 % e.2.2 ≠ 0
        ∨ (inWindow (addrOf ((thread (sMem 0x180001 0 0) tC 0).g 1) 0) = true ∧ e.2.2 ≠ 4)) := by
  unfold Issues thread; decide +kernel

theorem witness_mcopy : ∀ z ∈ [((0x200 : Word), (0x100 : Word), (8 : Word)), (0x200, 0x200, 8), (0x200, 0x100, 0)],
    Issues (sMem z.2.1 z.2.2 z.1) tC 0 (encA 0x28 3 1 2 0) ∧ badOverlap z.2.1.toNat z.2.2.toNat z.1.toNat z.2.2.toNat = false
    ∧ z.2.1.toNat % 4 = 0 ∧ z.1.toNat % 4 = 0 ∧ z.2.2.toNat % 4 = 0
    ∧ Claim.Readable (sMem z.2.1 z.2.2 z.1) tC 0 z.2.1.toNat z.2.2.toNat
    ∧ Claim.Writable (sMem z.2.1 z.2.2 z.1) tC 0 z.1.toNat z.2.2.toNat := by
  unfold Issues thread Claim.Readable Claim.Writable thread; decide +kernel

/-- Two BF16 elements at 0x104 to FP8-E4M3 at 0x200, rounded to nearest (formats 2 and 0). -/
theorem witness_cvt : Issues (sMem 0x104 2 0x200) tC 0 (encA 0x29 3 1 2 0x002) ∧ fmtOk 2 = true ∧ fmtOk 0 = true
    ∧ bits (0x002 : BitVec 10).toNat 0 4 = 2 ∧ bits (0x002 : BitVec 10).toNat 4 4 = 0 ∧ badRnd tC.kind 0 = false
    ∧ badOverlap 0x104 (2 * fmtSize 2) 0x200 (2 * fmtSize 0) = false ∧ Claim.Readable (sMem 0x104 2 0x200) tC 0 0x104 4
    ∧ Claim.Writable (sMem 0x104 2 0x200) tC 0 0x200 2 := by
  unfold Issues thread Claim.Readable Claim.Writable thread; decide +kernel

/-- The FP32 value in g3 to a BF16 element at 0x200. -/
theorem witness_cvst : Issues (sMem 0x200 0 0x3F800000) tC 0 (encA 0x2A 3 1 2 0x002) ∧ badRnd tC.kind 0 = false
    ∧ Claim.Writable (sMem 0x200 0 0x3F800000) tC 0 0x200 2 := by
  unfold Issues thread Claim.Writable thread; decide +kernel

/-- The FP32 value in g3 to the FP32 element at 0x100, and two BF16 elements at 0x104 to two FP32 elements at 0x200. -/
theorem witness_acc : Issues (sMem 0x100 0 0x3F800000) tC 0 (encA 0x2B 3 1 2 0x004) ∧ longFmt 4 = true
    ∧ Claim.Readable (sMem 0x100 0 0x3F800000) tC 0 0x100 4 ∧ Claim.Writable (sMem 0x100 0 0x3F800000) tC 0 0x100 4
    ∧ Issues (sMem 0x104 2 0x200) tC 0 (encA 0x2C 3 1 2 0x024) ∧ accvSrcOk 4 2 = true
    ∧ badOverlap 0x104 (2 * fmtSize 2) 0x200 (2 * fmtSize 4) = false ∧ Claim.Readable (sMem 0x104 2 0x200) tC 0 0x104 4
    ∧ Claim.Readable (sMem 0x104 2 0x200) tC 0 0x200 8 ∧ Claim.Writable (sMem 0x104 2 0x200) tC 0 0x200 8
    ∧ ((sMem 0x104 2 0x200).dev.tile tC).mem.wf = true := by
  unfold Issues thread Claim.Readable Claim.Writable thread; decide +kernel
/-! ## Operands, sends, PREDICT, sync queues, hatband, counters -/

def word4 : List Byte := [1, 2, 3, 4]

def taskDecl (n : Nat) : TaskDecl := { id := n, nOps := 2, window := 4, slots := 1, entry := 16, lag := 0, ops := [0, 1], outMask := 0 }

/-- A tile whose running thread is instance 5 of task 0, with a 4-byte operand 0 and an empty operand 1. -/
def withTask (x : Tile) : Tile :=
  { x with
    slots := [(0, { st := .running, tag := 5, regs := [(1, 0x200), (2, 5)] })]
    flow := { x.flow with
      tasks := [{ decl := taskDecl 0, base := 4 }]
      store := [{ task := 0, op := 0, tok := { tag := 5, ref := false, prov := none, data := word4 } },
                { task := 0, op := 1, tok := { tag := 5, ref := false, prov := none, data := [] } }] } }

def sTask : State := sWith tC withTask id

theorem witness_operands : Issues sTask tC 0 (encQ 0x30 3 2 0 0 1) ∧ Issues sTask tC 0 (encQ 0x31 3 1 0 0 0)
    ∧ operandOf (sTask.dev.tile tC) (thread sTask tC 0) 0 = some word4
    ∧ operandOf (sTask.dev.tile tC) (thread sTask tC 0) 1 = some []
    ∧ Claim.Writable sTask tC 0 0x200 4 ∧ (sTask.dev.tile tC).mem.wf = true
    ∧ (taskOf (sTask.dev.tile tC) (thread sTask tC 0)).map (·.decl.nOps) = some 2 ∧ 2 ≤ (2 : BitVec 6).toNat % 4
    ∧ Issues sTask tC 0 (encQ 0x30 3 2 0 0 2) ∧ Issues sTask tC 0 (encQ 0x31 3 1 0 0 2) := by
  unfold Issues Claim.Writable thread; decide +kernel

/-- A CHANNELS entry from Compute tile 0 to a column of the region. -/
def chanTo (port ch rx depth : Nat) : ChanRec :=
  { prod := ⟨0, 0⟩, port := port, ch := ch, kind := 1, stallExp := 20, cons := ⟨rx, 0⟩, depth := depth, initial := 0
    maxInflight := 0, host := ⟨3, 0⟩, init := [] }

/-- Channels 0 to 2 are local, on a neighbour link and on the mesh; they leave from ports 0, 5 and 31. -/
def imgChans : Image := { img with chans := [chanTo 0 2 0 4, chanTo 5 3 1 4, chanTo 31 31 7 4] }

def onImg (i : Image) (j : Job) : Job := { j with img := i }

/-- g1 an address, g2 the tag and length of a payload of 4 bytes. -/
def withPorts (x : Tile) : Tile :=
  { regs [(1, 0x104), (2, 0x40007)] x with
    mem := [(0x104, 0x80)]
    flow := { x.flow with
      ports := [(0, { ci := some 0, credit := 1 }), (5, { ci := some 1, credit := 4 }), (31, { ci := some 2, credit := 4 })] } }

def sPorts : State := sWith tC withPorts (onImg imgChans)

theorem witness_sends : ∀ n : Nat, n ∈ [0, 5, 31] → Issues sPorts tC 0 (encQ 0x32 0 1 2 0 (BitVec.ofNat 6 n))
    ∧ Claim.Readable sPorts tC 0 0x104 4 ∧ bits 0x40007 16 7 = 4 ∧ bits 0x40007 24 8 = 0 ∧ bit 0x40007 23 = false
    ∧ Claim.PortOpen sPorts tC 0 n ∧ bits (BitVec.ofNat 6 n).toNat 0 5 = n
    ∧ ∀ m ∈ [0, 1, 2], Issues sPorts tC 0 (encQ 0x33 0 1 2 (BitVec.ofNat 4 m) (BitVec.ofNat 6 n)) := by
  unfold Issues Claim.Readable Claim.PortOpen thread; decide +kernel

/-- The three paths of the channels. -/
theorem witness_paths : imgChans.chans.map (chanPath sPorts.dev.map { job with img := imgChans }) = [.loc, .neighbour, .mesh] := by
  decide +kernel

def steerDecl (m : Bool) : SteerDecl :=
  { merge := m, in0 := some 4, in1 := some 5, ctl := some 6, out0 := if m then none else some 0, out1 := none, predict := 0 }

def withSteers (x : Tile) : Tile :=
  { x with flow := { x.flow with
      scratch := true
      steers := [{ decl := steerDecl true, predict := 0 }, { decl := steerDecl false, predict := 0 }] } }

theorem witness_predict :
    (∀ n : Nat, n ∈ [0, 1, 15] → Issues (sWith tC withSteers id) tC 0 (encQ 0x34 0 0 0 1 (BitVec.ofNat 6 n)))
    ∧ ((sWith tC withSteers id).dev.tile tC).flow.steers[15]? = none
    ∧ (((sWith tC withSteers id).dev.tile tC).flow.steers[0]?).map (·.decl.merge) = some true
    ∧ (((sWith tC withSteers id).dev.tile tC).flow.steers[1]?).map (·.decl.merge) = some false
    ∧ ((sWith tC withSteers id).dev.tile tC).flow.scratch = true := by
  unfold Issues thread; decide +kernel

/-- A tile with queue `q` in a state. -/
def withSq (q : Nat) (k : SQ) (x : Tile) : Tile := x.setSq q k

def sSq (q : Nat) (k : SQ) : State := sWith tC (withSq q k) id

/-- Every clause of SyncQueueInstructions, on the last queue of a Compute tile. -/
theorem witness_sync :
    (63 : Nat) < kindSqs tC.kind
    ∧ (∀ k ∈ [({} : SQ), { waiters := [(1, 4)] }, { toks := List.replicate 64 0 }, { toks := [7] },
          { puts := 1, nPut := 1 }, { gets := 1, nGet := 1 }],
        Issues (sSq 63 k) tC 0 (encQ 0x40 0 1 0 0 63) ∧ Issues (sSq 63 k) tC 0 (encQ 0x41 1 0 0 0 63)
        ∧ Issues (sSq 63 k) tC 0 (encQ 0x42 1 0 0 0 63) ∧ ((sSq 63 k).dev.tile tC).sq 63 = k)
    ∧ ({} : SQ).overPut = false ∧ ({} : SQ).full = false ∧ ({ toks := List.replicate 64 0 } : SQ).full = true
    ∧ ({ puts := 1, nPut := 1 } : SQ).overPut = true ∧ ({ gets := 1, nGet := 1 } : SQ).overGet = true
    ∧ ({ toks := List.replicate 64 0 } : SQ).overGet = false := by
  unfold Issues thread; decide +kernel

/-- A tile enrolled on line 0 of one line; its pending flag and what holds its arrive. -/
def withLine (p : Word) (sig : Nat) (x : Tile) : Tile :=
  { x with sync := { x.sync with nLines := 1, enrol := 1, pending := p, sigOut := sig } }

theorem witness_hatband :
    (∀ z ∈ [((0 : Word), 0), (0, 1), (1, 0)], ∀ o ∈ [0x43, 0x44, 0x45], Issues (sWith tC (withLine z.1 z.2) id) tC 0 (encQ o 0 0 0 0 0)
      ∧ Issues (sWith tC (withLine z.1 z.2) id) tC 0 (encQ o 0 0 0 0 31)
      ∧ enrolled ((sWith tC (withLine z.1 z.2) id).dev.tile tC) 0 = true
      ∧ enrolled ((sWith tC (withLine z.1 z.2) id).dev.tile tC) 31 = false)
    ∧ pendingOn ((sWith tC (withLine 0 0) id).dev.tile tC) 0 = false ∧ arriveHeld ((sWith tC (withLine 0 0) id).dev.tile tC) = false
    ∧ pendingOn ((sWith tC (withLine 1 0) id).dev.tile tC) 0 = true ∧ arriveHeld ((sWith tC (withLine 0 1) id).dev.tile tC) = true := by
  unfold Issues thread; decide +kernel

/-- Counter 15 holds 6, as g1 does; g2 asks for one more. -/
def withCc (x : Tile) : Tile := { regs [(1, 6), (2, 7)] x with net := { x.net with cc := [(15, 6)] } }

theorem witness_counters :
    (∀ o ∈ [0x58, 0x59, 0x5A], Issues (sWith tC withCc id) tC 0 (encQ o 0 1 0 0 15) ∧ Issues (sWith tC withCc id) tC 0 (encQ o 0 2 0 0 15))
    ∧ Issues (sWith tC withCc id) tC 0 (encQ 0x57 3 0 0 0 15) ∧ Issues (sWith tC withCc id) tC 0 (encA 0x56 0 1 0 0)
    ∧ ((thread (sWith tC withCc id) tC 0).g 1).toNat ≤ (((sWith tC withCc id).dev.tile tC).net.cc.get 0 15).toNat
    ∧ (((sWith tC withCc id).dev.tile tC).net.cc.get 0 15).toNat < ((thread (sWith tC withCc id) tC 0).g 2).toNat := by
  unfold Issues thread; decide +kernel

/-! ## Remote operations -/

/-- g4 a local address, g2 endpoint (1, 0), g6 the remote: 17 units at 0x100 with a local counter; g3 the same corner. -/
def withRemote (x : Tile) : Tile :=
  { regs [(4, 0x400), (2, 1), (3, 1), (6, 0x100 + 17 * 2 ^ 21), (8, 5)] x with rc := ⟨0, 0⟩ }

def sRem : State := sWith tC withRemote id

theorem witness_remote :
    sRem.dev.jobAt tC = some job ∧ remoteStop job tC.kind 0x400 1 (remoteOf (0x100 + 17 * 2 ^ 21) 0x200) = none
    ∧ Issues sRem tC 0 (encA 0x50 4 2 6 0x200) ∧ Issues sRem tC 0 (encA 0x51 4 2 6 0x200) ∧ Issues sRem tC 0 (encA 0x52 4 2 6 0x200)
    ∧ (remoteOf (0x100 + 17 * 2 ^ 21) 0x200).units = 17 ∧ (remoteOf (0x100 + 17 * 2 ^ 21) 0x200).dcc = 0
    ∧ (remoteOf (0x100 + 17 * 2 ^ 21) 0x200).dce = false
    ∧ Claim.Window sRem tC 2 ∧ Claim.Readable sRem tC 0 0x400 (16 * 17) ∧ rcKind (epRc 1).rx = 0 := by
  unfold Issues Claim.Window Claim.Readable thread; decide +kernel

/-- REMOTE_CTX with a long-sum format. -/
theorem witness_radd : longFmt (ctxFmt (thread (sWith tC (fun x => (withRemote x).onSlot 0 (fun y => { y with ctx := 4 <<< 17 })) id) tC 0).ctx)
    = true := by unfold thread; decide +kernel

theorem witness_mcast_signal : Issues sRem tC 0 (encA 0x53 4 2 6 0) ∧ (2 : Reg).val % 2 = 0 ∧ epOff 1 = false ∧ (epRc 1).rx ≤ (epRc 1).rx
    ∧ remoteStop job tC.kind 0x400 1 (remoteOf (0x100 + 17 * 2 ^ 21) 0) = none ∧ endpointStop job 1 = none
    ∧ membersIn job (epRc 1) (epRc 1) = [⟨1, 0⟩] ∧ targetBad ⟨1, 0⟩ 0x100 (16 * 17) = false ∧ cdiv 17 15 = 2
    ∧ Claim.Window sRem tC 1 ∧ Issues sRem tC 0 (encA 0x54 8 2 8 0) := by
  unfold Issues Claim.Window thread; decide +kernel

/-- A reduction over region tiles 0 and 1. -/
def redE : RedEntry :=
  { op := 0, long := true, all := false, fmt := 4, rx0 := 0, ry0 := 0, w := 2, h := 1, rank0 := 0, ndev := 1, endpoint := 0, drank := 0
    off := 0, dcc := 0, dce := false }

/-- Tile 1 contributes one unit at 0x400. -/
def sRed : State := sWith tD (regs [(4, 0x400), (2, 0), (6, 0)]) (onImg { img with reds := [redE] })

theorem witness_redc : (sRed.dev.jobAt tD).map (·.img.reds) = some [redE] ∧ Issues sRed tD 0 (encA 0x55 4 2 6 0)
    ∧ redE.ordinal (sRed.dev.tile tD).rank (sRed.dev.tile tD).rc = some 1 ∧ 1 < redE.count ∧ Claim.Window sRed tD 1
    ∧ cdiv 1 redE.cut = 1 ∧ Claim.Readable sRed tD 0 0x400 16 := by
  unfold Issues Claim.Window Claim.Readable thread; decide +kernel

/-- A run of one unit: the entry of the reduction with its count and delivery changed. -/
def sRedAt (p : Pos) (e : RedEntry) : State := sWith p (regs [(4, 0x400), (2, 0), (6, 0)]) (onImg { img with reds := [e] })

/-- Tile 0 holds its own run as left children; a reduction with one participant is delivered at once. -/
theorem witness_redc_even :
    (let s := sRedAt tC redE
     Issues s tC 0 (encA 0x55 4 2 6 0) ∧ redE.ordinal (s.dev.tile tC).rank (s.dev.tile tC).rc = some 0 ∧ 0 + 1 < redE.count
      ∧ (s.dev.tile tC).net.red.length + (Claim.cuts 1 redE.cut).length ≤ 32
      ∧ (∀ c ∈ Claim.cuts 1 redE.cut, (s.dev.tile tC).redNew 0 0 ((16 * c.1 / fmtSize redE.fmt) % 2 ^ 24) 1 0 false = true)
      ∧ (0 : BitVec 10).getLsbD 4 = false ∧ (0x1F : BitVec 10).getLsbD 4 = true)
    ∧ (let e := { redE with w := 1, all := true, off := 0x800 }
       let s := sRedAt tC e
       Issues s tC 0 (encA 0x55 4 2 6 0) ∧ e.count = 1 ∧ 1 ≤ e.cut ∧ e.dce = false ∧ e.ordinal 0 ⟨0, 0⟩ = some 0
        ∧ inMem tC.kind 0x800 16 = true ∧ remoteHeld s.dev tC 0x800 16 = false ∧ (s.dev.tile tC).bad = []
        ∧ (s.dev.tile tC).mem.wf = true) := by
  unfold Issues thread; decide +kernel

/-! ## System instructions -/

/-- The thread runs under tag 7. -/
theorem witness_tend_tag :
    let s := sWith tC (fun x => x.onSlot 0 (fun y => { y with spec := some 7 })) id
    Issues s tC 0 (encA 0x70 0 0 0 0) ∧ (thread s tC 0).spec = some 7 := by unfold Issues thread; decide +kernel

theorem witness_system :
    (∀ o ∈ [0x70, 0x72], Issues sTask tC 0 (encA o 0 0 0 0)) ∧ (thread sTask tC 0).spec = none
    ∧ (∀ i : Nat, i ∈ [0, 7, 8, 15] → Issues sTask tC 0 (encA 0x74 1 0 0 (BitVec.ofNat 10 i))
        ∧ ((Claim.items sTask tC 0)[i]?).isSome = decide (i < 8))
    ∧ Issues sTask tC 0 (encA 0x73 0 1 0 1) ∧ Issues sTask tC 0 (encA 0x73 0 1 0 0) := by
  unfold Issues thread; decide +kernel

/-- The thread retires a tag of its task, whose window is 4 to 7: 6, ended or not, 5, which it runs itself, and 8. -/
theorem witness_tretire : ∀ g : Nat, g ∈ [5, 6, 7, 8] →
    let s := sWith tC (fun x => { regs [(2, BitVec.ofNat 32 g)] (withTask x) with
      slots := [(0, { st := .running, tag := 5, regs := [(2, BitVec.ofNat 32 g)] })]
      flow := { (withTask x).flow with tasks := [{ decl := taskDecl 0, base := 4, ended := [7] }] } }) id
    Issues s tC 0 (encA 0x71 0 2 0 0)
      ∧ ((s.dev.tile tC).flow.tasks.find? (fun z => z.decl.id == 0)).map (fun k => (decide (k.dist g < k.decl.window), k.ended.contains g))
          = some (g != 8, g == 7)
      ∧ (s.dev.tile tC).slots.any (fun z => z.2.st != .free && z.2.task == 0 && z.2.tag == g) = (g == 5) := by
  unfold Issues thread; decide +kernel
/-! ## Tensor and vector instructions -/

/-- A at 0x400, B at 0x800, both FP8-E4M3 without scales, 1 by 1 by 1, accord 0, init; mode 0, 1 or 2 (scout, mask at 0xC00,
one element kept). -/
def descOf (mode : Nat) : List Word :=
  [0x40 + BitVec.ofNat 32 (0x80 * 2 ^ 14), 0, BitVec.ofNat 32 (0xC0 * 2 ^ 14), 0, 0, 0x10000,
   BitVec.ofNat 32 (1 + 2 ^ 20 * mode + 2 ^ 26), 1]

/-- Words as bytes of memory from an address on. -/
def cellsOf (a : Nat) (ws : List Word) : Mem := (Mem.writeN [] a (ws.flatMap (fun w => le 4 w.toNat)))

/-- A descriptor at 0x100, one element of A and of B. -/
def withDesc (mode : Nat) (x : Tile) : Tile :=
  { regs [(1, 0x100)] x with mem := ((cellsOf 0x100 (descOf mode)).writeN 0x400 [0x38]).writeN 0x800 [0x40] }

def sTop : State := sWith tC (withDesc 0) id

theorem witness_top : ∀ m ∈ [0, 1, 2],
    let s := sWith tC (withDesc m) id
    let x := s.dev.tile tC
    Issues s tC 0 (encA 0x60 0 1 0 0) ∧ Claim.Readable s tC 0 0x100 32 ∧ wordsLe (x.mem.readN 0x100 32) = descOf m
      ∧ queueFull x = false ∧ badDesc x (tdesc (descOf m)) (Claim.headerBlocks x.mem (tdesc (descOf m))) = false ∧ x.granted = true
      ∧ (tdesc (descOf m)).prov = (thread s tC 0).spec.isSome := by
  unfold Issues Claim.Readable thread; decide +kernel

/-- A block-sparse A whose header at 0x200 gives one block. -/
def descSparse : List Word :=
  [0x40 + BitVec.ofNat 32 (0x80 * 2 ^ 14), 0, 0x20, 0, 31, 31 + 0x10000, BitVec.ofNat 32 (2 + 2 ^ 22 * 3 + 2 ^ 26), 0]

theorem witness_top_sparse :
    let s := sWith tC (fun x => { regs [(1, 0x100)] x with mem := (cellsOf 0x100 descSparse).writeN 0x200 [1] }) id
    let x := s.dev.tile tC
    wordsLe (x.mem.readN 0x100 32) = descSparse ∧ (tdesc descSparse).sparse = 3 ∧ (tdesc descSparse).mode = 0
      ∧ Claim.Readable s tC 0 (16 * (tdesc descSparse).metaAddr) 16 ∧ Claim.headerBlocks x.mem (tdesc descSparse) = 1
      ∧ badDesc x (tdesc descSparse) 1 = false := by
  unfold Claim.Readable thread; decide +kernel

/-- An element-wise function on one FP32 element from 0x20100 and 0x20200 to 0x20300. -/
def descVop : List Word := [0x401, 0x20100, 0x20200, 0, 0x20300, 0, 0, 0]

def withVop (x : Tile) : Tile := { regs [(1, 0x20000)] x with mem := cellsOf 0x20000 descVop }

def sVop : State := sWith tF withVop id

theorem witness_vop : Issues sVop tF 0 (encA 0x60 0 1 0 0) ∧ Claim.Readable sVop tF 0 0x20000 32 ∧ tF.kind = 1
    ∧ wordsLe ((sVop.dev.tile tF).mem.readN 0x20000 32) = descVop ∧ (sVop.dev.tile tF).tensor.vop = none
    ∧ (vdesc descVop).bad = false
    ∧ ((vdesc descVop).reads ++ (vdesc descVop).writes).all (fun z => z.1 % 4 == 0 && inMem 1 z.1 z.2) = true
    ∧ (vdesc descVop).reads.all (fun z => !rangeForeign (sVop.dev.tile tF) none z.1 z.2) = true := by
  unfold Issues Claim.Readable thread; decide +kernel

theorem witness_vop_writes : (vopWriteStop tF 0 sVop.dev (vdesc descVop)).isNone = true := by decide +kernel

/-- An accord in a state, and an issue queue. -/
def withAcc (st : AccSt) (q : List QEntry) (x : Tile) : Tile :=
  { x with tensor := { x.tensor with accs := [(0, { st := st, vals := [(0, 0x3F800000)] })], queue := q } }

/-- DRAIN of one element of accord 0 at 0x400: g1 origin, g2 destination, g3 its shape with 16 bytes to a row. -/
def sDrain (q : List QEntry) : State := sWith tC (fun x => withAcc .opened q (regs [(1, 0), (2, 0x400), (3, 0x400)] x)) id

theorem witness_drain :
    let f := drainForm (encA 0x61 1 2 3 0) 0 0x400 0x400
    let x := (sDrain []).dev.tile tC
    Issues (sDrain []) tC 0 (encA 0x61 1 2 3 0) ∧ f.dst % 16 = 0 ∧ f.m0 + f.rows ≤ 4096 ∧ f.n0 + f.cols ≤ 4096
      ∧ badDst x f.fin f.dst f.ld (f.n0 + f.cols) (rowCapacity x f.fin f.ld) (f.m0 + f.rows) = false ∧ queueFull x = false
      ∧ Issues (sDrain []) tC 0 (encA 0x62 0 0 0 7) := by
  unfold Issues thread; decide +kernel

/-- An entry of the issue queue. -/
def entry (w : QWork) (running : Bool) : QEntry :=
  { work := w, spec := none, step := 0, running := running, prog := {}, mask := [], draining := false }

theorem witness_twait :
    (∀ q ∈ [[], [entry (.discard 0) false]], ∀ i : Nat, i ∈ [0, 7, 8] → Issues (sDrain q) tC 0 (encA 0x63 0 0 0 (BitVec.ofNat 10 i)))
    ∧ (entry (.discard 0) false).names 0 = true ∧ (entry (.discard 0) false).names 7 = false
    ∧ (BitVec.ofNat 10 7).getLsbD 3 = false ∧ (BitVec.ofNat 10 8).getLsbD 3 = true ∧ bits 8 0 3 = 0 := by
  unfold Issues thread; decide +kernel

/-! ## Tensor unit events -/

/-- The queue's head is an operation of the descriptor with its memory, accord 0 in a state. -/
def sHead (mode : Nat) (st : AccSt) (q : QEntry) : State := sWith tC (fun x => withAcc st [q] (withDesc mode x)) id

theorem witness_issue_head :
    (sHead 0 .free (entry (.tensor (descOf 0) 0) false)).dev.live tC = true
    ∧ (tdesc (descOf 0)).mode ≠ 2 ∧ (tdesc (descOf 0)).useMask = false ∧ (tdesc (descOf 0)).init = true
    ∧ (passAccs (tdesc (descOf 0)) 0).all (fun a => startStop none true false
        (((sHead 0 .free (entry (.tensor (descOf 0) 0) false)).dev.tile tC).acc a) == none) = true
    ∧ (sHead 0 .opened (entry (.discard (encA 0x62 0 0 0 0)) false)).dev.live tC = true
    ∧ (((sHead 0 .opened (entry (.discard (encA 0x62 0 0 0 0)) false)).dev.tile tC).acc 0).st = .opened := by decide +kernel

/-- What a feed got. -/
def fed (f : Feed) (ls : List Line) : Bool :=
  match f with
  | .got l _ => l == ls
  | _ => false

def run1 : QEntry := entry (.tensor (descOf 1) 0) true
def run0 : QEntry := entry (.tensor (descOf 0) 0) true

theorem witness_lane :
    (sHead 1 .opened run1).dev.live tC = true ∧ (tdesc (descOf 1)).mode = 1 ∧ 0 < segCount (tdesc (descOf 1)) := by decide +kernel

theorem witness_feeds :
    fed (feedB tC run1 (tdesc (descOf 1)) 0 0 0 (sHead 1 .opened run1).dev) [[(0, 0x40, none)]] = true
    ∧ fed (feedB tC run0 (tdesc (descOf 0)) 0 0 0 (sHead 0 .opened run0).dev) [[(0, 0x40, none)]] = true
    ∧ fed (feedA tC run0 (tdesc (descOf 0)) 0 0 0 (sHead 0 .opened run0).dev) [[(0, 0x38, none)]] = true := by decide +kernel

/-- A drain of one FP32 element of accord 0 to 0x400. -/
def drain1 : DrainJob :=
  { accord := 0, fin := 0, regs := [(0x100, 4)], dst := 0x400, ld := 16, rows := 1, cols := 1, m0 := 0, n0 := 0, width := 1
    explicit := true, mask := none, insn := 0, step := 0 }

def sFin : State := sWith tC (fun x => { withAcc .draining [] x with tensor := { (withAcc .draining [] x).tensor with drains := [drain1] } }) id

theorem witness_drain_complete : sFin.dev.drainLive tC = true ∧ drain1.mode ≠ some 0 ∧ drain1.mode ≠ some 1
    ∧ (sFin.dev.tile tC).bad = []
    ∧ (finReads (sFin.dev.tile tC).mem drain1 false ((sFin.dev.tile tC).acc 0)).all (fun z => inMem tC.kind z.1 z.2) = true
    ∧ (Claim.drainWrites sFin tC drain1).map (fun w => (w.1, w.2.length)) = [(0x400, 4)]
    ∧ (Claim.drainWrites sFin tC drain1).all (fun w => inMem tC.kind w.1 w.2.length && !copyProtected sFin.dev tC w.1 w.2.length) = true := by
  decide +kernel

theorem witness_scout_vop :
    let s := sHead 2 .free (entry (.tensor (descOf 2) 0) true)
    let e := tdesc (descOf 2)
    s.dev.live tC = true ∧ (s.dev.tile tC).bad = [] ∧ e.mode = 2 ∧ rangeForeign (s.dev.tile tC) none (16 * e.maskAddr) (e.m * maskLd e.n) = false
      ∧ copyProtected s.dev tC (16 * e.maskAddr) (e.m * maskLd e.n) = false ∧ inMem 0 (16 * e.maskAddr) (e.m * maskLd e.n) = true := by
  decide +kernel

def runVop : VopRun := { slot := 0, insn := encA 0x60 0 1 0 0, step := 0, desc := descVop }

def sVopRun : State := sWith tF (fun x => { withVop x with tensor := { x.tensor with vop := some runVop } }) id

theorem witness_vop_complete :
    let v := vdesc descVop
    sVopRun.dev.drainLive tF = true ∧ v.tangled = false ∧ v.sorts = false
      ∧ v.writes.any (fun w => copyProtected sVopRun.dev tF w.1 w.2) = false
      ∧ (unelems v.fmt ((vopResults { drawOf sVopRun.dev tF v.stream with step := 0 } v (sVopRun.dev.tile tF).mem).1.map
          (fun w => vopCode v w % 2 ^ (8 * fmtSize v.fmt)))).length = 4 ∧ inMem tF.kind v.dst 4 = true := by
  decide +kernel
/-! ## Dataflow events -/

def tok (tag : Nat) (bs : List Byte) : Token := { tag := tag, ref := false, prov := none, data := bs }

/-- Task channel 0 holds a token of tag 7; tag 6 has both its operands. -/
def withTokens (x : Tile) : Tile :=
  { x with slots := [], flow := { x.flow with
      tasks := [{ decl := taskDecl 0, base := 4 }]
      store := [{ task := 0, op := 0, tok := tok 6 word4 }, { task := 0, op := 1, tok := tok 6 [] }]
      chans := [(0, { kind := 1, toks := [tok 7 word4] })] } }

def sTok : State := sWith tC withTokens id

/-- The task of channel 0; the token of tag 7 enters its window of 4 to 7, one of tag 8 does not. -/
def task0 : TaskSt := { decl := taskDecl 0, base := 4 }

theorem witness_tokens :
    let x := sTok.dev.tile tC
    sTok.dev.live tC = true ∧ (x.chan 0).toks = [tok 7 word4] ∧ (x.chan 0).kind = 1 ∧ servesOp x 0 = some (task0, 0)
      ∧ (7 + 65536 - task0.base) % 65536 < task0.decl.window ∧ (∀ e ∈ x.flow.store, ¬ (e.task = task0.decl.id ∧ e.op = 0 ∧ e.tok.tag = 7))
      ∧ ¬ (8 + 65536 - task0.base) % 65536 < task0.decl.window := by decide +kernel

/-- Tag 6 alone is ready: every other one holds no entry. -/
theorem witness_fire :
    let x := sTok.dev.tile tC
    task0 ∈ x.flow.tasks ∧ readyOf x task0 6 = true ∧ freeSlotOf x task0.decl = some 0
      ∧ ∀ z' ∈ x.flow.tasks, ∀ g', readyOf x z' g' = true → z' = task0 ∧ g' = 6 := by
  have hs : (sTok.dev.tile tC).flow.store
      = [{ task := 0, op := 0, tok := tok 6 word4 }, { task := 0, op := 1, tok := tok 6 [] }] := by decide +kernel
  have ht : (sTok.dev.tile tC).flow.tasks = [task0] := by decide +kernel
  refine ⟨by decide +kernel, by decide +kernel, by decide +kernel, ?_⟩
  intro z' hz g' h
  rw [ht, List.mem_singleton] at hz
  refine ⟨hz, ?_⟩
  subst hz
  by_contra hg
  have he : entriesOf (sTok.dev.tile tC) 0 g' = [] := by
    simp [entriesOf, hs, tok, Ne.symm hg]
  simp [readyOf, task0, taskDecl, he] at h

/-- A STEER unit in place 15 with a data token, and its control token when `c` is set; a MERGE unit in place 0 whose control names
input 0, where a token is. Output port 0 is a local channel. -/
def steerZ (c : Bool) : Steer :=
  { decl := steerDecl false, predict := 1, data := [tok 5 word4], ctl := if c then [tok 5 [0]] else [] }

def mergeZ : Steer := { decl := steerDecl true, predict := 0, ctl := [tok 0 [0]] }

def withUnits (c : Bool) (x : Tile) : Tile :=
  { x with flow := { (withPorts x).flow with
      scratch := true, steers := mergeZ :: List.replicate 14 mergeZ ++ [steerZ c]
      chans := if c then [] else [(4, { kind := 2, toks := [tok 0 word4] })] } }

theorem witness_steer :
    let s := sWith tC (withUnits true) (onImg imgChans)
    s.dev.live tC = true ∧ (s.dev.tile tC).flow.steers[15]? = some (steerZ true)
      ∧ Claim.holds (s.dev.tile tC) (steerZ true) = steerZ true ∧ (steerZ true).kept = [] ∧ (steerZ true).decl.merge = false
      ∧ steerPick (Claim.filled s tC 15).dev tC (steerZ true) (steerZ true).data [] = some (tok 5 word4, tok 5 [0])
      ∧ (steerZ true).decl.out (ctlPath (tok 5 [0])) = some 0 := by decide +kernel

/-- The unit speculated on tag 3, whose control token is in its hold. -/
theorem witness_resolve :
    let z := { steerZ true with kept := [(7, false, tok 5 word4)], data := [] }
    let s := sWith tC (fun x => (withUnits true x).setSteer 15 z) (onImg imgChans)
    s.dev.live tC = true ∧ (s.dev.tile tC).flow.steers[15]? = some z ∧ Claim.holds (s.dev.tile tC) z = z
      ∧ z.resolvable = some ((7, false, tok 5 word4), tok 5 [0]) := by decide +kernel

/-- With a free tag, and with all eight in use; the token comes from channel 4 first. -/
theorem witness_speculate : ∀ l : List (Nat × Nat), l ∈ [[], (List.range 8).map (fun g => (g, 0))] →
    let z := { steerZ false with data := [] }
    let s := sWith tC (fun x => let y := withUnits false x; { y.setSteer 15 z with flow := { (y.setSteer 15 z).flow with
      chans := [(4, { kind := 2, toks := [tok 5 word4] })], specTags := l } }) (onImg imgChans)
    let x := (Claim.filled s tC 15).dev.tile tC
    s.dev.live tC = true ∧ (s.dev.tile tC).flow.steers[15]? = some z ∧ Claim.holds (s.dev.tile tC) z = steerZ false
      ∧ (steerZ false).predict ≠ 0 ∧ x.flow.scratch = true
      ∧ (steerZ false).data.find? (fun k => k.prov.isNone && ((steerZ false).ctlOf k.tag).isNone) = some (tok 5 word4)
      ∧ freeTag x = (if l = [] then some 0 else none) ∧ (steerZ false).decl.out (steerZ false).predicted = some 0
      ∧ portLocal (Claim.filled s tC 15).dev tC 0 = true ∧ 0 < (x.port 0).credit := by decide +kernel

theorem witness_merge :
    let s := sWith tC (withUnits false) (onImg imgChans)
    s.dev.live tC = true ∧ (s.dev.tile tC).flow.steers[0]? = some mergeZ ∧ Claim.holds (s.dev.tile tC) mergeZ = mergeZ
      ∧ mergePick (Claim.filled s tC 0).dev tC mergeZ = some (some (tok 0 [0]), some 4, tok 0 word4) := by decide +kernel

/-- A token of channel 1 on the link to Compute tile 1. -/
def ntok : NTok := { j := 0, ci := 1, tok := tok 5 word4, num := 0, sbit := false, fails := 0 }

def sLink : State := stateOf { (devJ.onJob 0 (onImg imgChans)) with wafer := { devJ.wafer with links := [ntok] } }

theorem witness_neighbour : sLink.dev.wafer.links.find? (fun k => k.j == 0 && k.ci == 1) = some ntok
    ∧ (sLink.dev.job? 0).map (fun j => (j.chan 1, j.posOf sLink.dev.map ⟨0, 0⟩, j.posOf sLink.dev.map ⟨1, 0⟩))
        = some (some (chanTo 5 3 1 4), some tC, some tD)
    ∧ takesTraffic sLink.dev tD false = true ∧ ((sLink.dev.tile tD).chan 3).next = 0 := by decide +kernel

/-! ## Bounds, steps, records -/

def waits (w : WaitOn) (x : Tile) : Tile := x.onSlot 0 (fun y => { y with st := .waiting, wait := some w })

/-- A running operation that streams A from channel 31, which is empty. -/
def descStream : List Word := [31, 0, 0, BitVec.ofNat 32 (2 ^ 28), 0, 0, 0, 0]

theorem witness_bounds :
    sJ.dev.timersRun tC = true ∧ jobIsolated sJ.dev tC = false ∧ (hbGateReg sJ.dev tC).testBit 0 = false
    ∧ stalledSend ((sWith tC (waits (.retry 2 (encQ 0x32 0 1 2 0 31))) id).dev.tile tC) 31 ≠ none
    ∧ starved ((sWith tC (fun x => { x with
        tensor := { x.tensor with queue := [entry (.tensor descStream 0) true] }
        flow := { x.flow with chans := [(31, { kind := 3 })] } }) id).dev.tile tC) 31 = some 0
    ∧ (thread (sWith tC (waits (.sqHead 63 1)) id) tC 0).sqWait.isSome = true
    ∧ (thread (sWith tC (waits (.line 0 0)) id) tC 0).hbWait = some (0, 0)
    ∧ (sWith tC (waits (.line 0 0)) id).dev.timersRun tC = true := by unfold thread; decide +kernel

/-- A job of two lines, 0 and 31 of the wafer, on which every tile has arrived. -/
def img2 : Image := { img with nLines := 2, tiles := [{ recAt 0 with enrol := 3 }] }
def job2 : Job := { job with img := img2, lines := [0, 31] }
def sCross : State := stateOf { devOf [(tC.ix, { tile 0 with sync := { nLines := 2, enrol := 3, pending := 3 } })] job2 with freeCtr := 0 }

theorem witness_crossing : lineOwner sCross.dev 0 = some (job2, 0) ∧ mayCross sCross.dev job2 0 = true
    ∧ lineOwner sCross.dev 31 = some (job2, 1) ∧ mayCross sCross.dev job2 1 = true := by decide +kernel

/-- Both lines have crossed and the tile has seen neither. -/
def job3 : Job := { job2 with crossed := [(0, 1), (1, 1)] }

/-- A boundary record of 64 KiB at the Store tile. -/
def ret : RetRec := { rc := ⟨0, 0⟩, kind := 0, off := 0x100, len := 16, host := ⟨3, 0⟩, hostOff := 0x1000, bndLen := 65536 }
def ret2 : RetRec := { ret with bndLen := 0 }

theorem witness_seen :
    let t0 := (sCross.dev.tile tC)
    maySee job3 t0 0 = true ∧ maySee job3 t0 1 = true ∧ sCross.dev.map.isDead tC = false ∧ sCross.dev.suspended tC = false ∧ shortQueue t0 64 = none
      ∧ t0.net.sigs = [] ∧ (boundEntry { img2 with rets := [ret] } t0.rc).isSome = true
      ∧ shortQueue (t0.setSq 63 { nPut := 1 }) (kindSqs tC.kind) = some 63 ∧ job3.running = true
      ∧ t0.faultInfo.getLsbD 31 = false := by decide +kernel

/-- The job retains 16 bytes of tile 0 at its Store tile. -/
def jobR (l : List RetRec) : Job := { job3 with img := { img2 with rets := l, tiles := [{ recAt 0 with enrol := 3 }, recAt 3] } }

def sRec (l : List RetRec) (f : Tile → Tile) : State := stateOf (devOf [(tC.ix, f (tile 0)), (tS.ix, tile 3)] (jobR l))

theorem witness_copy :
    let s := sRec [ret2] (fun x => { x with check := { x.check with copying := [0] } })
    s.dev.jobAt tC = some (jobR [ret2]) ∧ (jobR [ret2]).posOf s.dev.map ⟨3, 0⟩ = some tS ∧ tS.ix ≠ tC.ix
      ∧ (s.dev.tile tC).check.copying.contains 0 = true ∧ (s.dev.tile tC).check.recording = false ∧ (jobR [ret2]).running = true
      ∧ s.dev.map.isDead tS = false ∧ s.dev.map.isDead tC = false ∧ (s.dev.tile tC).bad = [] ∧ (s.dev.tile tS).bad = []
      ∧ s.dev.suspended tC = false ∧ s.dev.suspended tS = false := by
  decide +kernel

theorem witness_record :
    let s := sRec [ret] (fun x => { x with check := { x.check with recording := true } })
    s.dev.jobAt tC = some (jobR [ret]) ∧ boundEntry (jobR [ret]).img ⟨0, 0⟩ = some ret ∧ (s.dev.tile tC).check.recording = true
      ∧ (s.dev.tile tC).tensor.drains = [] ∧ (s.dev.tile tC).net.sigs = [] ∧ s.dev.suspended tC = false ∧ (jobR [ret]).faults = true
      ∧ recordLength (jobR [ret]) (s.dev.tile tC) + chanRecordSize (jobR [ret]).img ⟨0, 0⟩ ≤ ret.bndLen
      ∧ recordLength (jobR [ret]) (s.dev.tile tC) ≤ 65536 := by decide +kernel

/-- A full store, 1,024 filter entries and full queues make a record longer than 65,536 bytes. -/
theorem witness_record_long :
    let big : Tile := { tile 0 with sync := { sqs := (List.range 64).map (fun q => (q, { toks := List.replicate 64 0 })) },
                                    flow := { store := List.replicate 256 { task := 0, op := 0, tok := tok 0 (List.replicate 64 0) },
                                              chans := (List.range 32).map (fun c => (c, { kind := 1, toks := List.replicate 64 (tok 0 (List.replicate 64 0)) })) } }
    65536 < recordLength (jobR [ret]) big := by decide +kernel

/-- Step 0 has been left by both tiles. -/
theorem witness_confirm :
    let s := stateOf (devOf [(tC.ix, { tile 0 with step := 1 }), (tS.ix, { tile 3 with step := 1 })] (jobR []))
    (s.dev.job? 0) = some (jobR []) ∧ (jobR []).running = true ∧ (jobR []).conf < (jobR []).crossed.get 0 0
      ∧ ∀ p ∈ (jobR []).places s.dev.map, s.dev.map.isDead p = true ∨ cleanFor (s.dev.tile p) 0 = true := by decide +kernel

/-! ## The mesh -/

/-- A packet of the job from tile 1 to tile 0, number 7. -/
def pkt (ty : PType) (tag red : Nat) (sub data : List Byte) : Packet :=
  { ty := ty, vl := vlOf ty, epoch := false, sbit := false, xdev := false, hops := 0, jslot := 0, long := false, attempt := 0
    dst := .phys tC, src := .phys tD, seq := 7, len := data.length / 16, rank := 0, red := red, tag := tag, sub := sub, data := data
    pfx := none }

def flight (pl : Place) (k : Packet) : Flight := { id := 9, pkt := k, place := pl, retargeted := false }

/-- The packet is in flight; tile 0, the job and the map may differ. -/
def sFly (pl : Place) (k : Packet) (f : Tile → Tile) (g : Job → Job) : State :=
  stateOf { ((devJ.onTile tC f).onJob 0 g) with
    wafer := { ((devJ.onTile tC f).onJob 0 g).wafer with flights := [flight pl k], nextId := 10 } }

def data16 : List Byte := List.replicate 16 7

def putK : Packet := pkt .put 0x10 0x20 [] data16

/-- Packets in flight, and routers of dead tiles. -/
def sFlights (l : List Flight) (dead : List (Pos × Bool)) : State :=
  stateOf { devJ with wafer := { devJ.wafer with flights := l, nextId := 20 }, map := { dead := dead } }

/-- The packet of each clause at tile 1's router: served; behind one of VL3; toward a failed router; of a released epoch. -/
theorem witness_router :
    let f := flight (.router tD 4) putK
    let g : Flight := { f with id := 8, pkt := { putK with vl := 3, ty := .mgmt } }
    let old : Packet := { putK with epoch := true }
    let s := sFlights [f] []
    s.dev.flight? 9 = some f ∧ routerWorks s.dev tD = true ∧ stale s.dev putK = false ∧ putK.ty ≠ .mcast ∧ putK.dst = .phys tC
      ∧ malformed putK = false ∧ (s.dev.map.copy putK.epoch).turns.get [] tD.ix = [] ∧ Claim.nextHop tD tC = (tC, 2)
      ∧ routerWorks s.dev tC = true ∧ Claim.Serves s tD (dimOrder tD tC) 0 f 4 0
      ∧ (portGrant (sFlights [f, g] []).dev tD (dimOrder tD tC)).map (fun x => (x.1, x.2.1.id)) = some (3, 8)
      ∧ routerWorks (sFlights [f] [(tC, true)]).dev tC = false ∧ (sFlights [f] [(tC, true)]).dev.map.epoch = putK.epoch
      ∧ routerWorks (sFlights [f] [(tD, true)]).dev tD = false ∧ stale s.dev old = true := by
  unfold Claim.Serves; decide +kernel

/-- What waits at tile 1's router for tile 0: a packet of each lane. -/
def lanes (l : List Nat) : Dev :=
  (sFlights (l.map (fun v => { flight (.router tD 4) { putK with vl := v, ty := if v = 3 then .mgmt else .put } with id := v })) []).dev

theorem witness_lanes_order : (∀ l ∈ [[0, 1, 2, 3], [0, 1, 2], [0, 2]], (laneGrant (lanes l) tD 3 3).isSome = l.contains 3
      ∧ (laneGrant (lanes l) tD 3 1).isSome = l.contains 1 ∧ (laneGrant (lanes l) tD 3 0).isSome = true
      ∧ (laneGrant (lanes l) tD 3 2).isSome = true) := by decide +kernel

/-- A packet to the host at the first tether port, a transit packet at the last optical port. -/
theorem witness_egress :
    let k := { putK with dst := .port (portId 48) }
    let s := sFly (.port (portId 48)) k id id
    s.dev.flight? 9 = some (flight (.port (portId 48)) k) ∧ k.xdev = false ∧ (s.dev.job? k.jslot).isSome = true
      ∧ bufferRoom s.dev (portId 48) (HeldKind.packet k).bytes = true
      ∧ ({ flight (.port (portId 49)) { k with pfx := some (.phys tC) } with transit := some (1, 2) } : Flight).transit = some (1, 2) := by
  decide +kernel

/-- A packet at tile 0 is taken. -/
def arrives (k : Packet) (f : Tile → Tile) (g : Job → Job) : Bool :=
  decide ((sFly (.dest tC) k f g).dev.flight? 9 = some (flight (.dest tC) k)
    ∧ verdict (sFly (.dest tC) k f g).dev tC k (k.ty == .signal) = .take)

/-- The same at tile 3, the Store tile. -/
def sStore3 (k : Packet) (f : Tile → Tile) (g : Job → Job) : State :=
  stateOf { ((devJ.onTile tS f).onJob 0 g) with
    wafer := { ((devJ.onTile tS f).onJob 0 g).wafer with flights := [flight (.dest tS) k], nextId := 10 } }
def arrivesS (k : Packet) (f : Tile → Tile) (g : Job → Job) : Bool :=
  decide ((sStore3 k f g).dev.flight? 9 = some (flight (.dest tS) k) ∧ verdict (sStore3 k f g).dev tS k false = .take)

/-- A Store tile with a DMA queue whose window lies at 0x8000. -/
def withQueue (x : Tile) : Tile := { x with dmaqs := [{ job := 0, area := 0x8000, engine := 95 }] }

theorem witness_put :
    arrives putK id id = true ∧ isDup (tile 0) putK = false ∧ windowAt (tile 0) (putOff putK) 16 = none ∧ putDce putK = true
      ∧ inMem tC.kind (putOff putK) 16 = true ∧ remoteHeld (sFly (.dest tC) putK id id).dev tC (putOff putK) 16 = false
      ∧ arrives { putK with attempt := 1 } (fun x => { x with net := { x.net with filter := [(.phys tD, 7, false)] } }) id = true
      ∧ isDup { tile 0 with net := { (tile 0).net with filter := [(.phys tD, 7, false)] } } { putK with attempt := 1 } = true
      ∧ arrives { putK with tag := 0x4000 } id id = true ∧ inMem tC.kind (putOff { putK with tag := 0x4000 }) 16 = false := by
  decide +kernel

/-- A descriptor of 32 bytes for the window, and 16 bytes into it. -/
theorem witness_submission :
    let k := { pkt .put (putTag 0x8000) (putRed 0x8000 0 false) [] (data16 ++ data16) with dst := .phys tS }
    let w := { k with data := data16, len := 1 }
    arrivesS k withQueue id = true ∧ arrivesS w withQueue id = true ∧ putOff k = 0x8000 ∧ inMem tS.kind 0x8000 32 = true
      ∧ (windowAt (withQueue (tile 3)) 0x8000 32).isSome = true ∧ (windowAt (withQueue (tile 3)) 0x8000 16).isSome = true
      ∧ isSubmission (sStore3 k withQueue id).dev { job := 0, area := 0x8000, engine := 95 } k = some tD
      ∧ isSubmission (sStore3 k withQueue id).dev { job := 0, area := 0x8000, engine := 95 } w = none := by decide +kernel

def getK : Packet := { pkt .getReq 0x3FFF 0 [] [] with len := 1 }
def raddK : Packet := pkt .radd 0x10 0 [4, 0] data16

theorem witness_get_radd : arrives getK id id = true ∧ rangeNack (sFly (.dest tC) getK id id).dev tC (putOff getK) 16 = none
    ∧ arrives raddK id id = true ∧ rangeNack (sFly (.dest tC) raddK id id).dev tC (putOff raddK) 16 = none
    ∧ remoteHeld (sFly (.dest tC) raddK id id).dev tC (putOff raddK) 16 = false ∧ isDup (tile 0) raddK = false ∧ (tile 0).bad = []
    ∧ rangeForeign (tile 0) none (putOff getK) 16 = false ∧ raddK.data.length = 16
    ∧ (unelems 4 (tileLongSums (sFly (.dest tC) raddK id id).dev tC 0 4 raddK.long (putOff raddK) (elems 4 (List.replicate 16 0))
        ((elems 4 raddK.data).map (decodeFmt 4)))).length = 16
    ∧ arrivesS { raddK with dst := .phys tS } id id = true
    ∧ arrives { getK with len := 32, tag := 0x4000 } id id = true
    ∧ rangeNack (sFly (.dest tC) getK id id).dev tC (putOff { getK with tag := 0x4000 }) 512 = some 0x0305 := by decide +kernel

/-- A SIGNAL to the last queue: one without a count, one that waits for counter 15 to reach 1. -/
def sigK (n : Nat) : Packet := pkt .signal (63 + 64 * 15) 0 [] (le 4 5 ++ le 4 n ++ le 8 0)

theorem witness_signal : arrives (sigK 0) id id = true ∧ arrives (sigK 1) id id = true ∧ bits (sigK 0).tag 0 6 = 63
    ∧ bits (sigK 0).tag 6 4 = 15 ∧ fieldLe (sigK 0).data 4 4 = 0 ∧ fieldLe (sigK 1).data 4 4 = 1
    ∧ ((tile 0).sq 63).refuses = false ∧ ((tile 0).sq 63).waiters = []
    ∧ ({ count := 0, value := 5, queue := 63, counter := 15, sbit := false, pkt := sigK 0 } : HeldSig).ready (tile 0) = true
    ∧ ({ count := 1, value := 5, queue := 63, counter := 15, sbit := false, pkt := sigK 1 } : HeldSig).ready (tile 0) = false := by
  decide +kernel

/-- A TOKEN for channel 31 in its turn, and one already passed. -/
def tokK : Packet := pkt .token 0 0 [] (tokenBytes (tok 5 word4) 31)

theorem witness_token : arrives tokK id id = true ∧ (sFly (.dest tC) tokK id id).dev.jobAt tC = some job
    ∧ (deepOf (sFly (.dest tC) tokK id id).dev tC job tokK).isNone = true ∧ bits (fieldLe tokK.data 4 1) 0 5 = 31
    ∧ (({ tile 0 with flow := { chans := [(31, { next := 7 })] } } : Tile).chan 31).next = tokK.seq
    ∧ arrives tokK (fun x => { x with flow := { chans := [(31, { next := 7 })] } }) id = true
    ∧ arrives tokK (fun x => { x with flow := { chans := [(31, { next := 8 })] } }) id = true ∧ passed 8 tokK.seq = true := by
  decide +kernel

/-- A RED packet of level 0 and one on its way down, at a node with room and at a full one. -/
def redK (w : Nat) : Packet := pkt .red 0 0 (le 4 w ++ le 4 0 ++ le 8 0) data16
def fullNode (x : Tile) : Tile :=
  { x with net := { x.net with red := List.replicate 32 { entry := 9, tag := 0, element := 0, level := 0, j := 0, right := false, step := 0
                                                        , data := [] } } }

/-- A TOKEN of the deep channel of FIFO 0 at its host; channel 0's producer is tile 0. -/
theorem witness_token_deep :
    let k := { tokK with dst := .phys tS, src := .phys tC, tag := 0 }
    let f := fun (x : Tile) => { x with deeps := [{ ci := 0, base := 0x9000, cap := 65, next := 7 }] }
    let g := onImg { img with chans := [chanTo 0 31 7 65] }
    arrivesS k f g = true ∧ ((sStore3 k f g).dev.jobAt tS).map (fun j => (deepOf (sStore3 k f g).dev tS j k).map (fun x => (x.1, x.2.next)))
      = some (some (0, 7)) ∧ k.seq = 7 := by decide +kernel

theorem witness_red :
    let i := onImg { img with reds := [redE] }
    arrives (redK 0) id i = true ∧ arrives (redK (2 ^ 30)) id i = true ∧ arrives (redK 0) fullNode i = true
      ∧ (fullNode (tile 0)).net.red.length = 32
      ∧ (fullNode (tile 0)).redNew 0 0 0 0 0 true = true
      ∧ (tile 0).redNew 0 0 0 0 0 true = true ∧ isDup (tile 0) (redK 0) = false
      ∧ (({ tile 0 with net := { (tile 0).net with redSeen := [{ entry := 0, tag := 0, element := 0, level := 0, j := 0, right := true
                                                               , crossings := 0 }] } } : Tile).redNew 0 0 0 0 0 true) = false
      ∧ bit (fieldLe (redK (2 ^ 30)).sub 0 4) 30 = true ∧ bit (fieldLe (redK 0).sub 0 4) 30 = false
      ∧ (sFly (.dest tC) (redK 0) fullNode i).dev.redWaits tC = true
      ∧ rangeNack (sFly (.dest tC) (redK (2 ^ 30)) id i).dev tC 0 16 = none
      ∧ arrives (redK (2 ^ 30)) id (onImg { img with reds := [{ redE with off := 0x100000 }] }) = true
      ∧ rangeNack (sFly (.dest tC) (redK (2 ^ 30)) id i).dev tC 0x100000 16 = some 0x0305 := by decide +kernel

/-- A multicast's copy for tile 0, at 0x100 with counter 3. -/
def mcK : Packet := pkt .mcast 0 0 (le 12 0 ++ le 4 (0x100 + 3 * 2 ^ 21 + 2 ^ 25)) data16

theorem witness_mcast_own :
    let s := sFly (.own tC) mcK id id
    s.dev.flight? 9 = some (flight (.own tC) mcK) ∧ verdict s.dev tC mcK false = .take ∧ isDup (tile 0) mcK = false
      ∧ bits (fieldLe mcK.sub 12 4) 0 21 = 0x100 ∧ bit (fieldLe mcK.sub 12 4) 25 = true
      ∧ rangeNack s.dev tC 0x100 16 = none ∧ remoteHeld s.dev tC 0x100 16 = false := by decide +kernel

/-- The copy at the corner of its tree, whose branches are tile 1 and the router south of it. -/
theorem witness_mcast_tree :
    let k := { mcK with sub := mcastSub devJ job ⟨0, 0⟩ ⟨1, 1⟩ 0x100 0 false }
    let s := sFly (.dest tC) k id id
    s.dev.flight? 9 = some (flight (.dest tC) k) ∧ stale s.dev k = false ∧ inRect s.dev tC k = true
      ∧ (treeBox k).map (fun x => (x.1, (Machine.branches x.1 x.2.1 x.2.2 tC).map (fun b => (b.1, routerWorks s.dev b.1))))
          = some (tC, [(⟨1, 0⟩, true), (⟨0, 1⟩, true)]) := by decide +kernel

theorem witness_mgmt_scan : ∀ ty ∈ [PType.mgmt, PType.scan],
    let k := { pkt ty 0 0 [] [] with vl := 3 }
    (sFly (.dest tC) k id id).dev.flight? 9 = some (flight (.dest tC) k) ∧ stale (sFly (.dest tC) k id id).dev k = false := by
  decide +kernel

/-- A packet of tile 0 that awaits its answer: to tile 1, number 7. -/
def outOf (ty : PType) (attempt : Nat) : Out :=
  { pkt := { pkt ty 0 0 [] (if ty = .put then data16 else []) with dst := .phys tD, src := .phys tC, attempt := attempt }
    timer := true, reissued := decide (0 < attempt), lcc := some 15, units := 1, local_ := 0x200, target := 0, op := 0x50 }

def withOut (o : Out) (x : Tile) : Tile := { x with net := { x.net with outs := [o], seqNext := 8 } }

theorem witness_answers :
    arrives (pkt .ack 1 0 [] []) (withOut (outOf .put 0)) id = true
    ∧ matching (withOut (outOf .put 0) (tile 0)) (pkt .ack 1 0 [] []) = some (outOf .put 0) ∧ codeOf (outOf .put 0).pkt.ty = 1
    ∧ matching (tile 0) (pkt .ack 1 0 [] []) = none ∧ arrives (pkt .ack 1 0 [] []) id id = true
    ∧ arrives (pkt .getResp 0 0 [] data16) (withOut (outOf .getReq 0)) id = true
    ∧ matching (withOut (outOf .getReq 0) (tile 0)) (pkt .getResp 0 0 [] data16) = some (outOf .getReq 0)
    ∧ remoteHeld (sFly (.dest tC) getK id id).dev tC 0x200 16 = false
    ∧ (∀ n ∈ [0, 1], arrives (pkt .signalResp n 0 [] []) (withOut (outOf .signal 0)) id = true
        ∧ matching (withOut (outOf .signal 0) (tile 0)) (pkt .signalResp n 0 [] []) = some (outOf .signal 0) ∧ bit n 0 = (n == 1))
    ∧ arrives (pkt .notice 7 0 [] []) (withOut (outOf .signal 0)) id = true
    ∧ (withOut (outOf .signal 0) (tile 0)).net.outs.find? (fun y => y.pkt.ty == .signal && y.pkt.seq == 7 % 4096) = some (outOf .signal 0)
    ∧ arrives (pkt .nack 0x0305 0 [] []) (withOut (outOf .put 0)) id = true ∧ job.faults = true
    ∧ (tile 0).bad = [] ∧ isDup (tile 0) (pkt .notice 7 0 [] []) = false := by decide +kernel

/-- The acknowledgement of a token of port 31, and answers that match no packet. -/
theorem witness_late :
    (let k := pkt .ack 5 31 [] []
     let o := { outOf .token 0 with pkt := { (outOf .token 0).pkt with tag := 31 } }
     arrives k (withOut o) id = true ∧ (withOut o (tile 0)).net.outs.find? (fun o => o.pkt.ty == .token && o.pkt.seq == k.seq
        && o.pkt.attempt == k.attempt && o.pkt.tag == k.red) = some o)
    ∧ ∀ ty ∈ [PType.getResp, .signalResp, .nack], arrives (pkt ty 0 0 [] []) id id = true ∧ matching (tile 0) (pkt ty 0 0 [] []) = none := by
  decide +kernel

/-- A count for FIFO 0 of the Store tile. -/
theorem witness_credit_deep : ∀ n ∈ [1, 32767],
    let k := { pkt .credit n 8 [] [] with dst := .phys tS }
    arrivesS k (fun x => { x with deeps := [{ ci := 0 }] }) id = true ∧ bits k.red 0 5 - 8 = 0
      ∧ (k.tag + 65536 - ({ ci := 0 } : Deep).lastCredit) % 65536 = n := by decide +kernel

/-- Counts of output port 31: 1 and 32,767 ahead of what was accepted, and 32,768. -/
theorem witness_credit : ∀ n ∈ [1, 32767, 32768], arrives (pkt .credit n 31 [] []) id id = true
    ∧ (n + 65536 - ((tile 0).port 31).lastCredit) % 65536 = n := by decide +kernel

theorem witness_timers :
    (∀ a ∈ [0, 2, 3], ∀ o ∈ [outOf .put a], (sWith tC (withOut o) id).dev.timersRun tC = true ∧ job.faults = true
      ∧ Claim.TimerOf (sWith tC (withOut o) id) tC (.tile tC 7) o
      ∧ (freshData ((sWith tC (withOut o) id).dev.tile tC) o).isSome = true)
    ∧ (∀ a ∈ [0, 2, 3], ∀ o ∈ [{ outOf .token a with op := 0, pkt := { (outOf .token a).pkt with tag := 31 } }],
        Claim.TimerOf (sWith tC (withOut o) id) tC (.token tC 31 7) o ∧ (freshData ((sWith tC (withOut o) id).dev.tile tC) o).isSome = true)
    ∧ ((sWith tC (fun x => { x with net := { x.net with quarantine := [4095] } }) id).dev.tile tC).net.quarantine.contains 4095 = true
    ∧ (((sWith tC (fun x => x.setPort 31 { x.port 31 with quarantine := [4095] }) id).dev.tile tC).port 31).quarantine.contains 4095 = true
    ∧ sJ.dev.map.holdTimers = false := by
  unfold Claim.TimerOf; decide +kernel

/-- The consumer of channel 1 owes one repeat. -/
theorem witness_credit_repeat :
    let s := sWith tD (fun x => { x with flow := { chans := [(3, { ci := some 1, reps := 1, returned := 2 })] } }) (onImg imgChans)
    s.dev.timersRun tD = true ∧ (s.dev.jobAt tD).map (fun j => (j.chan 1, j.posOf s.dev.map ⟨0, 0⟩)) = some (some (chanTo 5 3 1 4), some tC)
      ∧ ((s.dev.tile tD).chan 3).ci = some 1 ∧ ((s.dev.tile tD).chan 3).reps = 0 + 1 := by decide +kernel

/-- A change that is being written; one armed with job 31 still to move; one armed that no job is behind. -/
theorem witness_changes :
    ({ st := .writing } : Change).req = none ∧ turnsOk sJ.dev.map [(⟨511, 479⟩, [⟨0, 0, 511, 479, 4, 1⟩])] = true ∧ ({ st := .armed, left := [31] } : Change).left.contains 31 = true
    ∧ ({ st := .armed } : Change).left = []
    ∧ sJ.dev.wafer.tiles.all (fun x => x.2.net.jslot.isNone || x.2.net.epoch == sJ.dev.map.epoch) = true := by decide +kernel

/-! ## DMA, port tiles, deep channels -/

/-- A descriptor word list: READ of one unit from HBM offset 0 of stack 0 to 0x100 of region tile 0; COPY to HBM 0x1000. The
completion record goes to `st` (in units of 16). -/
def ddescOf (op st : Nat) : List Word :=
  [BitVec.ofNat 32 (op + 256 * st), 0, 0, if op = 3 then 0x1000 else 0x100, if op = 3 then 0 else 0x8000, 1, 0, 0]

/-- A queue with one descriptor at the last place of its ring, which follows the window at 0x8000. -/
def ringD : RingDesc := { pos := 63, src := ⟨0, 0⟩, sbit := false, started := false }

def dq : DmaQ := { job := 0, area := 0x8000, engine := 95, ring := [ringD] }

def sDma : State := sWith tS (fun x => { x with mem := cellsOf (0x8020 + 32 * 63) (ddescOf 0 0x40), dmaqs := [dq, dq, dq, dq] }) id

theorem witness_dma_start : sDma.dev.jobAt tS = some job ∧ job.running = true ∧ job.phase ≠ .pauseQuiesce
    ∧ (sDma.dev.tile tS).dmaq 3 = some dq ∧ dq.ring.find? (fun y => !y.started) = some ringD
    ∧ (sDma.dev.brim.runs.filter (fun r => r.1 == dq.engine)).length < 8 ∧ (sDma.dev.tile tS).bad = []
    ∧ wordsLe ((sDma.dev.tile tS).mem.readN (dq.entry 63) 32) = ddescOf 0 0x40
    ∧ descCode job tC (ddesc (ddescOf 0 0x40)) = 0 ∧ (piecesOf (ddesc (ddescOf 0 0x40))).length = 1 := by decide +kernel

/-- A run in engine 95 with one piece. -/
def runOf (op st : Nat) (p : PieceSt) : DmaRun :=
  { stage := .pieces, id := 4, j := 0, host := tS, q := 0, pos := 63, requester := tC, words := ddescOf op st, sbit := false, step := 0
    pieces := (piecesOf (ddesc (ddescOf op st))).map (fun x => { x with st := p }), code := 0, units := 0, blocks := 0 }

def sRun (r : DmaRun) : State := stateOf { devJ with brim := { devJ.brim with runs := [(95, r)] } }

theorem witness_dma_piece :
    (sRun (runOf 0 0x40 .moving)).dev.run? 95 4 = some (runOf 0 0x40 .moving) ∧ pieceQuiet (sRun (runOf 0 0x40 .moving)).dev 4 0 = true
    ∧ (∀ op ∈ [0, 1, 3], (sRun (runOf op 0x40 .todo)).dev.run? 95 4 = some (runOf op 0x40 .todo) ∧ (ddesc (ddescOf op 0x40)).op = op
        ∧ (runOf op 0x40 .todo).pieces.length = 1
        ∧ (runOf op 0x40 .todo).pieces.all (fun p => p.st == .todo && !poisonedIn (sRun (runOf op 0x40 .todo)).dev p.src p.len
            && !meetsHeld (sRun (runOf op 0x40 .todo)).dev job p.src p.len && bufferRoom (sRun (runOf op 0x40 .todo)).dev (portOf p.dst) p.len
            && ((sRun (runOf op 0x40 .todo)).dev.port (portOf p.src)).room (cdiv (p.len / 16) 16)
            && ((sRun (runOf op 0x40 .todo)).dev.port (portOf p.dst)).room (cdiv (p.len / 16) 16)) = true)
    ∧ (∀ op ∈ [0, 1], runTile (sRun (runOf op 0x40 .todo)).dev job (runOf op 0x40 .todo) = some tC) := by decide +kernel

/-- A GATHER of lines 0 to 15 and block 0 with room for one block. -/
def ddescGather : List Word := [2 + 256 * 0x40, 0, 0, 0x100, 0x8000, 0, 16, 1 + 0x10000]

def sGather : State :=
  let r := { runOf 2 0x40 .todo with words := ddescGather, pieces := piecesOf (ddesc ddescGather) }
  stateOf { devJ with brim := (({ devJ.brim with runs := [(95, r)] }.hbmWrite 0
    (le 1 0 ++ le 1 1 ++ le 10 0 ++ le 4 2 ++ le 8 64 ++ le 8 1024 ++ le 8 128))).hbmWrite 64 (le 8 0 ++ le 8 1) }

/-- The record names two blocks with scales; the second one is beyond the room. -/
theorem witness_gather :
    let d := sGather.dev
    let x := ddesc ddescGather
    (d.run? 95 4).map (fun r => (r.pieces.map (·.st), runTile d job r)) = some ([.todo], some tC) ∧ x.op = 2
      ∧ (Claim.record sGather x).fmt ≤ 6 ∧ (Claim.record sGather x).nblk = 2
      ∧ (Claim.gatherReads sGather x).all (fun y => !meetsHeld d job y.1 y.2 && hbmRangeOk y.1 y.2 && !poisonedIn d y.1 y.2) = true
      ∧ (Claim.windowWrites sGather x 0x100).all (fun y => y.2.isEmpty || inMem tC.kind y.1 y.2.length) = true
      ∧ (d.port 95).room ((Claim.windowWrites sGather x 0x100).map (fun y => cdiv (y.2.length / 16) 16)).sum = true
      ∧ (Claim.window sGather x).blocks.length = 1 ∧ (Claim.window sGather x).beyond = true := by decide +kernel

/-- Packet 9 of port tile 0 for a piece of the run, or for its counter PUT, and an answer to it; COPY data at port tile 1. -/
def portOut (op k : Nat) : Out × Nat × Nat :=
  (runOut { pkt .put 0 0 [] data16 with dst := if op = 3 then .port 1 else .phys tC, src := .port 0, seq := 9 } op 0 1, 4, k)

def sPort (r : DmaRun) (op k : Nat) (a : Packet) (pid : Nat) : State :=
  stateOf { devJ with
    brim := { devJ.brim with runs := [(95, r)], ports := [(0, { outs := [portOut op k] })] }
    wafer := { devJ.wafer with flights := [flight (.port pid) a], nextId := 10 } }

theorem witness_port_answers :
    (∀ ty ∈ [PType.ack, .getResp, .nack],
      let a := { pkt ty 1 0 [] data16 with dst := .port 0, seq := 9 }
      let s := sPort (runOf 0 0x40 .moving) 0 0 a 0
      s.dev.flight? 9 = some (flight (.port 0) a) ∧ a.xdev = false ∧ portMatching (s.dev.port 0) a = some (portOut 0 0)
        ∧ s.dev.engineOf 4 = some (95, runOf 0 0x40 .moving) ∧ 0 < (runOf 0 0x40 .moving).pieces.length ∧ (runOf 0 0x40 .moving).code = 0)
    ∧ (let a := { pkt .ack 1 0 [] [] with dst := .port 0, seq := 9 }
       let r := { runOf 0 0x40 .ended with stage := .counter }
       portMatching ((sPort r 2 2 a 0).dev.port 0) a = some (portOut 2 2) ∧ r.pieces.length ≤ 2)
    ∧ (let s := sPort (runOf 3 0x40 .moving) 3 0 (portOut 3 0).1.pkt 1
       s.dev.flight? 9 = some (flight (.port 1) (portOut 3 0).1.pkt)
        ∧ (s.dev.port 0).outs.find? (fun y => y.1.op == 3 && y.1.pkt.seq == 9) = some (portOut 3 0)
        ∧ ((runOf 3 0x40 .moving).pieces[0]?).isSome = true ∧ (runOf 3 0x40 .moving).landed.contains (0, 0) = false) := by decide +kernel

/-- The record lies in the requester's memory, and outside of it. -/
theorem witness_dma_complete :
    (∀ st ∈ [0x40, 0x4000], (sRun (runOf 0 st .ended)).dev.run? 95 4 = some (runOf 0 st .ended)
      ∧ (runOf 0 st .ended).pieces.all (fun p => p.st == .ended) = true)
    ∧ inMem tC.kind (ddesc (ddescOf 0 0x40)).statusOff 16 = true ∧ inMem tC.kind (ddesc (ddescOf 0 0x4000)).statusOff 16 = false
    ∧ ((sRun (runOf 0 0x40 .ended)).dev.port 95).room 1 = true ∧ (tile 0).net.sigs = [] := by decide +kernel

/-- A held write of step 0 of a job that has confirmed step 0, and a packet that its link takes. -/
theorem witness_commit : ripe { job with conf := 1 } { j := 0, src := ⟨0, 0⟩, step := 0, kind := .hbm 0 [1, 2, 3, 4] } = true
    ∧ ripe job { j := 0, src := ⟨0, 0⟩, step := 0, kind := .hbm 0 [1, 2, 3, 4] } = false
    ∧ ripe { job with conf := 1 } { j := 0, src := ⟨0, 0⟩, step := 0, kind := .packet putK } = true
    ∧ ({ st := .up, credits := [(0, 100)] } : Link).canSend putK = true
    ∧ (sJ.dev.job? 0) = some job ∧ (0 : Nat) < 32 ∧ (95 : Nat) < 96 ∧ (145 : Nat) < 146 := by decide +kernel

theorem witness_scrub : (23 : Nat) < 24 ∧ (1499999999 : Nat) < 1500000000 ∧ (sJ.dev.mod.st = .idle ∨ sJ.dev.mod.st = .active) := by
  decide +kernel

/-- FIFO 7 of the Store tile holds a token of channel 0, which goes to tile 7's channel 31. -/
def deepQ : Deep := { ci := 0, toks := [tok 5 word4] }

def sDeep : State :=
  sWith tS (fun x => { x with deeps := List.replicate 8 deepQ }) (onImg { img with chans := [chanTo 0 31 7 65] })

theorem witness_deep : sDeep.dev.live tS = true ∧ (sDeep.dev.tile tS).deeps[7]? = some deepQ ∧ 0 < deepQ.credit
    ∧ ((sDeep.dev.jobAt tS).bind (fun j => (j.chan 0).bind (fun r => j.posOf sDeep.dev.map r.cons))) = some tF
    ∧ ((sDeep.dev.tile tS).net.outs.filter (fun o => o.pkt.ty == .token)).length < 256
    ∧ (sDeep.dev.tile tS).tokenFree (8 + 7) deepQ.num = true ∧ (sDeep.dev.tile tS).bad = [] := by decide +kernel

/-! ## Requests and jobs -/

/-- A request of the open session on the serial transport. -/
def req : Req := { tr := .uart, box := 0, session := 5, major := 3, seq := 1, job := 1 }

/-- The device with that session open, in a state. -/
def opened (st : ModSt) (d : Dev) : Dev :=
  { d with
    host := { d.host with sessions := [{ id := 5, tr := .uart, major := 3, minor := 1, push := false, used := 0, kept := [], running := [] }] }
    mod := { d.mod with st := st, inForce := { d.mod.inForce with uartEn := true, envelope := 42000, ceiling := 850 } } }

/-- The request is admitted, and reading it leaves a device with a property. -/
def admitted (op : Nat) (logged : Bool) (p : Dev → Bool) (d : Dev) : Bool :=
  boxOk req.tr req.box && match entered req op logged d with
    | .ok e => p e
    | .error _ => false

theorem admitted_some {op : Nat} {logged : Bool} {p : Dev → Bool} {s : State} (h : admitted op logged p s.dev = true) :
    ∃ d, Claim.Admitted s req op logged d ∧ p d = true := by
  unfold admitted at h
  simp only [Bool.and_eq_true] at h
  obtain ⟨h1, h2⟩ := h
  split at h2
  · exact ⟨_, ⟨h1, by assumption⟩, h2⟩
  · cases h2

theorem witness_read : (opened .active {}).carries .uart = true
    ∧ ((opened .active {}).session? .uart 5).map (fun x => (x.major, x.kept.length, x.running)) = some (3, 0, [])
    ∧ acceptedIn 0x20 .active = false ∧ acceptedStarting 0x40 = false ∧ (opened .starting {}).carries .uart = true
    ∧ admitted 0x40 true (fun _ => true) (opened .idle {}) = true
    ∧ admitted 0x42 true (fun _ => true) (opened .idle {}) = false := by decide +kernel

/-! ### An image -/

def interleavedAt (n : Nat) : Nat := 2 ^ 46 + n

/-- An image of one Compute tile without tasks, its boundary records at the Store tile. -/
def imageBody : List Byte :=
  -- directory of six sections (R296)
  ([(1, 64, 160), (2, 16, 224), (3, 64, 240), (4, 16, 304), (6, 64, 320), (7, 24, 384)].flatMap (fun x =>
    le 2 x.1 ++ le 2 1 ++ le 4 x.2.1 ++ le 8 x.2.2))
  -- PARAMS: one line, one device, 1,000 uJ a step
  ++ padTo 64 (le 1 0 ++ le 1 1 ++ le 1 34 ++ le 1 18 ++ le 4 1 ++ le 8 0 ++ le 8 1000 ++ le 4 0)
  -- REGION: one group of one row
  ++ padTo 16 (le 1 1 ++ le 1 0 ++ le 2 1)
  -- TILES: region tile (0, 0), enrolled on line 0
  ++ padTo 64 (le 4 0 ++ le 1 0 ++ le 1 24 ++ le 6 0 ++ le 4 1 ++ le 4 1)
  -- CHANNELS: none
  ++ padTo 16 []
  -- HBM_PLAN: home and pause areas, no drydown area, no range, no queue
  ++ padTo 64 (le 8 (interleavedAt 0) ++ le 8 0x1000 ++ le 8 (interleavedAt 0x1000) ++ le 8 0x1000000)
  -- RETENTION: boundary records of tile (0, 0) at (3, 0)
  ++ (le 4 0 ++ le 4 0 ++ le 4 0 ++ le 4 3 ++ le 4 0 ++ le 4 0x4000)

/-- The image: magic, version 2.4, lengths, check sum (R295). -/
def imageHead (crc : Nat) : List Byte :=
  padTo 60 ([0x4C, 0x4E, 0x4A, 0x49] ++ le 1 2 ++ le 1 4 ++ le 2 0 ++ le 8 408 ++ le 8 64 ++ le 4 6) ++ le 4 crc

def imageBytes : List Byte := imageHead (crc32c (imageHead 0 ++ imageBody)) ++ imageBody

/-- Where the image stands: stack 1, stack-local form. -/
def imageAt : Nat := 2 ^ 37 + 2 ^ 30

def parsed? : Option Parsed :=
  match parseImage imageBytes with
  | .ok p => some p
  | .error _ => none

/-- The parsed image. -/
def parsed : Parsed := parsed?.getD { img := img, regime := 0, requires := [], units := [], unknownRequired := false }

theorem witness_image : parsed?.isSome = true ∧ loadChecks parsed [] imageAt 408 = none
    ∧ parsed.img.tiles.map (fun t => (t.rc, t.enrol)) = [(⟨0, 0⟩, 1)] := by decide +kernel

def devImage : Dev := opened .idle { brim := ({} : Brim).hbmWrite imageAt imageBytes }

theorem witness_load : admitted 0x40 true (fun d => decide (d.mod.failedStacks = [] ∧ d.jobNamed req.job = none ∧ d.freeJobSlot = some 0)
      && decide (d.brim.hbmRead imageAt 408 = imageBytes) && !poisonedIn d imageAt 408) devImage = true
    ∧ imageAt % 16 = 0 ∧ (hbmKey imageAt).isSome = true ∧ hbmRangeOk imageAt 408 = true := by decide +kernel

/-- The image's job in slot 0, in a state. -/
def loadedJob : Job := newJob 1 0 850 0 parsed.img

def devLoaded (j : Job) : Dev :=
  opened .active { jobs := [j], energy := { allow := 4200000, budget := 4200000, penv := 42000, fields := (List.range 48).map (fun f => (f, { powered := true, volt := 750, target := 750 })) } }

/-- What startChecks answers. -/
def starts (d : Dev) (j : Job) : Bool :=
  match startChecks d j none with
  | .ok (ls, o) => ls == [0] && o == (0, 0)
  | .error _ => false

/-- The job as START_JOB asks for it, and a job that waits for its predecessors before it. -/
def waitingJob : Job := { newJob 2 1 850 0 parsed.img with phase := .predecessors, preds := [9] }

theorem witness_start : admitted 0x41 true (fun d => decide ((d.jobNamed req.job).map (·.id) = some 1 ∧ (d.job? 0).map (·.st) = some .loaded)
      && !d.jobBusy loadedJob && d.host.placements.isEmpty
      && starts (Claim.asked d loadedJob .startWait req none).2 (Claim.asked d loadedJob .startWait req none).1) (devLoaded loadedJob) = true
    ∧ loadedJob.preds = [] ∧ loadedJob.slot = 0
    ∧ admitted 0x41 true (fun d => d.host.placements == [1] && d.job? 1 == some waitingJob && !d.jobBusy loadedJob)
        { devLoaded loadedJob with jobs := [loadedJob, waitingJob], host := { (devLoaded loadedJob).host with placements := [1] } } = true
    ∧ waitingJob.preds ≠ [] := by decide +kernel

def startingJob : Job := { loadedJob with st := .running, phase := .starting, origin := some (0, 0), lines := [0] }

theorem witness_delivery :
    let d := devLoaded startingJob
    d.job? 0 = some startingJob ∧ startingJob.phase = .starting ∧ startingJob.mapReady d = true ∧ startingJob.fieldsUp d = true
    ∧ (∀ c ∈ startingJob.img.members, homeLost d startingJob.img c = false) ∧ longRecord (deliverHome startingJob d) startingJob = none
    ∧ startingJob.img.members = [⟨0, 0⟩, ⟨3, 0⟩] ∧ startingJob.posOf d.map ⟨3, 0⟩ = some tS := by decide +kernel

theorem witness_status : admitted 0x45 false (fun d => (d.jobNamed 1).isSome && !d.jobBusy loadedJob) (devLoaded loadedJob) = true := by
  decide +kernel

/-- The job runs on its two tiles, in a phase. -/
def runningJob (ph : Phase) : Job :=
  { loadedJob with st := .running, phase := ph, origin := some (0, 0), lines := [0], gates := true }

def devRunning (j : Job) : Dev :=
  { devLoaded j with wafer := { tiles := [(tC.ix, { tile 0 with sync := { nLines := 1, enrol := 1, pending := 1 } }), (tS.ix, tile 3)] } }

theorem witness_pause : ∀ op ∈ [0x42, 0x44], admitted op true (fun d => decide ((d.jobNamed 1).map (·.st) = some .running)
      && !d.jobBusy (runningJob .idle)) (devRunning (runningJob .idle)) = true := by decide +kernel

theorem witness_boundary :
    (runningJob .pauseBoundary).phase = .pauseBoundary ∧ atBoundary (devRunning (runningJob .pauseBoundary)) (runningJob .pauseBoundary) = true
    ∧ atBoundary { devRunning (runningJob .pauseBoundary) with wafer := { tiles := [(tC.ix, { tile 0 with sync := { nLines := 1, enrol := 1 } })] } }
        (runningJob .pauseBoundary) = false := by decide +kernel

theorem witness_quiesce :
    let need := fun (d : Dev) (j : Job) => pauseFixed j.img + bulkTotal d j + ((heldLog d 0).map (fun y => (logEntry y).length)).sum
    let j := runningJob .pauseQuiesce
    let d := devRunning j
    let j' := { j with img := { j.img with pause := (0, 0) } }
    d.job? 0 = some j ∧ quiet d j = true ∧ settled d j = true ∧ need d j ≤ j.img.pause.2
      ∧ quiet (devRunning j') j' = true ∧ settled (devRunning j') j' = true ∧ j'.img.pause.2 < need (devRunning j') j' := by decide +kernel

def savedOf (log : List (Nat × HeldWrite)) : Saved := { tiles := [(⟨0, 0⟩, tile 0), (⟨3, 0⟩, tile 3)], log := log, links := [], bytes := 0 }

/-- A paused job with a held write at port tile 95. -/
def pausedJob (ph : Phase) : Job :=
  { loadedJob with
    st := if ph = .idle then .paused else .running, phase := ph
    saved := some (savedOf [(95, { j := 0, src := ⟨0, 0⟩, step := 0, kind := .hbm 0 [1, 2, 3, 4] })])
    origin := if ph = .idle then none else some (0, 0) }

theorem witness_scan_out : (runningJob .pauseScanOut).succ = [] ∧ (runningJob .pauseScanOut).outcomes = []
    ∧ (devRunning (runningJob .pauseScanOut)).job? 0 = some (runningJob .pauseScanOut) := by decide +kernel

theorem witness_resume : admitted 0x43 true (fun d => decide (d.jobs = [pausedJob .idle]) && !d.jobBusy (pausedJob .idle) && d.host.placements.isEmpty
      && starts (Claim.asked d (pausedJob .idle) .predecessors req none).2 (Claim.asked d (pausedJob .idle) .predecessors req none).1)
      (devLoaded (pausedJob .idle)) = true := by decide +kernel

theorem witness_scan_in :
    let j := pausedJob .resuming
    let d := devLoaded j
    d.job? 0 = some j ∧ j.phase = .resuming ∧ j.saved.isSome = true ∧ j.mapReady d = true ∧ j.fieldsUp d = true
      ∧ (j.saved.map (imageLost d j)) = some false := by decide +kernel

/-- A halted job. -/
def haltedJob (st : StopSt) (a : Option (Nat × Nat)) : Job := { runningJob .idle with st := .halted, stop := st, area := a }

theorem witness_stop : (devRunning (haltedJob .accepting none)).job? 0 = some (haltedJob .accepting none)
    ∧ crossSettled (devRunning (haltedJob .accepting none)) (haltedJob .accepting none) = true
    ∧ (let j := { haltedJob .accepting none with crossed := [(0, 1)] }; crossSettled (devRunning j) j = false)
    ∧ (haltedJob .closed none).stop ≠ .accepting ∧ (haltedJob .closed none).stop ≠ .dumped
    ∧ (haltedJob .accepting none).unload = none ∧ (haltedJob .dumping (some (interleavedAt 0, 0x1000))).area = some (interleavedAt 0, 0x1000)
    ∧ admitted 0x50 true (fun d => !d.jobBusy (runningJob .idle) && decide (dryArea d (runningJob .idle) (interleavedAt 0x4000000) 0x1000 =
          some (interleavedAt 0x4000000, 0x1000))) (devRunning (runningJob .idle)) = true
    ∧ admitted 0x50 true (fun d => !d.jobBusy (haltedJob .closed none)) (devRunning (haltedJob .closed none)) = true
    ∧ admitted 0x44 true (fun d => !d.jobBusy (haltedJob .closed none)) (devRunning (haltedJob .closed none)) = true := by decide +kernel

/-! ## Recoveries and fields -/

/-- A job in a recovery. -/
def recovering (ph : Phase) (why : Nat) : Job := { runningJob ph with rbWhy := why, lost := [tC] }

theorem witness_recovery :
    (∀ ph ∈ [Phase.rbQuiesce, .rbRestore, .tkLoad, .rpScanOut, .rpResume], ∀ why ∈ [0, 1, 2],
      (devRunning (recovering ph why)).job? 0 = some (recovering ph why))
    ∧ noneBound 0 (devRunning (recovering .rbQuiesce 0)) = true
    ∧ (let j := { recovering .rbQuiesce 1 with lost := [tC, tS] }; recordsIn (devRunning j) j = true)
    ∧ (∀ c ∈ (recovering .tkLoad 1).img.members, homeLost (devRunning (recovering .tkLoad 1)) (recovering .tkLoad 1).img c = false)
    ∧ (recovering .rpResume 2).mapReady (devRunning (recovering .rpResume 2)) = true
    ∧ (recovering .rpResume 2).fieldsUp (devRunning (recovering .rpResume 2)) = true ∧ 0 < (recovering .rbRestore 0).img.nLines
    ∧ (recovering .rbRestore 0).pauseAfter = false ∧ (recovering .rpScanOut 2).succ = []
    ∧ { recovering .rpResume 2 with saved := some (savedOf []) }.saved = some (savedOf [])
    ∧ (recovering .rbRestore 0).img.ordered = [⟨0, 0⟩, ⟨3, 0⟩] := by decide +kernel

/-- Tile 0 has missed a poll, which its job needs; so has tile 15, the spare of its group, which no job needs. -/
theorem witness_poll : polled sJ.dev tC = true ∧ sJ.dev.map.missed.get 0 tC.ix = 0
    ∧ (let d : Dev := { devJ with map := { missed := [(0, 1), (15, 1)] } }
       d.map.missed.get 0 tC.ix = 1 ∧ polled d tC = true ∧ d.usedBy tC = some job ∧ d.job? job.slot = some job
        ∧ job.needs d.map tC = true ∧ job.phase = .idle
        ∧ polled d ⟨15, 0⟩ = true ∧ d.map.missed.get 0 (⟨15, 0⟩ : Pos).ix = 1 ∧ (d.usedBy ⟨15, 0⟩).isSome = true
        ∧ job.needs d.map ⟨15, 0⟩ = false) := by decide +kernel

/-- A job of five groups whose tile (0, 0) keeps its records in the next field. -/
def wideJob : Job :=
  { runningJob .idle with img := { img with w := 5, tiles := [recAt 0], rets := [{ ret with host := ⟨63, 0⟩ }] }
                          bounds := [{ rc := ⟨0, 0⟩, step := 0, tile := tile 0, links := [] }] }

/-- Field 47 fails, which no job touches; field 0 fails under the job, which another field can take. -/
theorem witness_short :
    let d := devRunning wideJob
    let m := fun (f : Nat) => ({ d.map with isolated := d.map.isolated ++ [f], holdTimers := true } : MapSt)
    (d.energy.fields.get {} 47).powered = true ∧ d.map.isolated.contains 47 = false
      ∧ d.jobs.filter (fun j => j.onWafer && !(tilesIn (m 47) j 47).isEmpty) = []
      ∧ tilesIn (m 0) wideJob 0 = [tC] ∧ survives { d with map := m 0 } wideJob 0 = true ∧ wideJob.phase = .idle
      ∧ (d.energy.fields.get {} 0).powered = true ∧ d.map.isolated.contains 0 = false := by decide +kernel

/-- The spare of group 0 in row 0, which the job does not use, after a crossing of line 0; the same waiting for its retest. -/
theorem witness_field_test :
    let d := devRunning { runningJob .idle with beats := 1 }
    let e : Dev := { d with map := { testing := [tS], retest := [⟨15, 1⟩] } }
    d.map.suspendTests = false ∧ d.mod.st = .active ∧ testable d ⟨15, 0⟩ = true ∧ (∀ p ∈ d.map.testing, p.field ≠ (⟨15, 0⟩ : Pos).field)
      ∧ d.map.retest.contains ⟨15, 0⟩ = false ∧ e.map.testing.contains tS = true ∧ e.map.retest.contains ⟨15, 1⟩ = true
      ∧ mayTest { e with map := { e.map with testing := [] } } ⟨15, 1⟩ = true := by decide +kernel

/-! ## Energy and power -/

/-- Readings in which field 47 alone is hot. -/
def readings (hot : Nat) : Readings :=
  { input := 1000, brim := [], sectors := [], tj := List.replicate 752 40 ++ List.replicate 16 hot, rate := [] }

/-- No field stands at 95 °C, the 48 of the part and any other index. -/
theorem witness_readings : ∀ hot ∈ [40, 92, 94], ∀ f, hottest (readings hot) f < 95 := by
  have h : ∀ hot ∈ [40, 92, 94], ∀ f, f < 48 → hottest (readings hot) f < 95 := by decide +kernel
  intro hot hh f
  by_cases hf : f < 48
  · exact h hot hh f hf
  · have e : (readings hot).tj.length ≤ 16 * f := by simp [readings]; omega
    simp [hottest, sense, List.drop_eq_nil_of_le e]

theorem witness_ledger : (devLoaded loadedJob).mod.st = .active ∧ (devLoaded loadedJob).energy.nextEnv = none
    ∧ 92 ≤ hottest (readings 92) 47 ∧ (Claim.field (stateOf (devLoaded loadedJob)) 47).powered = true
    ∧ (({ mod := { st := .starting, order := 2 } } : Dev).mod.order = 2) := by decide +kernel

theorem witness_gate :
    let j := runningJob .idle
    let d := devRunning j
    let e := devRunning { j with energy := { j.energy with readyAt := some 0 } }
    d.job? 0 = some j ∧ gateReady j d.now = true ∧ (ledgerAllows d j).1 = true ∧ firstInLine d j = true
      ∧ (ledgerAllows { d with energy := { d.energy with budget := 10 } } j).1 = false
      ∧ (ledgerAllows { d with energy := { d.energy with allow := 10, budget := 10 } } j) = (true, true)
      ∧ gateReady { j with gate0 := true } d.now = false ∧ (e.job? 0).isSome = true := by decide +kernel

theorem witness_supplies : ((devLoaded loadedJob).energy.fields.get {} 47).powered = true ∧ (({} : Energy).fields.get {} 47).powered = false
    ∧ (devLoaded loadedJob).jobs.any Job.onWafer = false ∧ (devRunning (runningJob .idle)).jobs.any Job.onWafer = true := by decide +kernel

theorem witness_envelope : admitted 0x31 true (fun d => decide (8000 ≤ d.mod.inForce.envelope)) (devLoaded loadedJob) = true
    ∧ (8000 : Nat) * 1 * 1000 = 8000000 ∧ admitted 0x32 false (fun _ => true) (devLoaded loadedJob) = true := by decide +kernel

/-- The module states of the clauses. -/
def modOf (m : Module) : Dev := { mod := m }

theorem witness_power :
    (modOf {}).mod.standbyOn = false ∧ (modOf { st := .standby, standbyOn := true, heldStart := true, qualified := true }).mod.standbyOn = true
    ∧ (modOf { move := .toStandby }).mod.move = .toStandby ∧ (modOf { move := .toParked, moveReq := some req }).mod.moveReq = some req
    ∧ (modOf { st := .idle, move := .toIdle }).mod.move = .toIdle
    ∧ admitted 0x30 true (fun d => !moving d && decide (d.mod.st ≠ .parked ∧ d.jobs.any Job.onWafer = false)) (devLoaded loadedJob) = true
    ∧ admitted 0x30 true (fun d => !moving d && d.jobs.any Job.onWafer) (devRunning (runningJob .idle)) = true
    ∧ admitted 0x30 true (fun d => !moving d && decide (d.mod.st = .parked ∧ d.mod.failedStacks = [] ∧ d.jobs = []))
        (opened .parked {}) = true := by decide +kernel

/-! ## The start -/

/-- A start at an order. -/
def startAt (n : Nat) (m : Module) : Dev := { mod := { m with st := .starting, order := n, standbyOn := true, qualified := true } }

def goodFlacon : Flacon := { major := 1, minor := 2, key := 1, level := 128, version := 7, wellFormed := true, authentic := true
                             settings := none, limits := none, digest := [] }

theorem witness_generations : ([1, 2, 3, 5] : List Nat).any (fun k => (Boot.shipped.newest k).isNone) = false
    ∧ ([1, 2, 3, 5] : List Nat).any (fun k => ({ Boot.shipped with otp := [] }.newest k).isNone) = true := by
  obtain ⟨h2, h3, h5, h1⟩ := shipped_slots (b := Boot.shipped) rfl
  exact ⟨by simp [h1, h2, h3, h5], by decide +kernel⟩

theorem witness_fallback :
    (startAt 3 {}).mod.fromParked = false ∧ Boot.shipped.newBank = false ∧ ({ Boot.shipped with newBank := true } : Boot).newBank = true := by
  decide +kernel

/-- On a part with the fuses as shipped a flacon verifies that is what R391 asks. -/
theorem shipped_verifies {b : Boot} (hb : b.otp = Boot.shipped.otp) (f : Flacon) :
    verifies b f = (f.wellFormed && f.authentic && f.major == 1 && decide (f.key < 2) && decide (f.level ≤ 128)) := by
  simp [verifies, Boot.settings, shipped_slots hb, shipped_count hb]

/-- A part whose active bank B does not verify. -/
def bootB : Boot := { Boot.shipped with activeB := true, bankB := some { goodFlacon with authentic := false } }

theorem witness_banks :
    (∃ f, Boot.shipped.bank Boot.shipped.activeB = some f ∧ verifies Boot.shipped f = true)
    ∧ (bootB.bank bootB.activeB).filter (verifies bootB) = none
    ∧ (∃ f, bootB.bank (!bootB.activeB) = some f ∧ verifies bootB f = true)
    ∧ ∀ second, (({ Boot.shipped with bankA := none } : Boot).bank second).filter (verifies { Boot.shipped with bankA := none }) = none := by
  refine ⟨⟨_, rfl, ?_⟩, ?_, ⟨_, rfl, ?_⟩, fun second => by cases second <;> rfl⟩
  · rw [shipped_verifies rfl]; decide
  · show (some { goodFlacon with authentic := false }).filter (verifies bootB) = none
    simp [shipped_verifies (b := bootB) rfl, goodFlacon]
  · exact (shipped_verifies (b := bootB) rfl _).trans (by decide)

/-- Every stack and every port has ended but stack 23. -/
def almost : Module := { hbmEnded := List.range 23, optEnded := List.range 50 }

theorem witness_trainings :
    (startAt 3 almost).mod.hbmSides = [] ∧ (startAt 3 almost).mod.optSides = [] ∧ (startAt 3 almost).mod.failedStacks = []
    ∧ (∀ o ∈ [2, 3], ([{ stack := 23, outcome := o, repairs := [] }] : List StackResult).all
        (fun r => decide (r.stack < 24) && decide (2 ≤ r.outcome)) = true)
    ∧ (startAt 3 almost).mod.optDone = true ∧ (startAt 3 almost).mod.hbmEnded.contains 23 = false
    ∧ (∀ k < 24, (startAt 3 almost).mod.hbmEnded.contains k = true ∨ k = 23)
    ∧ (startAt 3 {}).mod.optDone = false ∧ (startAt 3 {}).mod.optEnded.contains 49 = false
    ∧ (startAt 3 { fastHbm := true, fastOpt := true }).mod.fastOpt = true
    ∧ ({ port := 49, rxMask := 255, txMask := 255, full := true } : PortResult).full = true
    ∧ (∀ w ∈ [0, 5], (startAt 4 { waves := w }).mod.waves = w ∧ (startAt 4 { waves := w }).mod.shortSet.contains 47 = false)
    ∧ (startAt 4 { waves := 5, shortSet := [47] }).mod.shortSet.contains 47 = true := by decide +kernel

/-- Two testers of tile (1, 0) disagree with it. -/
def tested : List (Pos × Pos) := [(tD, ⟨2, 0⟩), (tD, tC)]

/-- A Store tile and a router of the last row failed too. -/
theorem witness_neighbours :
    let m := (startAt 5 {}).map
    (tested.map (·.1) ++ tested.map (·.2) ++ [tS] ++ ([⟨511, 479⟩] : List Pos)).all Pos.ok = true
      ∧ liveCompute m tD = true ∧ (testersOf m tD).contains ⟨2, 0⟩ = true ∧ (testersOf m tD).contains tC = true ∧ tS.kind ≠ 0 := by
  decide +kernel

/-- A map with no dead tile takes any turn tables of at most 32 entries. -/
theorem witness_map_build : turnsOk (startAt 6 {}).map [] = true ∧ (startAt 6 {}).mod.order = 6 := by decide +kernel

/-- Tile (1, 0) lacks segment 3 after the broadcast and all three re-broadcasts, tile (0, 0) none after the first. -/
def reports (n : Nat) : List (List (Pos × List Nat)) := List.replicate n [(tC, []), (tD, [3])]

theorem witness_broadcast :
    (reports 4).flatten.all (fun x => x.1.ok) = true ∧ (reports 4).length = 4 ∧ (reports 3).length < 4
    ∧ tD ∈ reporting (startAt 7 {}) (reports 4) ∧ stillLacks tD (reports 4) ≠ [] ∧ tD ∈ reporting (startAt 7 {}) (reports 3)
    ∧ stillLacks tD (reports 3) ≠ [] ∧ (startAt 7 {}).mod.fromParked = false
    ∧ reporting (startAt 7 {}) [[(tC, [])]] = [tC] ∧ stillLacks tC [[(tC, [])]] = [] := by decide +kernel

theorem witness_programmed : Boot.shipped.thermoDue = none ∧ ∀ r ∈ [none, some req],
    ({ Boot.shipped with programming := some (5, 4, .defects [] [], r) } : Boot).programming = some (5, 4, .defects [] [], r) := by
  decide +kernel

/-! ## The mailbox -/

theorem witness_hello : boxOk .uart 99 = true ∧ (opened .active {}).carries .uart = true ∧ chooseVersion 3 0 2 = some (3, 0)
    ∧ chooseVersion 2 9 1 = some (2, 3) ∧ chooseVersion 9 9 4 = none := by decide +kernel

/-- The opcodes of the clauses are admitted with the module Idle and no job on the wafer. -/
theorem witness_opcodes : (∀ z ∈ [(0x02, false), (0x03, false), (0x10, true), (0x11, true), (0x20, true), (0x21, false), (0x21, true),
      (0x60, false), (0x61, true), (0x62, true), (0x70, true), (0x70, false), (0x80, true), (0x51, false)],
    admitted z.1 z.2 (fun d => decide (d.jobs.any Job.onWafer = false) && !moving d && decide (d.map.change = none)) (opened .idle {}) = true)
    ∧ (List.replicate 32 (0 : Byte)).length = 32 := by decide +kernel

/-- A whole object in one piece. -/
def piece (bs : List Byte) : Piece := { total := bs.length, offset := 0, more := false, bytes := bs }

/-- A staged flacon that verifies, and the same with settings of its own. -/
def stagedWith (c : Option OtpContent) : Boot := { Boot.shipped with staged := true, bankB := some { goodFlacon with settings := c } }

theorem witness_commit_bank : ∀ c ∈ [none, some (.settings false false false false 0 50300)],
    (stagedWith c).staged = true ∧ (stagedWith c).stagedBank = some { goodFlacon with settings := c } ∧ (stagedWith c).programming = none
      ∧ (stagedWith c).staging = none ∧ verifies (stagedWith c) { goodFlacon with settings := c } = true ∧ goodFlacon.limits = none
      ∧ (stagedWith c).blanks 3 = 1 :: [2, 3, 4] ∧ newItem (stagedWith c) 3 c = c := by
  intro c hc
  have hb : (stagedWith c).otp = Boot.shipped.otp := rfl
  have hv := shipped_verifies hb { goodFlacon with settings := c }
  refine ⟨rfl, rfl, rfl, rfl, hv.trans rfl, rfl, (shipped_blanks hb).2, ?_⟩
  simp only [List.mem_cons, List.not_mem_nil, or_false] at hc
  rcases hc with rfl | rfl
  · rfl
  · simp [newItem, shipped_slots hb]

theorem witness_commit_bad : ({ goodFlacon with wellFormed := false } : Flacon).major = 1
    ∧ ({ goodFlacon with wellFormed := false } : Flacon).wellFormed = false
    ∧ ({ Boot.shipped with staged := true, bankB := some { goodFlacon with wellFormed := false } } : Boot).stagedBank
        = some { goodFlacon with wellFormed := false } := by decide +kernel

/-- A TRAIN_LINKS of stack 0 and port 49 runs. -/
def retraining : Training := { req := req, stackMask := 1, portMask := 2 ^ 49, fast := false }

theorem witness_train : (piece []).total = 0 ∧ (2 ^ 24 - 1 : Nat) < 2 ^ 24 ∧ (2 ^ 50 - 1 : Nat) < 2 ^ 50
    ∧ (modOf { training := some retraining }).mod.training = some retraining ∧ retraining.req = req := by decide +kernel

/-- A refinement record of one entry for generation 0 of the map: 0x40 bytes, the entry, a signature. -/
def refineBytes (key : List Byte) : List Byte :=
  padTo 0x30 ([0x52, 0x46, 0x4E, 0x52] ++ le 1 0 ++ le 3 0 ++ key) ++ padTo 0x10 (le 4 1) ++ le 8 1 ++ List.replicate 64 0

def refine0 : List Byte := refineBytes (List.replicate 32 0)

/-- Were the device key 32 zero bytes, a record that names it and passes the signature check would pass the checks of a
refinement: the key and the check alone the model leaves open (log 24). -/
theorem witness_refine {b : Boot} (hb : b.otp = Boot.shipped.otp) (hk : devicePublic b = List.replicate 32 0)
    (hs : signatureGood b "LNW-REFINE" refine0 = true) : refineChecks b [] refine0 = .ok [⟨1, ⟨0, 0⟩, false, 0⟩] := by
  have h5 : b.newestGen 5 = 0 := by simp [Boot.newestGen, shipped_slots hb]
  have he : recordEntries refine0 = [⟨1, ⟨0, 0⟩, false, 0⟩] := by decide +kernel
  have hf : slice refine0 0 4 = [0x52, 0x46, 0x4E, 0x52] := by decide +kernel
  have h8 : slice refine0 8 32 = List.replicate 32 0 := by decide +kernel
  have hn : refine0.length = 0x40 + 8 * fieldLe refine0 0x30 4 + 64 := by decide +kernel
  have hg : fieldLe refine0 4 1 = 0 := by decide +kernel
  unfold refineChecks
  rw [he, hf, h8, hg, h5, hk, hs, ← hn]
  decide +kernel

theorem shipped_defects {b : Boot} (hb : b.otp = Boot.shipped.otp) : b.defects.2 = [] := by
  simp [Boot.defects, shipped_slots hb]

/-- A commit checks the record against the shipped generation, which has no entry; a live map of none is the same. -/
theorem witness_generation5 : Boot.shipped.defects.2 = [] ∧ Boot.shipped.blanks 5 = 1 :: [2, 3, 4]
    ∧ Boot.shipped.programming = none ∧ (opened .idle {}).map.live = [] :=
  ⟨shipped_defects rfl, (shipped_blanks rfl).1, rfl, by decide +kernel⟩

/-- A device-rank table of one rank for the image's job. -/
def rankHead (crc : Nat) : List Byte :=
  padTo 0x3C ([0x52, 0x4E, 0x4B, 0x54] ++ le 1 1 ++ le 3 0 ++ le 2 1 ++ le 2 0 ++ le 4 0 ++ le 4 1 ++ le 4 0 ++ le 2 0 ++ le 1 47 ++ le 1 0)
    ++ le 4 crc

def rankBytes : List Byte := rankHead (crc32c (rankHead 0))

theorem witness_ranks : (∀ st ∈ [JobSt.loaded, .paused, .running],
      (parseRanks (devLoaded { loadedJob with st := st }) { loadedJob with st := st } rankBytes).isSome = true)
    ∧ admitted 0x62 true (fun d => (d.jobNamed 1).isSome && !d.jobBusy loadedJob) (devLoaded loadedJob) = true := by decide +kernel

/-- HBM copies from the first line to the last backed byte of stack 23; a tile window of a tile of no job. -/
def tileAt (px py off : Nat) : Nat := 2 ^ 47 + 2 ^ 30 * py + 2 ^ 21 * px + off

theorem witness_copies :
    copyRangeOk 0 64 = true ∧ copyRangeOk (23 * 2 ^ 37 + 95999999936) 64 = true ∧ copyMeets 0 (23 * 2 ^ 37 + 95999999936) 64 = false
    ∧ copyHeld (devLoaded loadedJob) 0 = false ∧ poisonedIn (devLoaded loadedJob) 0 64 = false
    ∧ devAddr 0 = .hbm 0 0 ∧ devAddr (tileAt 511 479 0x100) = .tile 511 479 0x100 ∧ copyRangeOk (tileAt 511 479 0x100) 4000 = true
    ∧ copyHeld (devRunning (runningJob .idle)) (tileAt 511 479 0x100) = false ∧ ((devLoaded loadedJob).tile ⟨511, 479⟩).bad = []
    ∧ admitted 0x70 true (fun _ => true) (devLoaded loadedJob) = true := by decide +kernel

theorem witness_tether : (15 : Nat) < 16 ∧ (devLoaded loadedJob).carries .tether = true ∧ (devLoaded loadedJob).host.doorbells.get 0 15 = 0
    ∧ ({ doorbells := [(15, 2)] } : HostSide).doorbells.get 0 15 = 2 ∧ ({ evrEnable := true } : HostSide).evrEnable = true
    ∧ (∀ p < 2, (devLoaded loadedJob).tetherOpen p = true) ∧ (devLoaded loadedJob).host.taint.get 0 0xFFFFC = 0
    ∧ (0xFFFFC : Nat) < 0x100000 ∧ (0xFFFFC : Nat) % 4 = 0
    ∧ (0x2EFFC : Nat) < 0x30000 ∧ (0x2EFFC : Nat) % 0x2000 < 0x1000 ∧ (0x2EFFC : Nat) % 4 = 0 ∧ (0x10000 : Nat) % 0x2000 < 0x1000 := by
  decide +kernel

/-! ## Links -/

def linkUp (st : LinkSt) : Link := { st := st, rxMask := 0xFF, txMask := 0xFF, major := 2, minor := 0 }

def sLinkUp (port : Nat) (l : Link) : State := stateOf { devLoaded loadedJob with brim := { links := [(port, l)] } }

/-- A block header with its CRC-8, and one without. -/
def hdrBody : List Byte := le 2 1 ++ le 8 0 ++ le 1 0xFF ++ le 4 0
def hdr : List Byte := hdrBody ++ le 1 (crc8 hdrBody)

/-- Markers on five of the eight lanes, and on four. -/
def marks (n : Nat) : List Marker := (List.range n).map (fun i => { lane := i, bseq := 1, mask := 0xFF, good := true })

theorem witness_blocks : hdr.length = 16 ∧ blockGood (linkUp .up) hdr (marks 5) = true ∧ blockGood (linkUp .up) hdr (marks 4) = false
    ∧ ([1, 2, 3, 65535] : List Nat).length = 4 := by decide +kernel

def capOf (major lo : Nat) : Cap := { kind := 0, major := major, minor := 0, minMajor := lo, port := 0, txMask := 0xFF, rxMask := 0xFF
                                      serial := 0, credits := [] }

theorem witness_caps : (agree 47 (capOf 2 1)).isSome = true ∧ agree 47 (capOf 9 9) = none ∧ (linkUp .aligned).logged0802 = none
    ∧ ((sLinkUp 47 (linkUp .aligned)).dev.link 47).st = .aligned ∧ ((sLinkUp 47 (linkUp .failed)).dev.link 47).st = .failed := by
  decide +kernel

theorem witness_lanes : ((sLinkUp 49 (linkUp .up)).dev.link 49).rxMask.testBit 7 = true ∧ (linkUp .up).laneApplied ≠ 1
    ∧ ({ linkUp .up with laneDue := true } : Link).laneDue = true ∧ fallCause 49 (linkUp .up) 1 = true
    ∧ (linkUp .down).lastRetrain = none ∧ ((sLinkUp 49 (linkUp .training)).dev.mod.training).isNone = true := by decide +kernel

/-- A rank table of fabric job 3: rank 0 is here, ranks 1 to 9 leave by port 2. -/
def ranks3 : RankTable := { fjob := 3, own := 0, ndev := 10, ranges := [(1, 9, 2, 1)], rows := [], egressDefault := 0 }
def fabricJob : Job := { runningJob .idle with ranks := some ranks3, oldRanks := some ranks3 }
def sFabric : State := stateOf { devRunning fabricJob with brim := { links := [(0, linkUp .up), (48, linkUp .up)] } }

theorem witness_frames :
    (jobOfFjob sFabric.dev 4).isNone = true ∧ (jobOfFjob sFabric.dev 3).map (·.id) = some 1 ∧ sFabric.dev.rankTable fabricJob false = some ranks3
      ∧ fabricJob.origin.isSome = true ∧ ranks3.find 5 = .port 2 ∧ (2 : Nat) < 48 ∧ (sFabric.dev.link 48).st = .up ∧ putK.dst = .phys tC := by
  decide +kernel

/-! ## The window, supplies, the test port -/

theorem witness_memreq : windowOpen (sLinkUp 49 (linkUp .up)).dev = true ∧ bit (2 ^ 47 - 1) 47 = false ∧ bit 0 47 = false
    ∧ poisonedIn (sLinkUp 49 (linkUp .up)).dev 0 256 = false ∧ ((sLinkUp 49 (linkUp .up)).dev.link 49).st = .up
    ∧ windowOpen (modOf { st := .parked }) = false := by decide +kernel

theorem witness_tap : tapOn (modOf { st := .parked, inForce := { jtagMode := 2 } }) = true ∧ tapOn (modOf {}) = false
    ∧ tapOn (modOf { st := .active, inForce := { jtagMode := 1 } }) = true := by decide +kernel

end Sys2Proof.Tests
end

section
/-! PROOFS. Every step keeps every memory of the block in its canonical form (O6). A memory changes through writes of
`Mem` alone, and a tile, a saved tile or a boundary record comes from another one or from a fresh one; one lemma per
function of the model says that it keeps the memories of what it is given, in the order of the model. -/

namespace Sys2Proof.Proofs.Memories

open Sys2Proof Sys2Proof.Machine

/-! ## What canonical means, part by part -/

/-- A canonical memory. -/
def MemWf (m : Mem) : Prop := m.wf = true

/-- Both memories of a tile are canonical. -/
def TileWf (t : Tile) : Prop := MemWf t.mem ∧ MemWf t.prog

def TilesWf (l : Tab Tile) : Prop := ∀ x ∈ l, TileWf x.2

def PlacedWf {α : Type} (l : List (α × Tile)) : Prop := ∀ x ∈ l, TileWf x.2

def SnapWf (b : Snap) : Prop := TileWf b.tile

def BoundsWf (l : List Snap) : Prop := ∀ b ∈ l, SnapWf b

/-- What an optional value holds. -/
def OptWf {α : Type} (P : α → Prop) : Option α → Prop
  | some a => P a
  | none => True

def SavedWf (s : Saved) : Prop := PlacedWf s.tiles

def JobWf (j : Job) : Prop := BoundsWf j.bounds ∧ OptWf SavedWf j.saved

def JobsWf (l : List Job) : Prop := ∀ j ∈ l, JobWf j

def BrimWf (b : Brim) : Prop := MemWf b.hbm

/-- Every memory of the block is canonical, as a proposition with named parts. -/
def DevWf (d : Dev) : Prop := TilesWf d.wafer.tiles ∧ BrimWf d.brim ∧ MemWf d.host.areas ∧ JobsWf d.jobs

/-- What an instruction comes to. -/
def ResWf : Res → Prop
  | .done d | .jump d _ | .stay d | .wait _ d => DevWf d
  | .fault _ _ => True

def FeedWf : Feed → Prop
  | .wait _ d | .got _ d => DevWf d
  | .fault _ => True

def AskWf : DrainAsk → Prop
  | .done t => TileWf t
  | .fault _ => True

def ExceptWf : Except Dev Dev → Prop
  | .ok d | .error d => DevWf d

def OutWf (o : Out_) : Prop := ∀ t, o = .next t → DevWf t.dev

theorem memWf_iff {d : Dev} : d.memWf = true ↔ DevWf d := by
  have ht : ∀ t : Tile, t.memWf = true ↔ TileWf t := fun t => by simp [Tile.memWf, TileWf, MemWf]
  simp only [Dev.memWf, Bool.and_eq_true, List.all_eq_true, ht, and_assoc]
  refine and_congr Iff.rfl (and_congr Iff.rfl (and_congr Iff.rfl (forall₂_congr fun j _ => and_congr Iff.rfl ?_)))
  cases j.saved <;> simp [OptWf, SavedWf, PlacedWf, ht]

section
variable {d : Dev} {t : Tile} {j : Job}

/-! ## Parts, branches and cases -/

theorem TileWf.mem (h : TileWf t) : MemWf t.mem := h.1

theorem TileWf.prog (h : TileWf t) : MemWf t.prog := h.2

theorem DevWf.tiles (h : DevWf d) : TilesWf d.wafer.tiles := h.1

theorem DevWf.brim (h : DevWf d) : BrimWf d.brim := h.2.1

theorem DevWf.areas (h : DevWf d) : MemWf d.host.areas := h.2.2.1

theorem DevWf.jobs (h : DevWf d) : JobsWf d.jobs := h.2.2.2

theorem JobWf.bounds (h : JobWf j) : BoundsWf j.bounds := h.1

theorem JobWf.saved (h : JobWf j) : OptWf SavedWf j.saved := h.2

theorem DevWf.ite {c : Prop} [Decidable c] {a b : Dev} (ha : DevWf a) (hb : DevWf b) : DevWf (if c then a else b) := by
  split <;> assumption

theorem TileWf.ite {c : Prop} [Decidable c] {a b : Tile} (ha : TileWf a) (hb : TileWf b) :
    TileWf (if c then a else b) := by
  split <;> assumption

theorem JobWf.ite {c : Prop} [Decidable c] {a b : Job} (ha : JobWf a) (hb : JobWf b) : JobWf (if c then a else b) := by
  split <;> assumption

theorem ResWf.ite {c : Prop} [Decidable c] {a b : Res} (ha : ResWf a) (hb : ResWf b) : ResWf (if c then a else b) := by
  split <;> assumption

theorem OptWf.some {α : Type} {P : α → Prop} {o : Option α} {a : α} (h : OptWf P o) (e : o = some a) : P a := by
  subst e; exact h

theorem wf_snd {α β : Type} {P : β → Prop} {x : α × β} {a : α} {b : β} (h : P x.2) (e : x = (a, b)) : P b := by
  subst e; exact h

theorem wf_fst {α β : Type} {P : α → Prop} {x : α × β} {a : α} {b : β} (h : P x.1) (e : x = (a, b)) : P a := by
  subst e; exact h

theorem FeedWf.got {f : Feed} {l} (h : FeedWf f) (e : f = .got l d) : DevWf d := by subst e; exact h

theorem FeedWf.wait {f : Feed} {b} (h : FeedWf f) (e : f = .wait b d) : DevWf d := by subst e; exact h

theorem AskWf.done {f : DrainAsk} (h : AskWf f) (e : f = .done t) : TileWf t := by subst e; exact h

theorem ExceptWf.ok {f : Except Dev Dev} (h : ExceptWf f) (e : f = .ok d) : DevWf d := by subst e; exact h

theorem ExceptWf.error {f : Except Dev Dev} (h : ExceptWf f) (e : f = .error d) : DevWf d := by subst e; exact h

/-! ## Memories, tables and lists -/

theorem write_wf {m : Mem} {a b} (h : MemWf m) : MemWf (m.write a b) := Mem.wf_write a b h

theorem writeN_wf {m : Mem} {a bs} (h : MemWf m) : MemWf (m.writeN a bs) := Mem.wf_writeN a bs h

theorem filter_wf {m : Mem} {f} (h : MemWf m) : MemWf (List.filter f m) := Mem.wf_filter f h

theorem clear_wf {m : Mem} {a n} (h : MemWf m) : MemWf (m.clear a n) := Mem.wf_clear a n h

theorem set_wf {l : Tab Tile} {k : Nat} (h : TilesWf l) (ht : TileWf t) : TilesWf (Tab.set l k t) := by
  intro x hx
  rcases Tab.mem_set hx with rfl | hx
  · exact ht
  · exact h x hx

theorem tile_wf {p} (h : DevWf d) : TileWf (d.tile p) := by
  rcases Tab.get_mem ({} : Tile) d.wafer.tiles p.ix with e | e
  · rw [Dev.tile, e]; exact ⟨rfl, rfl⟩
  · exact h.tiles _ e

theorem setTile_wf {p} (h : DevWf d) (ht : TileWf t) : DevWf (d.setTile p t) :=
  ⟨set_wf h.tiles ht, h.brim, h.areas, h.jobs⟩

theorem onTile_wf {p} {f : Tile → Tile} (h : DevWf d) (hf : TileWf (f (d.tile p))) : DevWf (d.onTile p f) :=
  setTile_wf h hf

theorem setHost_wf {k : HostSide} (h : DevWf d) (e : k.areas = d.host.areas) : DevWf { d with host := k } :=
  ⟨h.tiles, h.brim, e ▸ h.areas, h.jobs⟩

theorem each_wf {α : Type} {l : List α} {f : α → Dev → Dev} (h : DevWf d)
    (hf : ∀ a d, DevWf d → DevWf (f a d)) : DevWf (d.each l f) :=
  List.foldlRecOn l _ h fun d hd a _ => hf a d hd

theorem jobsMap_wf {l : List Job} {f : Job → Job} (h : JobsWf l) (hf : ∀ j, JobWf j → JobWf (f j)) :
    JobsWf (l.map f) := by
  intro j hj
  obtain ⟨i, hi, rfl⟩ := List.mem_map.1 hj
  exact hf i (h i hi)

theorem jobsFilter_wf {l : List Job} {f : Job → Bool} (h : JobsWf l) : JobsWf (l.filter f) :=
  fun j hj => h j (List.mem_filter.1 hj).1

theorem jobsSnoc_wf {l : List Job} {j : Job} (h : JobsWf l) (hj : JobWf j) : JobsWf (l ++ [j]) := by
  intro i hi
  rcases List.mem_append.1 hi with hi | hi
  · exact h i hi
  · rw [List.mem_singleton.1 hi]; exact hj

theorem tilesMap_wf {l : Tab Tile} {f : Nat × Tile → Nat × Tile} (h : TilesWf l)
    (hf : ∀ x, TileWf x.2 → TileWf (f x).2) : TilesWf (List.map f l) := by
  intro j hj
  obtain ⟨i, hi, rfl⟩ := List.mem_map.1 hj
  exact hf i (h i hi)

theorem tilesFilter_wf {l : Tab Tile} {f} (h : TilesWf l) : TilesWf (List.filter f l) :=
  fun j hj => h j (List.mem_filter.1 hj).1

theorem onJob_wf {k : Nat} {f : Job → Job} (h : DevWf d) (hf : ∀ j, JobWf j → JobWf (f j)) : DevWf (d.onJob k f) :=
  ⟨h.tiles, h.brim, h.areas, jobsMap_wf h.jobs fun j hj => JobWf.ite (hf j hj) hj⟩

theorem job?_wf {k} (h : DevWf d) : OptWf JobWf (d.job? k) := by
  cases e : d.job? k with
  | none => trivial
  | some j => exact h.jobs j (List.mem_of_find?_eq_some e)

theorem hbmWrite_wf {b : Brim} {a bs} (h : BrimWf b) : BrimWf (b.hbmWrite a bs) := by
  refine List.foldlRecOn _ _ h fun m hm x _ => ?_
  obtain ⟨_ | k, v⟩ := x
  · exact hm
  · exact write_wf hm

/-! ## Commands -/

theorem lift_wf {f : Dev → Dev} {s : State} (h : DevWf s.dev) (hf : ∀ d, DevWf d → DevWf (f d)) :
    OutWf (lift f s) := by
  rintro t ⟨⟩; exact hf _ h

theorem liftAt_wf {b : Bool} {f : Dev → Dev} {s : State} (h : DevWf s.dev) (hf : ∀ d, DevWf d → DevWf (f d)) :
    OutWf (liftAt b f s) := by
  intro t ht; rw [(liftAt_keeps ht).2.2]; exact hf _ h

theorem liftBoot_wf {f : Boot → Dev → Boot × Dev} {s : State} (h : DevWf s.dev)
    (hf : ∀ b d, DevWf d → DevWf (f b d).2) : OutWf (liftBoot f s) := by
  intro t ht; rw [(liftBoot_keeps ht).2.2]; exact hf _ _ h

theorem outFault_wf {r} : OutWf (.fault r) := fun _ h => by cases h

theorem outRefused_wf {r} : OutWf (.refused r) := fun _ h => by cases h

theorem outNext_wf {s : State} (h : DevWf s.dev) : OutWf (.next s) := by
  rintro t ⟨⟩; exact h

theorem OutWf.ite {c : Prop} [Decidable c] {a b : Out_} (ha : OutWf a) (hb : OutWf b) : OutWf (if c then a else b) := by
  split <;> assumption

/-! ## Pairs, empty and longer lists -/

theorem iteSnd_wf {α : Type} {c : Prop} [Decidable c] {x y : α × Dev} (hx : DevWf x.2) (hy : DevWf y.2) :
    DevWf (if c then x else y).2 := by
  split <;> assumption

theorem iteFst_wf {α : Type} {c : Prop} [Decidable c] {x y : Dev × α} (hx : DevWf x.1) (hy : DevWf y.1) :
    DevWf (if c then x else y).1 := by
  split <;> assumption

theorem iteJob_wf {α : Type} {c : Prop} [Decidable c] {x y : Job × α} (hx : JobWf x.1) (hy : JobWf y.1) :
    JobWf (if c then x else y).1 := by
  split <;> assumption

theorem memNil_wf : MemWf [] := rfl

theorem tilesNil_wf : TilesWf [] := fun _ h => by cases h

theorem jobsNil_wf : JobsWf [] := fun _ h => by cases h

theorem boundsNil_wf : BoundsWf [] := fun _ h => by cases h

theorem boundsFilter_wf {l : List Snap} {f} (h : BoundsWf l) : BoundsWf (l.filter f) :=
  fun b hb => h b (List.mem_filter.1 hb).1

theorem boundsSnoc_wf {l : List Snap} {s : Snap} (h : BoundsWf l) (hs : SnapWf s) : BoundsWf (l ++ [s]) := by
  intro b hb
  rcases List.mem_append.1 hb with hb | hb
  · exact h b hb
  · rw [List.mem_singleton.1 hb]; exact hs

theorem find_wf {α : Type} {P : α → Prop} {l : List α} {f : α → Bool} (h : ∀ a ∈ l, P a) :
    OptWf P (l.find? f) := by
  cases e : l.find? f with
  | none => trivial
  | some a => exact h a (List.mem_of_find?_eq_some e)

theorem placedNil_wf {α : Type} : PlacedWf ([] : List (α × Tile)) := fun _ h => by cases h

theorem OptWf.getD {α : Type} {P : α → Prop} {o : Option α} {a : α} (h : OptWf P o) (ha : P a) : P (o.getD a) := by
  cases o with
  | none => exact ha
  | some b => exact h

theorem setTiles_wf {l : List (Pos × Tile)} (h : DevWf d) (hl : PlacedWf l) :
    DevWf (d.each l fun x d => d.setTile x.1 x.2) :=
  List.foldlRecOn l _ h fun _ hd x hx => setTile_wf hd (hl x hx)
end

/-! ## The functions of the model, in its order -/

/-! ### The shared operations: log, responses, the stop of a job, faults, tile memory, packets, channels -/

theorem setSlot_wf {t n s} (ht : TileWf t) : TileWf (Tile.setSlot t n s) :=
  ht

theorem onSlot_wf {n f t} (ht : TileWf t) : TileWf (Tile.onSlot n f t) :=
  setSlot_wf ht

theorem free_wf {d} (h : DevWf d) : DevWf (Dev.free d).2 :=
  h

theorem emit_wf {e d} (h : DevWf d) : DevWf (Dev.emit e d) :=
  h

theorem ringPut_wf {r d} (h : DevWf d) : DevWf (ringPut r d) :=
  DevWf.ite h (DevWf.ite h (emit_wf h))

theorem pushOut_wf {r d} (h : DevWf d) : DevWf (pushOut r d) :=
  each_wf h fun _ _ h1 => emit_wf h1

theorem appendLog_wf {code origin stopped job loc detail count d} (h : DevWf d) :
    DevWf (appendLog code origin stopped job loc detail count d) :=
  pushOut_wf (ringPut_wf (setHost_wf h rfl))

theorem onSession_wf {tr id f d} (h : DevWf d) : DevWf (Dev.onSession tr id f d) :=
  h

theorem respond_wf {r opcode flags status refusal logSeq payload d} (h : DevWf d) :
    DevWf (respond r opcode flags status refusal logSeq payload d) := by
  unfold respond
  simp only [Dev.emit_host, Dev.stamp_host]
  split
  · refine ⟨h.tiles, h.brim, ?_, h.jobs⟩
    dsimp only
    exact writeN_wf h.areas
  · exact h

theorem cmdRecord_wf {origin opcode status refusal job d} (h : DevWf d) :
    DevWf (cmdRecord origin opcode status refusal job d) :=
  DevWf.ite h (appendLog_wf h)

theorem finishCmd_wf {r opcode status refusal payload d} (h : DevWf d) :
    DevWf (finishCmd r opcode status refusal payload d) :=
  respond_wf (cmdRecord_wf h)

theorem answerCmd_wf {r opcode status payload d} (h : DevWf d) : DevWf (answerCmd r opcode status payload d) :=
  respond_wf h

theorem answerChange_wf {slot d} (h : DevWf d) : DevWf (answerChange slot d) := by
  unfold answerChange
  split
  · exact h
  · split
    · exact DevWf.ite (finishCmd_wf h) h
    · exact h

theorem reRank_wf {j t} (ht : TileWf t) : TileWf (Tile.reRank j t) :=
  ht

theorem stopped_wf {j code c step t isFault} (hj : JobWf j) : JobWf (Job.stopped j code c step t isFault) :=
  hj

theorem stopJob_wf {k code c step isFault d} (h : DevWf d) : DevWf (stopJob k code c step isFault d) := by
  unfold stopJob
  split
  · exact h
  · dsimp only
    split
    · exact DevWf.ite (finishCmd_wf (onJob_wf h (fun _ h1 => stopped_wf h1))) (onJob_wf h (fun _ h2 => stopped_wf h2))
    · exact onJob_wf h fun _ h3 => stopped_wf h3

theorem recordFault_wf {t code a} (ht : TileWf t) : TileWf (Tile.recordFault t code a) :=
  TileWf.ite ht ⟨ht.mem, ht.prog⟩

theorem faultTile_wf {p code detail a d} (h : DevWf d) : DevWf (faultTile p code detail a d) := by
  unfold faultTile
  dsimp only
  split
  · exact h
  · exact DevWf.ite (stopJob_wf (appendLog_wf (onTile_wf h (recordFault_wf (tile_wf h))))) (appendLog_wf h)

theorem eventTile_wf {p code detail d} (h : DevWf d) : DevWf (eventTile p code detail d) :=
  appendLog_wf h

theorem eventOnce_wf {p code detail d} (h : DevWf d) : DevWf (eventOnce p code detail d) :=
  DevWf.ite h (eventTile_wf (onTile_wf h (tile_wf h)))

theorem count_wf {i n t} (ht : TileWf t) : TileWf (Tile.count i n t) :=
  ht

theorem netCount_wf {i t} (ht : TileWf t) : TileWf (Tile.netCount i t) :=
  ht

theorem scrub_wf {ws t} (ht : TileWf t) : TileWf (Tile.scrub ws t) :=
  TileWf.ite ht ht

theorem load_wf {t a n} (ht : TileWf t) : OptWf (fun x => TileWf x.2) (Tile.load t a n) := by
  unfold Tile.load
  split
  · exact trivial
  · exact scrub_wf ht

theorem noteMask_wf {t a n} (ht : TileWf t) : TileWf (Tile.noteMask t a n) := by
  unfold Tile.noteMask
  split <;> exact ht

theorem overwrite_wf {t a bs} (ht : TileWf t) : TileWf (Tile.overwrite t a bs) :=
  ⟨writeN_wf ht.mem, (noteMask_wf ht).prog⟩

theorem store_wf {t a bs} (ht : TileWf t) : OptWf TileWf (Tile.store t a bs) := by
  unfold Tile.store
  dsimp only
  split
  · exact trivial
  · exact ⟨writeN_wf ((noteMask_wf (scrub_wf ht)).mem), (noteMask_wf (scrub_wf ht)).prog⟩

theorem wakeCause_wf {cause t} (ht : TileWf t) : TileWf (wakeCause cause t) :=
  ht

theorem wakeCause9_wf {t} (ht : TileWf t) : TileWf (wakeCause9 t) :=
  wakeCause_wf ht

theorem inject_wf {pl k d} (h : DevWf d) : DevWf (Dev.inject pl k d) :=
  h

theorem send_wf {p k d} (h : DevWf d) : DevWf (Dev.send p k d) :=
  inject_wf h

theorem portSend_wf {id k d} (h : DevWf d) : DevWf (Dev.portSend id k d) := by
  unfold Dev.portSend
  split
  · split
    · exact inject_wf h
    · split
      · exact inject_wf h
      · exact h
  · split
    · exact inject_wf h
    · exact h
  · split
    · split
      · exact inject_wf h
      · exact h
    · exact h
  · exact h

theorem launch_wf {p o d} (h : DevWf d) : DevWf (launch p o d) :=
  send_wf (onTile_wf h (tile_wf h))

theorem sendNumbered_wf {p k lcc units loc target op d} (h : DevWf d) :
    DevWf (sendNumbered p k lcc units loc target op d) :=
  DevWf.ite (launch_wf h) (onTile_wf h (tile_wf h))

theorem drainUnsent_wf {p d} (h : DevWf d) : DevWf (drainUnsent p d) :=
  onTile_wf (List.foldlRecOn _ _ h fun _ h1 _ _ => DevWf.ite (launch_wf (onTile_wf h1 (tile_wf h1))) h1)
      (wakeCause9_wf (tile_wf (List.foldlRecOn _ _ h fun _ h2 _ _ => DevWf.ite (launch_wf (onTile_wf h2 (tile_wf
      h2))) h2)))

theorem mapAddrs_wf {src dst t} (ht : TileWf t) : TileWf (Tile.mapAddrs src dst t) :=
  ht

theorem unplaced_wf {j m t} (ht : TileWf t) : TileWf (Tile.unplaced j m t) :=
  mapAddrs_wf ht

theorem setSq_wf {t q s} (ht : TileWf t) : TileWf (Tile.setSq t q s) :=
  ht

theorem sqAppend_wf {p q v t} (ht : TileWf t) : TileWf (sqAppend p q v t) := by
  unfold sqAppend
  dsimp only
  split
  · exact setSq_wf ht
  · exact onSlot_wf (setSq_wf ht)

theorem signalAppend_wf {p q v d} (h : DevWf d) : DevWf (signalAppend p q v d) :=
  DevWf.ite (faultTile_wf h) (onTile_wf h (sqAppend_wf (tile_wf h)))

theorem releaseSig_wf {p hd d} (h : DevWf d) : DevWf (releaseSig p hd d) :=
  DevWf.ite (signalAppend_wf h) (sendNumbered_wf (signalAppend_wf h))

theorem releaseSignals_wf {p d} (h : DevWf d) : DevWf (releaseSignals p d) :=
  each_wf (onTile_wf h (tile_wf h)) fun _ _ h1 => releaseSig_wf h1

theorem setCc_wf {p n v d} (h : DevWf d) : DevWf (setCc p n v d) :=
  releaseSignals_wf (onTile_wf h (tile_wf h))

theorem addCc_wf {p n u d} (h : DevWf d) : DevWf (addCc p n u d) :=
  setCc_wf h

theorem setChan_wf {t n c} (ht : TileWf t) : TileWf (Tile.setChan t n c) :=
  ht

theorem setPort_wf {t n c} (ht : TileWf t) : TileWf (Tile.setPort t n c) :=
  ht

theorem portGain_wf {n k t} (ht : TileWf t) : TileWf (portGain n k t) :=
  wakeCause_wf (setPort_wf ht)

theorem returnCredit_wf {p n k d} (h : DevWf d) : DevWf (returnCredit p n k d) := by
  unfold returnCredit
  dsimp only
  split
  · split
    · exact h
    · split
      · exact onTile_wf h (portGain_wf (tile_wf h))
      · split
        · exact onTile_wf h (portGain_wf (tile_wf h))
        · exact h
      · split
        · exact send_wf (onTile_wf h (setChan_wf (tile_wf h)))
        · exact h
      · split
        · exact send_wf (onTile_wf h (setChan_wf (tile_wf h)))
        · exact h
  · exact h

theorem putToken_wf {p n k d} (h : DevWf d) : DevWf (putToken p n k d) := by
  unfold putToken
  dsimp only
  split
  · split
    · exact h
    · split
      · exact onTile_wf h (setChan_wf (tile_wf h))
      · exact onTile_wf h (setPort_wf (tile_wf h))
      · split
        · exact h
        · exact send_wf (onTile_wf h (tile_wf h))
  · exact h

/-! ### The tile control window (R186) -/

theorem setAcc_wf {t n a} (ht : TileWf t) : TileWf (Tile.setAcc t n a) :=
  ht

theorem ctlLoad_wf {d p off} (h : DevWf d) : DevWf (ctlLoad d p off).2 := by
  unfold ctlLoad
  dsimp only
  split <;> exact h

theorem ctlStore_wf {p off v t} (ht : TileWf t) : TileWf (ctlStore p off v t) := by
  unfold ctlStore
  dsimp only
  split <;> exact TileWf.ite ht ht

/-! ### The running of an instruction (R188-R192) -/

theorem insnFault_wf {p ts w code detail d} (h : DevWf d) : DevWf (insnFault p ts w code detail d) :=
  faultTile_wf h

theorem apply_wf {p ts w d0 x} (h : DevWf d0) (hr : ResWf x) : DevWf (Res.apply p ts w d0 x) := by
  unfold Res.apply
  split
  · exact onTile_wf hr (onSlot_wf (tile_wf hr))
  · exact onTile_wf hr (onSlot_wf (tile_wf hr))
  · exact hr
  · exact onTile_wf hr (onSlot_wf (tile_wf hr))
  · exact insnFault_wf h

theorem runThread_wf {p ts w f d} (hf : ∀ x0, DevWf x0 → ResWf (f x0)) (h : DevWf d) : DevWf (runThread p ts w f d) :=
  DevWf.ite h (DevWf.ite (insnFault_wf h) (DevWf.ite (onTile_wf h (onSlot_wf (tile_wf h))) (apply_wf h (hf _ h))))

theorem regOp_wf {p ts rd f d} (h : DevWf d) : ResWf (regOp p ts rd f d) :=
  onTile_wf h (onSlot_wf (tile_wf h))

theorem branchOp_wf {p ts imm c d} (h : DevWf d) : ResWf (branchOp p ts imm c d) :=
  ResWf.ite h h

/-! ### A thread's accesses to memory (R76, R175, R334) -/

theorem withRead_wf {p ts a n d k} (h : DevWf d) (hf : ∀ x0 x1, DevWf x1 → ResWf (k x0 x1)) :
    ResWf (withRead p ts a n d k) := by
  unfold withRead
  dsimp only
  split
  · exact hf _ _ h
  · split
    · exact trivial
    · split
      · exact h
      · split
        · exact trivial
        · rename_i t' e
          have h1 : TileWf t' := (load_wf (tile_wf h)).some e
          exact hf _ _ (setTile_wf h h1)

theorem takeLines_wf {own a n t} (ht : TileWf t) : TileWf (takeLines own a n t) := by
  unfold takeLines
  split <;> exact ht

theorem writeStop_wf {p ts a n d} (h : DevWf d) : OptWf ResWf (writeStop p ts a n d) := by
  unfold writeStop
  dsimp only
  split
  · exact trivial
  · split
    · exact trivial
    · split
      · exact trivial
      · split
        · exact ResWf.ite trivial h
        · split
          · exact h
          · exact trivial

theorem withWrite_wf {p ts a bs d k} (h : DevWf d) (hf : ∀ x0, DevWf x0 → ResWf (k x0)) :
    ResWf (withWrite p ts a bs d k) := by
  unfold withWrite
  split
  · exact hf _ h
  · split
    · rename_i r e
      have h1 : ResWf r := (writeStop_wf h).some e
      exact h1
    · split
      · exact trivial
      · rename_i t' e1
        have h2 : TileWf t' := (store_wf (tile_wf h)).some e1
        exact hf _ (setTile_wf h (takeLines_wf h2))

theorem withUpdate_wf {p ts a n d k} (h : DevWf d) (hf : ∀ x0 x1, DevWf x1 → ResWf (k x0 x1)) :
    ResWf (withUpdate p ts a n d k) := by
  unfold withUpdate
  split
  · rename_i r e
    have h1 : ResWf r := (writeStop_wf h).some e
    exact h1
  · exact withRead_wf h fun _ _ h2 => hf _ _ h2

/-! ### Operand reads, sends and PREDICT (R200-R202) -/

theorem execOprd_wf {t ts rd rs1 qid x} (h : DevWf x.dev) : OutWf (execOprd t ts rd rs1 qid x) := by
  unfold execOprd
  refine liftAt_wf h fun _ h1 => runThread_wf (fun _ h2 => ?_) h1
  dsimp only
  split
  · exact trivial
  · exact onTile_wf h2 (onSlot_wf (tile_wf h2))

theorem execOpcp_wf {t ts rd rs1 qid x} (h : DevWf x.dev) : OutWf (execOpcp t ts rd rs1 qid x) := by
  unfold execOpcp
  refine liftAt_wf h fun _ h1 => runThread_wf (fun _ h2 => ?_) h1
  dsimp only
  split
  · exact trivial
  · exact ResWf.ite trivial (withWrite_wf h2 (fun _ h3 => onTile_wf h3 (onSlot_wf (tile_wf h3))))

theorem sendToken_wf {p ts n tag ref data d} (h : DevWf d) : ResWf (sendToken p ts n tag ref data d) :=
  ResWf.ite trivial (ResWf.ite trivial (ResWf.ite h (ResWf.ite (onTile_wf h (setPort_wf (tile_wf h))) (ResWf.ite
      (onTile_wf h (setPort_wf (tile_wf h))) (putToken_wf (onTile_wf h (setPort_wf (tile_wf h))))))))

theorem execSend_wf {t ts rs1 rs2 qid x} (h : DevWf x.dev) : OutWf (execSend t ts rs1 rs2 qid x) :=
  liftAt_wf h fun _ h1 => runThread_wf (fun _ h2 => ResWf.ite trivial (withRead_wf h2 (fun _ _ h3 => ResWf.ite
      trivial (sendToken_wf h3)))) h1

theorem execSendr_wf {t ts rs1 rs2 qf qid x} (h : DevWf x.dev) : OutWf (execSendr t ts rs1 rs2 qf qid x) := by
  unfold execSendr
  refine liftAt_wf h fun _ h1 => runThread_wf (fun _ h2 => ?_) h1
  dsimp only
  split
  · exact sendToken_wf h2
  · exact sendToken_wf h2
  · exact sendToken_wf h2
  · exact trivial

theorem execPredict_wf {t ts qf qid x} (h : DevWf x.dev) : OutWf (execPredict t ts qf qid x) := by
  unfold execPredict
  refine liftAt_wf h fun _ h1 => runThread_wf (fun _ h2 => ?_) h1
  dsimp only
  split
  · exact trivial
  · exact ResWf.ite trivial (onTile_wf h2 (tile_wf h2))

/-! ### Task instances (R157-R162, R215, R216) -/

theorem endTag_wf {task tag t} (ht : TileWf t) : TileWf (endTag task tag t) :=
  ht

theorem freeSlot_wf {ts t} (ht : TileWf t) : TileWf (freeSlot ts t) :=
  ht

theorem endThread_wf {ts t} (ht : TileWf t) : TileWf (endThread ts t) :=
  endTag_wf (freeSlot_wf ht)

theorem fireSlot_wf {ts k tag spec ops t} (ht : TileWf t) : TileWf (fireSlot ts k tag spec ops t) :=
  ht

theorem execTend_wf {t ts x} (h : DevWf x.dev) : OutWf (execTend t ts x) :=
  liftAt_wf h fun _ h1 => runThread_wf (fun _ h2 => onTile_wf h2 (TileWf.ite (onSlot_wf (tile_wf h2)) (endThread_wf
      (tile_wf h2)))) h1

theorem execTretire_wf {t ts rs1 imm x} (h : DevWf x.dev) : OutWf (execTretire t ts rs1 imm x) := by
  unfold execTretire
  refine liftAt_wf h fun _ h1 => runThread_wf (fun _ h2 => ?_) h1
  dsimp only
  split
  · exact trivial
  · exact ResWf.ite trivial (ResWf.ite trivial (ResWf.ite h2 (onTile_wf h2 (endTag_wf (tile_wf h2)))))

theorem raiseRecord_wf {p ts v stopped d} (h : DevWf d) : DevWf (raiseRecord p ts v stopped d) := by
  unfold raiseRecord
  dsimp only
  split
  · exact h
  · exact appendLog_wf h

theorem raiseFault_wf {p ts w v d} (h : DevWf d) : DevWf (raiseFault p ts w v d) := by
  unfold raiseFault
  dsimp only
  split
  · exact h
  · exact stopJob_wf (raiseRecord_wf (onTile_wf h (recordFault_wf (tile_wf h))))

theorem execRaise_wf {t ts rs1 imm x} (h : DevWf x.dev) : OutWf (execRaise t ts rs1 imm x) :=
  liftAt_wf h fun _ h1 => runThread_wf (fun _ h2 => ResWf.ite (raiseFault_wf h2) (raiseRecord_wf h2)) h1

theorem execGets_wf {t ts rd imm x} (h : DevWf x.dev) : OutWf (execGets t ts rd imm x) := by
  unfold execGets
  refine liftAt_wf h fun _ h1 => runThread_wf (fun _ h2 => ?_) h1
  split
  · exact trivial
  · exact regOp_wf h2

/-! ### Operands of tensor operations (R80, R81, R132-R142) -/

theorem sweep_wf {rs t} (ht : TileWf t) : OptWf TileWf (Tile.sweep rs t) := by
  unfold Tile.sweep
  dsimp only
  split
  · exact trivial
  · exact scrub_wf ht

theorem readOff_wf {p ch gone off d} (h : DevWf d) : DevWf (readOff p ch gone off d) :=
  DevWf.ite (onTile_wf h (setChan_wf (tile_wf h))) (returnCredit_wf (onTile_wf h (setChan_wf (tile_wf h))))

theorem feed_wf {p own o nblk l0 lines k0 n buf d} (h : DevWf d) :
    FeedWf (feed p own o nblk l0 lines k0 n buf d) := by
  unfold feed
  dsimp only
  split
  · split
    · exact h
    · split
      · exact readOff_wf h
      · exact trivial
      · split
        · exact trivial
        · rename_i t' e
          have h1 : TileWf t' := (sweep_wf (tile_wf h)).some e
          exact readOff_wf (setTile_wf h h1)
  · split
    · exact h
    · split
      · exact trivial
      · rename_i t'1 e1
        have h2 : TileWf t'1 := (sweep_wf (tile_wf h)).some e1
        exact setTile_wf h h2

/-! ### Tensor instructions at issue (R93, R98, R211-R213) -/

theorem enqueue_wf {p ts w d} (h : DevWf d) : DevWf (enqueue p ts w d) :=
  onTile_wf h (tile_wf h)

theorem readNblk_wf {p ts e d k} (h : DevWf d) (hf : ∀ x0 x1, DevWf x1 → ResWf (k x0 x1)) :
    ResWf (readNblk p ts e d k) :=
  ResWf.ite (withRead_wf h (fun _ _ h1 => hf _ _ h1)) (hf _ _ h)

theorem topOp_wf {t ts rs1 d} (h : DevWf d) : ResWf (topOp t ts rs1 d) :=
  ResWf.ite trivial (ResWf.ite h (withRead_wf h (fun _ _ h1 => readNblk_wf h1 (fun _ _ h2 => ResWf.ite trivial
      (ResWf.ite trivial (ResWf.ite trivial (ResWf.ite trivial (enqueue_wf h2))))))))

theorem execDrain_wf {t ts rd rs1 rs2 imm x} (h : DevWf x.dev) : OutWf (execDrain t ts rd rs1 rs2 imm x) :=
  liftAt_wf h fun _ h1 => runThread_wf (fun _ h2 => ResWf.ite trivial (ResWf.ite trivial (ResWf.ite trivial
      (ResWf.ite h2 (enqueue_wf h2))))) h1

theorem execTwait_wf {t ts imm x} (h : DevWf x.dev) : OutWf (execTwait t ts imm x) :=
  liftAt_wf h fun _ h1 => runThread_wf (fun _ h2 => ResWf.ite (ResWf.ite trivial (ResWf.ite h2 h2)) (ResWf.ite h2
      h2)) h1

/-! ### Drydowns (R237, R238) -/

theorem freeNats_wf {n d} (h : DevWf d) : DevWf (freeNats n d).2 := by
  induction n generalizing d with
  | zero => exact h
  | succ n ih => exact ih (free_wf h)

theorem dryRecord_wf {d p} (h : DevWf d) : DevWf (dryRecord d p).2 := by
  unfold dryRecord
  dsimp only
  exact freeNats_wf h

theorem dryRecords_wf {l room fits d} (h : DevWf d) : DevWf (dryRecords l room fits d).2 := by
  induction l generalizing room fits d with
  | nil => exact h
  | cons x r ih => exact ih (dryRecord_wf h)

theorem dryBytes_wf {j area d} (h : DevWf d) : DevWf (dryBytes j area d).2 := by
  unfold dryBytes
  dsimp only
  exact dryRecords_wf h

/-! ### The start of a recovery (R267, R340-R348) -/

theorem startChange_wf {c d} (h : DevWf d) : DevWf (startChange c d) :=
  DevWf.ite h h

theorem condemnAs_wf {bad p d} (h : DevWf d) : DevWf (condemnAs bad p d) :=
  DevWf.ite h (onTile_wf h (tile_wf h))

theorem condemn_wf {p d} (h : DevWf d) : DevWf (condemn p d) :=
  condemnAs_wf h

theorem recover_wf {why step lost j} (hj : JobWf j) : JobWf (Job.recover why step lost j) :=
  hj

theorem startRecovery_wf {k why step lost d} (h : DevWf d) : DevWf (startRecovery k why step lost d) :=
  onJob_wf h fun _ h1 => recover_wf h1

theorem haltLost_wf {j lost p code d} (h : DevWf d) : DevWf (haltLost j lost p code d) :=
  startChange_wf (onJob_wf (each_wf (stopJob_wf h) (fun _ _ h1 => condemn_wf h1)) (fun _ h2 => h2))

theorem loseTile_wf {j p code d} (h : DevWf d) : DevWf (loseTile j p code d) :=
  DevWf.ite (startRecovery_wf (DevWf.ite (appendLog_wf h) h)) (DevWf.ite (startRecovery_wf (DevWf.ite (appendLog_wf
      h) h)) (haltLost_wf (DevWf.ite (appendLog_wf h) h)))

theorem raiseCheck_wf {p checker array step d} (h : DevWf d) : DevWf (raiseCheck p checker array step d) := by
  unfold raiseCheck
  split
  · exact h
  · exact DevWf.ite (startRecovery_wf (onTile_wf (appendLog_wf h) (tile_wf (appendLog_wf h)))) (DevWf.ite
        (loseTile_wf (eventTile_wf (onTile_wf (appendLog_wf h) (tile_wf (appendLog_wf h))))) (faultTile_wf (onTile_wf
        (appendLog_wf h) (tile_wf (appendLog_wf h)))))

/-! ### The tensor unit (R78-R97, R153) -/

theorem startDrain_wf {narrow j t} (ht : TileWf t) : OptWf TileWf (startDrain narrow j t) := by
  unfold startDrain
  dsimp only
  split
  · exact trivial
  · exact ht

theorem askDrain_wf {narrow j t} (ht : TileWf t) : AskWf (askDrain narrow j t) := by
  unfold askDrain
  split
  · split
    · rename_i t1 e
      have h : TileWf t1 := (startDrain_wf ht).some e
      exact h
    · exact trivial
  · exact ht
  · exact trivial

theorem watchMask_wf {e t} (ht : TileWf t) : TileWf (Tile.watchMask e t) :=
  ht

theorem beginPass_wf {q e t} (ht : TileWf t) : OptWf (fun x => TileWf x.2) (beginPass q e t) := by
  unfold beginPass
  dsimp only
  split
  · trivial
  · rename_i u hu
    have h1 : TileWf u := by
      split at hu
      · exact (sweep_wf ht).some hu
      · cases hu; exact ht
    exact TileWf.ite (List.foldlRecOn _ _ h1 fun _ h _ _ => setAcc_wf h) h1

theorem queueFault_wf {p q code d} (h : DevWf d) : DevWf (queueFault p q code d) :=
  faultTile_wf h

theorem setHead_wf {t q} (ht : TileWf t) : TileWf (Tile.setHead t q) :=
  ht

theorem popHead_wf {t} (ht : TileWf t) : TileWf (popHead t) :=
  wakeCause_wf (wakeCause_wf ht)

theorem headStep_wf {p narrow q d} (h : DevWf d) : DevWf (headStep p narrow q d) := by
  unfold headStep
  dsimp only
  split
  · split
    · exact setTile_wf h (setHead_wf (tile_wf h))
    · split
      · exact h
      · split
        · exact queueFault_wf h
        · split
          · exact queueFault_wf h
          · rename_i t' e
            have h1 : TileWf t' := (beginPass_wf (tile_wf h)).some e
            exact setTile_wf h (setHead_wf (watchMask_wf h1))
  · split
    · exact h
    · split
      · exact h
      · split
        · exact queueFault_wf h
        · split
          · exact queueFault_wf h
          · rename_i t'1 e1
            have h2 : TileWf t'1 := (askDrain_wf (tile_wf h)).done e1
            exact setTile_wf h (popHead_wf h2)
  · exact DevWf.ite h (DevWf.ite h (DevWf.ite (queueFault_wf h) (setTile_wf h (wakeCause_wf (popHead_wf (tile_wf
        h))))))

theorem execIssueQueueHead_wf {t x} (h : DevWf x.dev) : OutWf (execIssueQueueHead t x) := by
  unfold execIssueQueueHead
  refine liftAt_wf h fun _ h1 => ?_
  split
  · exact DevWf.ite (headStep_wf h1) h1
  · exact h1

theorem feedB_wf {p q e nblk nb ks d} (h : DevWf d) : FeedWf (feedB p q e nblk nb ks d) :=
  feed_wf h

theorem feedA_wf {p q e nblk mb ks d} (h : DevWf d) : FeedWf (feedA p q e nblk mb ks d) :=
  feed_wf h

theorem execWeightFillComplete_wf {t x} (h : DevWf x.dev) : OutWf (execWeightFillComplete t x) := by
  unfold execWeightFillComplete
  refine liftAt_wf h fun _ h1 => ?_
  split
  · exact h1
  · split
    · dsimp only
      split
      · split
        · rename_i d e
          have h2 : DevWf d := (feedB_wf h1).wait e
          exact onTile_wf h2 (setHead_wf (tile_wf h2))
        · exact queueFault_wf h1
        · rename_i d1 e1
          have h3 : DevWf d1 := (feedB_wf h1).got e1
          exact onTile_wf h3 (setHead_wf (tile_wf h3))
      · exact h1
    · exact h1

theorem maskNow_wf {p q e d} (h : DevWf d) : DevWf (maskNow p q e d).2 := by
  unfold maskNow
  split
  · refine List.foldlRecOn (motive := fun x : List (Bool × Bool) × Dev => DevWf x.2) _ _ h fun x hx r _ => ?_
    dsimp only
    split <;> exact hx
  · exact h

theorem drainPass_wf {narrow q e insn l t} (ht : TileWf t) : AskWf (drainPass narrow q e insn l t) := by
  induction l generalizing t with
  | nil => exact ht
  | cons a r ih =>
    unfold drainPass
    dsimp only
    split
    · trivial
    · rename_i u hu
      exact ih ((askDrain_wf ht).done hu)

theorem advance_wf {p narrow q e insn d} (h : DevWf d) : DevWf (advance p narrow q e insn d) := by
  have put : ∀ (d : Dev) (x : QEntry), DevWf d → DevWf (d.onTile p fun t => t.setHead x) :=
    fun _ _ h => onTile_wf h (setHead_wf (tile_wf h))
  unfold advance
  dsimp only
  split
  · exact put _ _ h
  · split
    · exact put _ _ h
    · split
      · exact queueFault_wf h
      · rename_i t ht
        have h1 : TileWf t := by
          split at ht
          · exact (drainPass_wf (tile_wf h)).done ht
          · cases ht; exact tile_wf h
        have h2 : DevWf (d.setTile p t) := setTile_wf h h1
        exact DevWf.ite (put _ _ h2) (DevWf.ite (put _ _ h2) (DevWf.ite (put _ _ h2) (onTile_wf h2 (popHead_wf
            (tile_wf h2)))))

theorem countBlock_wf {active macs fz t} (ht : TileWf t) : TileWf (countBlock active macs fz t) :=
  count_wf (count_wf (count_wf (count_wf (count_wf ht))))

theorem laneFeed_wf {p : Pos} {q : QEntry} {e : TDesc} {nblk : Nat} {d : Dev} (h : DevWf d) :
    FeedWf (match q.prog.bSegs with
      | ls :: _ => Feed.got ls d
      | [] => if e.mode = 1 then .wait q.prog.bufB d else feedB p q e nblk q.prog.nb q.prog.ks d) := by
  split
  · exact h
  · split
    · exact h
    · exact feedB_wf h

theorem laneStep_wf {p fz upset q e ws nblk d} (h : DevWf d) : DevWf (laneStep p fz upset q e ws nblk d) := by
  have keep : ∀ (d : Dev) (x : QEntry), DevWf d → DevWf (d.onTile p fun t => t.setHead x) :=
    fun _ _ h => onTile_wf h (setHead_wf (tile_wf h))
  unfold laneStep
  split
  · exact queueFault_wf h
  · rename_i q' t hb
    have ht : TileWf t := by
      split at hb
      · exact (beginPass_wf (tile_wf h)).some hb
      · cases hb; exact tile_wf h
    have h0 : DevWf (d.setTile p t) := setTile_wf h ht
    dsimp only
    split
    · rename_i e1
      exact keep _ _ ((laneFeed_wf h0).wait e1)
    · exact queueFault_wf h
    · rename_i e1
      have h1 := (laneFeed_wf h0).got e1
      split
      · rename_i e2
        exact keep _ _ ((feedA_wf h1).wait e2)
      · exact queueFault_wf h
      · rename_i e2
        have h2 := (feedA_wf h1).got e2
        have h3 := maskNow_wf (p := p) (q := q') (e := e) h2
        split
        · exact raiseCheck_wf h2
        · exact advance_wf (onTile_wf h3 (countBlock_wf (setHead_wf (setAcc_wf (tile_wf h3)))))

theorem execLaneBlockComplete_wf {t fz upset x} (h : DevWf x.dev) : OutWf (execLaneBlockComplete t fz upset x) := by
  unfold execLaneBlockComplete
  refine liftAt_wf h fun _ h1 => ?_
  split
  · exact h1
  · split
    · exact DevWf.ite (laneStep_wf h1) h1
    · exact h1

/-! ### Admission, firing, steering, speculation (R157-R177) -/

theorem execTokenAdmit_wf {t ch x} (h : DevWf x.dev) : OutWf (execTokenAdmit t ch x) := by
  unfold execTokenAdmit
  refine liftAt_wf h fun _ h1 => ?_
  dsimp only
  split
  · exact DevWf.ite (returnCredit_wf (onTile_wf h1 (tile_wf h1))) h1
  · exact h1

theorem execInstanceFire_wf {t x} (h : DevWf x.dev) : OutWf (execInstanceFire t x) := by
  unfold execInstanceFire
  refine liftAt_wf h fun _ h1 => ?_
  dsimp only
  split
  · exact h1
  · split
    · exact h1
    · split
      · exact h1
      · exact onTile_wf h1 (fireSlot_wf (tile_wf h1))

theorem confirmSlots_wf {g t} (ht : TileWf t) : TileWf (confirmSlots g t) :=
  List.foldlRecOn _ _ (List.foldlRecOn _ _ ht fun _ h _ _ => onSlot_wf h) fun _ h1 _ _ => TileWf.ite (endThread_wf
      h1) h1

theorem confirmDrains_wf {p narrow js d} (h : DevWf d) : DevWf (confirmDrains p narrow js d) := by
  unfold confirmDrains
  refine each_wf h fun _ _ h1 => ?_
  split
  · rename_i t e
    have h2 : TileWf t := (startDrain_wf (tile_wf h1)).some e
    exact setTile_wf h1 h2
  · exact faultTile_wf (onTile_wf h1 (setAcc_wf (tile_wf h1)))

theorem confirmTag_wf {p g d} (h : DevWf d) : DevWf (confirmTag p g d) := by
  unfold confirmTag
  dsimp only
  split
  · exact DevWf.ite (onTile_wf (confirmDrains_wf (onTile_wf h (wakeCause_wf (wakeCause_wf (List.foldlRecOn _ _
        (confirmSlots_wf (tile_wf h)) fun _ h1 _ _ => TileWf.ite (setAcc_wf h1) h1))))) (popHead_wf (tile_wf
        (confirmDrains_wf (onTile_wf h (wakeCause_wf (wakeCause_wf (List.foldlRecOn _ _ (confirmSlots_wf (tile_wf h))
        fun _ h2 _ _ => TileWf.ite (setAcc_wf h2) h2)))))))) (confirmDrains_wf (onTile_wf h (wakeCause_wf
        (wakeCause_wf (List.foldlRecOn _ _ (confirmSlots_wf (tile_wf h)) fun _ h3 _ _ => TileWf.ite (setAcc_wf h3)
        h3)))))
  · exact confirmDrains_wf (onTile_wf h (wakeCause_wf (wakeCause_wf (List.foldlRecOn _ _ (confirmSlots_wf (tile_wf
        h)) fun _ h4 _ _ => TileWf.ite (setAcc_wf h4) h4))))

theorem zeroLine_wf {t l} (ht : TileWf t) : TileWf (zeroLine t l) :=
  ⟨clear_wf ht.mem, ht.prog⟩

theorem logSquash_wf {p s d} (h : DevWf d) : DevWf (logSquash p s d) :=
  DevWf.ite (eventTile_wf h) h

theorem squashTag_wf {p g d} (h : DevWf d) : DevWf (squashTag p g d) :=
  each_wf (onTile_wf (each_wf h (fun _ _ h1 => logSquash_wf h1)) (wakeCause_wf (wakeCause_wf (wakeCause_wf
      (wakeCause_wf (List.foldlRecOn _ _ (List.foldlRecOn _ _ (List.foldlRecOn _ _ (tile_wf (each_wf h (fun _ _ h2 =>
      logSquash_wf h2))) fun _ h3 _ _ => freeSlot_wf h3) fun _ h4 _ _ => count_wf (setAcc_wf h4)) fun _ h5 _ _ =>
      zeroLine_wf h5)))))) fun _ _ h6 => returnCredit_wf h6

theorem setSteer_wf {t u s} (ht : TileWf t) : TileWf (Tile.setSteer t u s) :=
  ht

theorem emitToken_wf {p port k d} (h : DevWf d) : DevWf (emitToken p port k d) := by
  unfold emitToken
  split
  · exact h
  · exact putToken_wf (onTile_wf h (setPort_wf (tile_wf h)))

theorem dropHeads_wf {p ch k d} (h : DevWf d) : DevWf (dropHeads p ch k d) := by
  unfold dropHeads
  split
  · exact DevWf.ite h (returnCredit_wf (onTile_wf h (setChan_wf (tile_wf h))))
  · exact h

theorem steerFill_wf {p u d} (h : DevWf d) : DevWf (steerFill p u d) := by
  unfold steerFill
  dsimp only
  split
  · exact h
  · exact dropHeads_wf (dropHeads_wf (onTile_wf h (setSteer_wf (tile_wf h))))

theorem steerResolve_wf {p u d} (h : DevWf d) : DevWf (steerResolve p u d) := by
  unfold steerResolve
  split
  · exact h
  · split
    · exact h
    · exact DevWf.ite (confirmTag_wf (onTile_wf h (setSteer_wf (tile_wf h)))) (squashTag_wf (onTile_wf h (setSteer_wf
          (tile_wf h))))

theorem steerSend_wf {p u d} (h : DevWf d) : DevWf (steerSend p u d) := by
  unfold steerSend
  split
  · exact h
  · split
    · exact h
    · exact emitToken_wf (onTile_wf h (setSteer_wf (tile_wf h)))

theorem execSteerForward_wf {t u x} (h : DevWf x.dev) : OutWf (execSteerForward t u x) :=
  liftAt_wf h fun _ h1 => DevWf.ite (steerSend_wf (steerResolve_wf (steerFill_wf h1))) h1

theorem speculate_wf {p u s k d} (h : DevWf d) : DevWf (speculate p u s k d) := by
  unfold speculate
  dsimp only
  split
  · split
    · exact h
    · split
      · exact eventOnce_wf (onTile_wf h (tile_wf h))
      · exact emitToken_wf (onTile_wf h (tile_wf h))
  · split
    · exact h
    · split
      · exact eventOnce_wf (onTile_wf h (tile_wf h))
      · exact emitToken_wf (onTile_wf h (tile_wf h))

theorem execSteerSpeculate_wf {t u x} (h : DevWf x.dev) : OutWf (execSteerSpeculate t u x) := by
  unfold execSteerSpeculate
  refine liftAt_wf h fun _ h1 => ?_
  split
  · dsimp only
    split
    · exact steerFill_wf h1
    · split
      · exact DevWf.ite (steerFill_wf h1) (speculate_wf (steerFill_wf h1))
      · exact steerFill_wf h1
  · exact h1

theorem execMergeForward_wf {t u x} (h : DevWf x.dev) : OutWf (execMergeForward t u x) := by
  unfold execMergeForward
  refine liftAt_wf h fun _ h1 => ?_
  split
  · dsimp only
    split
    · exact steerFill_wf h1
    · split
      · exact steerFill_wf h1
      · exact emitToken_wf (dropHeads_wf (onTile_wf (steerFill_wf h1) (setSteer_wf (tile_wf (steerFill_wf h1)))))
  · exact h1

theorem execNeighbourToken_wf {j ci crcOk prodFailed consFailed x} (h : DevWf x.dev) :
    OutWf (execNeighbourToken j ci crcOk prodFailed consFailed x) := by
  unfold execNeighbourToken
  refine liftAt_wf h fun _ h1 => ?_
  dsimp only
  split
  · split
    · exact h1
    · split
      · split
        · exact h1
        · split
          · exact DevWf.ite (onTile_wf h1 (setChan_wf (tile_wf h1))) (DevWf.ite h1 h1)
          · split
            · exact h1
            · split
              · refine each_wf h1 fun _ _ h2 => ?_
                split
                · exact DevWf.ite (loseTile_wf (eventTile_wf h2)) (eventTile_wf h2)
                · exact eventTile_wf h2
              · exact h1
      · exact h1
  · exact h1

/-! ### Port tiles (R285-R288, R435-R445) -/

theorem setLink_wf {n l d} (h : DevWf d) : DevWf (Dev.setLink n l d) :=
  h

theorem setPortTile_wf {id x d} (h : DevWf d) : DevWf (Dev.setPortTile id x d) :=
  h

theorem onPort_wf {id f d} (h : DevWf d) : DevWf (Dev.onPort id f d) :=
  setPortTile_wf h

theorem portToPort_wf {a b k transit d} (h : DevWf d) : DevWf (Dev.portToPort a b k transit d) := by
  unfold Dev.portToPort
  split <;> exact h

theorem sendCap_wf {n d} (h : DevWf d) : DevWf (sendCap n d) :=
  emit_wf h

theorem tallyDiscard_wf {n cause fjob d} (h : DevWf d) : DevWf (tallyDiscard n cause fjob d) :=
  h

theorem sendFrame_wf {n fjob fhops k d} (h : DevWf d) : DevWf (sendFrame n fjob fhops k d) :=
  DevWf.ite (tallyDiscard_wf h) (emit_wf (setLink_wf h))

theorem drainQueue_wf {n l blocked d} (h : DevWf d) : DevWf (drainQueue n l blocked d).2 := by
  induction l generalizing blocked d with
  | nil => exact h
  | cons x r ih =>
    unfold drainQueue
    split
    · exact ih (sendFrame_wf h)
    · exact ih h

theorem pumpPort_wf {n d} (h : DevWf d) : DevWf (pumpPort n d) :=
  onPort_wf (drainQueue_wf h)

theorem fabricOut_wf {n fjob fhops k d} (h : DevWf d) : DevWf (fabricOut n fjob fhops k d) :=
  pumpPort_wf (onPort_wf h)

theorem holdWrite_wf {id hd d} (h : DevWf d) : DevWf (holdWrite id hd d) :=
  onPort_wf h

/-! ### State images (R318, R337, R472) -/

theorem imageBytes_wf {cut j p d} (h : DevWf d) : DevWf (imageBytes cut j p d).2 := by
  unfold imageBytes
  dsimp only
  exact freeNats_wf h

theorem bulkBytes_wf {t d} (h : DevWf d) : DevWf (bulkBytes t d).2 := by
  unfold bulkBytes
  dsimp only
  exact freeNats_wf h

theorem recordBytes_wf {j p d} (h : DevWf d) : DevWf (recordBytes j p d).2 := by
  unfold recordBytes
  dsimp only
  exact bulkBytes_wf (imageBytes_wf h)

/-! ### Sync queues and hatband lines (R203, R217-R232) -/

theorem leavePut_wf {ts q t} (ht : TileWf t) : TileWf (leavePut ts q t) :=
  setSq_wf ht

theorem execSqput_wf {t ts rs1 qid x} (h : DevWf x.dev) : OutWf (execSqput t ts rs1 qid x) :=
  liftAt_wf h fun _ h1 => runThread_wf (fun _ h2 => ResWf.ite trivial (ResWf.ite (onTile_wf h2 (setSq_wf (tile_wf
      h2))) (ResWf.ite trivial (onTile_wf h2 (sqAppend_wf (leavePut_wf (tile_wf h2))))))) h1

theorem wakePuts_wf {q t} (ht : TileWf t) : TileWf (wakePuts q t) :=
  ht

theorem execSqget_wf {t ts rd qid x} (h : DevWf x.dev) : OutWf (execSqget t ts rd qid x) := by
  unfold execSqget
  refine liftAt_wf h fun _ h1 => runThread_wf (fun _ h2 => ?_) h1
  dsimp only
  split
  · exact trivial
  · split
    · exact trivial
    · split
      · exact onTile_wf h2 (onSlot_wf (wakePuts_wf (setSq_wf (tile_wf h2))))
      · exact onTile_wf h2 (onSlot_wf (setSq_wf (tile_wf h2)))

theorem setPending_wf {k t} (ht : TileWf t) : TileWf (setPending k t) :=
  ht

theorem execHbarr_wf {t ts qid x} (h : DevWf x.dev) : OutWf (execHbarr t ts qid x) :=
  liftAt_wf h fun _ h1 => runThread_wf (fun _ h2 => ResWf.ite trivial (ResWf.ite h2 (ResWf.ite h2 (onTile_wf h2
      (setPending_wf (tile_wf h2)))))) h1

theorem execHbwait_wf {t ts qid x} (h : DevWf x.dev) : OutWf (execHbwait t ts qid x) :=
  liftAt_wf h fun _ h1 => runThread_wf (fun _ h2 => ResWf.ite trivial (ResWf.ite (onTile_wf h2 (onSlot_wf (tile_wf
      h2))) h2)) h1

theorem execHbsync_wf {t ts qid x} (h : DevWf x.dev) : OutWf (execHbsync t ts qid x) :=
  liftAt_wf h fun _ h1 => runThread_wf (fun _ h2 => ResWf.ite trivial (ResWf.ite h2 (onTile_wf h2 (onSlot_wf
      (setPending_wf (tile_wf h2)))))) h1

/-! ### Crossings and boundary records (R223, R330-R335) -/

theorem cross_wf {k j} (hj : JobWf j) : JobWf (Job.cross k j) :=
  hj

theorem leaveOldEpoch_wf {slot d} (h : DevWf d) : DevWf (leaveOldEpoch slot d) :=
  DevWf.ite (answerChange_wf (onJob_wf h (fun _ h1 => h1))) (onJob_wf h (fun _ h2 => h2))

theorem execHatbandCrossing_wf {line x} (h : DevWf x.dev) : OutWf (execHatbandCrossing line x) := by
  unfold execHatbandCrossing
  refine liftAt_wf h fun _ h1 => ?_
  split
  · exact DevWf.ite (DevWf.ite (leaveOldEpoch_wf (onJob_wf h1 (fun _ h2 => cross_wf h2))) (onJob_wf h1 (fun _ h3 =>
        cross_wf h3))) h1
  · exact h1

theorem stepTile_wf {rec_ copies t} (ht : TileWf t) : TileWf (stepTile rec_ copies t) :=
  ht

theorem seeLine_wf {kind k t} (ht : TileWf t) : TileWf (seeLine kind k t) :=
  ht

theorem seeStep_wf {p j d} (h : DevWf d) : DevWf (seeStep p j d) := by
  unfold seeStep
  dsimp only
  split
  · exact faultTile_wf (DevWf.ite (onTile_wf h (stepTile_wf (reRank_wf (tile_wf h)))) (releaseSignals_wf (onTile_wf h
        (stepTile_wf (reRank_wf (tile_wf h))))))
  · exact DevWf.ite (onTile_wf h (stepTile_wf (reRank_wf (tile_wf h)))) (releaseSignals_wf (onTile_wf h (stepTile_wf
        (reRank_wf (tile_wf h)))))

theorem execCrossingSeen_wf {t k x} (h : DevWf x.dev) : OutWf (execCrossingSeen t k x) := by
  unfold execCrossingSeen
  refine liftAt_wf h fun _ h1 => ?_
  split
  · exact h1
  · exact DevWf.ite (DevWf.ite (seeStep_wf (onTile_wf h1 (seeLine_wf (tile_wf h1)))) (onTile_wf h1 (seeLine_wf
        (tile_wf h1)))) h1

theorem execRetentionCopyDone_wf {t entry x} (h : DevWf x.dev) : OutWf (execRetentionCopyDone t entry x) := by
  unfold execRetentionCopyDone
  refine liftAt_wf h fun _ h1 => ?_
  dsimp only
  split
  · exact h1
  · split
    · exact h1
    · split
      · exact h1
      · split
        · exact h1
        · split
          · exact faultTile_wf h1
          · rename_i t' e
            have h2 : TileWf t' := (load_wf (tile_wf h1)).some e
            split
            · rename_i t1 e1
              have h3 : TileWf t1 := (store_wf (tile_wf h1)).some e1
              exact setTile_wf (setTile_wf h1 h3) (wakeCause_wf (wakeCause_wf h2))
            · exact h1

theorem snapOf_wf {d j p} (h : DevWf d) : SnapWf (snapOf d j p) :=
  unplaced_wf (tile_wf h)

theorem putSnap_wf {s j} (hs : SnapWf s) (hj : JobWf j) : JobWf (putSnap s j) :=
  ⟨boundsSnoc_wf (boundsFilter_wf hj.bounds) hs, hj.saved⟩

theorem keepRecord_wf {p j r d} (h : DevWf d) : DevWf (keepRecord p j r d) := by
  unfold keepRecord
  dsimp only
  split
  · exact onJob_wf (onTile_wf h (tile_wf h)) fun _ h1 => putSnap_wf (snapOf_wf (onTile_wf h (tile_wf h))) h1
  · exact onTile_wf (recordBytes_wf (onJob_wf (onTile_wf h (tile_wf h)) (fun _ h2 => putSnap_wf (snapOf_wf (onTile_wf
        h (tile_wf h))) h2))) (overwrite_wf (tile_wf (recordBytes_wf (onJob_wf (onTile_wf h (tile_wf h)) (fun _ h3 =>
        putSnap_wf (snapOf_wf (onTile_wf h (tile_wf h))) h3)))))

theorem writeRecord_wf {p j r d} (h : DevWf d) : DevWf (writeRecord p j r d) :=
  DevWf.ite (faultTile_wf (onTile_wf h (tile_wf h))) (releaseSignals_wf (keepRecord_wf h))

theorem execBoundaryRecordWritten_wf {t x} (h : DevWf x.dev) : OutWf (execBoundaryRecordWritten t x) := by
  unfold execBoundaryRecordWritten
  refine liftAt_wf h fun _ h1 => ?_
  split
  · exact h1
  · split
    · exact DevWf.ite (writeRecord_wf h1) h1
    · exact h1

theorem confirmStep_wf {j d} (h : DevWf d) : DevWf (confirmStep j d) :=
  onJob_wf h fun _ h1 => h1

theorem execStepConfirm_wf {j x} (h : DevWf x.dev) : OutWf (execStepConfirm j x) := by
  unfold execStepConfirm
  refine liftAt_wf h fun _ h1 => ?_
  split
  · exact h1
  · exact DevWf.ite (confirmStep_wf h1) h1

/-! ### Bounds that stop a job (R183, R221, R232) -/

theorem execCreditStallTimeout_wf {t port x} (h : DevWf x.dev) : OutWf (execCreditStallTimeout t port x) := by
  unfold execCreditStallTimeout
  refine liftAt_wf h fun _ h1 => ?_
  split
  · exact DevWf.ite (faultTile_wf h1) h1
  · exact h1

theorem execConsumerStallTimeout_wf {t ch x} (h : DevWf x.dev) : OutWf (execConsumerStallTimeout t ch x) := by
  unfold execConsumerStallTimeout
  refine liftAt_wf h fun _ h1 => ?_
  split
  · exact DevWf.ite (faultTile_wf h1) h1
  · exact h1

theorem execSqWaitTimeout_wf {t ts x} (h : DevWf x.dev) : OutWf (execSqWaitTimeout t ts x) := by
  unfold execSqWaitTimeout
  refine liftAt_wf h fun _ h1 => ?_
  dsimp only
  split
  · exact DevWf.ite (faultTile_wf h1) h1
  · exact h1

theorem execHbWaitTimeout_wf {t ts x} (h : DevWf x.dev) : OutWf (execHbWaitTimeout t ts x) := by
  unfold execHbWaitTimeout
  refine liftAt_wf h fun _ h1 => ?_
  dsimp only
  split
  · exact DevWf.ite (faultTile_wf h1) h1
  · exact h1

/-! ### The mesh (R242-R259, R267) -/

theorem dropFlight_wf {id d} (h : DevWf d) : DevWf (Dev.dropFlight id d) :=
  h

theorem moveFlight_wf {f d} (h : DevWf d) : DevWf (Dev.moveFlight f d) :=
  h

theorem dropAt_wf {id i p d} (h : DevWf d) : DevWf (dropAt id i p d) :=
  onTile_wf (dropFlight_wf h) (netCount_wf (tile_wf (dropFlight_wf h)))

theorem hop_wf {f p side d} (h : DevWf d) : DevWf (hop f p side d) := by
  unfold hop
  split
  · exact dropAt_wf h
  · exact dropFlight_wf h
  · split
    · exact DevWf.ite (moveFlight_wf h) h
    · exact h

theorem execRouterForward_wf {id crcOk x} (h : DevWf x.dev) : OutWf (execRouterForward id crcOk x) := by
  unfold execRouterForward
  refine lift_wf h fun _ h1 => ?_
  split
  · exact h1
  · split
    · exact DevWf.ite (dropFlight_wf h1) (DevWf.ite (hop_wf h1) (dropAt_wf h1))
    · exact h1

theorem arrive_wf {f own x p d} (hf : ∀ p k d, DevWf d → OptWf DevWf (f p k d)) (h : DevWf d) :
    DevWf (arrive f own x p d) := by
  unfold arrive
  split
  · exact (hf _ _ _ (dropFlight_wf h)).getD h
  · exact h
  · exact dropAt_wf h
  · dsimp only
    split
    · exact onJob_wf (dropFlight_wf h) fun _ hj => hj
    · exact dropFlight_wf h

theorem atTile_wf {id ty own f x} (hf : ∀ x0 x1 x2, DevWf x2 → OptWf DevWf (f x0 x1 x2)) (h : DevWf x.dev) :
    OutWf (atTile id ty own f x) := by
  unfold atTile
  refine lift_wf h fun _ h1 => ?_
  split
  · exact h1
  · split
    · exact DevWf.ite (arrive_wf (fun _ _ _ h2 => hf _ _ _ h2) h1) h1
    · exact h1

theorem answerTo_wf {p k ty tag data d} (h : DevWf d) : DevWf (answerTo p k ty tag data d) :=
  send_wf h

theorem ackTo_wf {p k d} (h : DevWf d) : DevWf (ackTo p k d) :=
  send_wf h

theorem onNet_wf {p d} {f : Tile → Net} (h : DevWf d) : DevWf (d.onTile p fun t => { t with net := f t }) :=
  onTile_wf h (tile_wf h)

theorem remember_wf {p k d} (h : DevWf d) : DevWf (remember p k d) := by
  unfold remember
  extract_lets full young d1 d2
  have h1 : DevWf d1 := onNet_wf h
  have h2 : DevWf d2 := free_wf h1
  clear_value d1 d2
  split
  · split
    · exact onTile_wf h2 (netCount_wf (tile_wf h2))
    · exact h2
  · exact h1

theorem lateArrival_wf {p d} (h : DevWf d) : DevWf (lateArrival p d) :=
  eventOnce_wf (onTile_wf h (netCount_wf (tile_wf h)))

theorem freeSeq_wf {p o d} (h : DevWf d) : DevWf (freeSeq p o d) :=
  drainUnsent_wf (onTile_wf h (tile_wf h))

theorem freshData_wf {t o} (ht : TileWf t) : OptWf (fun x => TileWf x.2) (freshData t o) := by
  unfold freshData
  split
  · exact load_wf ht
  · exact ht

theorem reissue_wf {p o d} (h : DevWf d) : DevWf (reissue p o d) := by
  unfold reissue
  dsimp only
  split
  · exact faultTile_wf (onTile_wf (eventOnce_wf (onTile_wf h (netCount_wf (tile_wf h)))) (tile_wf (eventOnce_wf
        (onTile_wf h (netCount_wf (tile_wf h))))))
  · split
    · exact faultTile_wf (eventOnce_wf (onTile_wf h (netCount_wf (tile_wf h))))
    · rename_i t' e
      have h1 : TileWf t' := (freshData_wf (tile_wf (eventOnce_wf (onTile_wf h (netCount_wf (tile_wf h)))))).some e
      exact send_wf (setTile_wf (eventOnce_wf (onTile_wf h (netCount_wf (tile_wf h)))) (netCount_wf h1))

theorem execSeqQuarantineEnd_wf {t seq x} (h : DevWf x.dev) : OutWf (execSeqQuarantineEnd t seq x) := by
  unfold execSeqQuarantineEnd
  refine liftAt_wf h fun _ h1 => ?_
  split
  · exact DevWf.ite (drainUnsent_wf (onTile_wf h1 (tile_wf h1))) h1
  · exact DevWf.ite (onTile_wf h1 (wakeCause_wf (setPort_wf (tile_wf h1)))) h1
  · exact DevWf.ite h1 (onPort_wf h1)

theorem execCreditRepeat_wf {t ch x} (h : DevWf x.dev) : OutWf (execCreditRepeat t ch x) := by
  unfold execCreditRepeat
  refine liftAt_wf h fun _ h1 => ?_
  dsimp only
  split
  · exact h1
  · split
    · exact h1
    · split
      · split
        · exact h1
        · split
          · exact send_wf (onTile_wf h1 (setChan_wf (tile_wf h1)))
          · exact h1
      · split
        · exact h1
        · split
          · exact send_wf (onTile_wf h1 (tile_wf h1))
          · exact h1

theorem deliverHere_wf {pid j k d} (h : DevWf d) : DevWf (deliverHere pid j k d) := by
  unfold deliverHere
  split
  · split <;> exact portSend_wf h
  · exact portSend_wf h

theorem holdPacket_wf {pid j f k d} (h : DevWf d) : DevWf (holdPacket pid j f k d) :=
  DevWf.ite (holdWrite_wf (dropFlight_wf h)) h

theorem egress_wf {pid f d} (h : DevWf d) : DevWf (egress pid f d) := by
  unfold egress
  split
  · dsimp only
    split
    · exact portSend_wf (dropFlight_wf h)
    · split
      · exact deliverHere_wf (dropFlight_wf h)
      · exact portSend_wf (dropFlight_wf h)
      · exact DevWf.ite (portSend_wf (dropFlight_wf h)) (DevWf.ite (holdPacket_wf h) (portToPort_wf (dropFlight_wf
            h)))
  · exact dropFlight_wf h

theorem execEgressPortTile_wf {id x} (h : DevWf x.dev) : OutWf (execEgressPortTile id x) := by
  unfold execEgressPortTile
  refine lift_wf h fun _ h1 => ?_
  split
  · exact h1
  · split
    · split
      · exact h1
      · split
        · exact dropFlight_wf h1
        · split
          · split
            · exact fabricOut_wf (dropFlight_wf h1)
            · exact dropFlight_wf h1
          · split
            · exact egress_wf h1
            · split
              · exact DevWf.ite (holdPacket_wf h1) (dropFlight_wf h1)
              · exact dropFlight_wf h1
    · exact h1

theorem stampEpoch_wf {slot d} (h : DevWf d) : DevWf (stampEpoch slot d) := by
  unfold stampEpoch
  extract_lets e d1 again
  have h1 : DevWf d1 := onJob_wf h fun _ hj => hj
  have ha : ∀ t, TileWf t → TileWf (again t) := by
    intro t ht
    dsimp only [again]
    cases d1.job? slot with
    | some j => exact reRank_wf ht
    | none => exact ht
  exact ⟨tilesMap_wf h1.tiles fun x hx => TileWf.ite (ha _ hx) hx, h1.brim, h1.areas, h1.jobs⟩

theorem tablesDone_wf {j} (hj : JobWf j) : JobWf (Job.tablesDone j) :=
  hj

theorem newRanks_wf {c j} (hj : JobWf j) : JobWf (Job.newRanks c j) :=
  hj

theorem execTableWriteDone_wf {turns x} (h : DevWf x.dev) : OutWf (execTableWriteDone turns x) := by
  unfold execTableWriteDone
  refine lift_wf h fun _ h1 => ?_
  split
  · exact h1
  · split
    · exact h1
    · dsimp only
      split
      · exact each_wf ⟨tilesMap_wf h1.tiles (fun _ h2 => TileWf.ite h2 h2), h1.brim, h1.areas, jobsMap_wf h1.jobs
            (fun _ h3 => newRanks_wf (JobWf.ite (tablesDone_wf h3) h3))⟩ fun _ _ h4 => stampEpoch_wf h4
      · exact DevWf.ite (finishCmd_wf (each_wf ⟨tilesMap_wf h1.tiles (fun _ h5 => TileWf.ite h5 h5), h1.brim,
            h1.areas, jobsMap_wf h1.jobs (fun _ h6 => newRanks_wf (JobWf.ite (tablesDone_wf h6) h6))⟩ (fun _ _ h7 =>
            stampEpoch_wf h7))) (each_wf (each_wf ⟨tilesMap_wf h1.tiles (fun _ h8 => TileWf.ite h8 h8), h1.brim,
            h1.areas, jobsMap_wf h1.jobs (fun _ h9 => newRanks_wf (JobWf.ite (tablesDone_wf h9) h9))⟩ (fun _ _ h10 =>
            stampEpoch_wf h10)) (fun _ _ h11 => answerChange_wf h11))

theorem execEpochChangeTimer_wf {j x} (h : DevWf x.dev) : OutWf (execEpochChangeTimer j x) := by
  unfold execEpochChangeTimer
  refine liftAt_wf h fun _ h1 => ?_
  split
  · exact h1
  · exact DevWf.ite (answerChange_wf (stampEpoch_wf h1)) h1

theorem execEpochRelease_wf {x} (h : DevWf x.dev) : OutWf (execEpochRelease x) := by
  unfold execEpochRelease
  refine lift_wf h fun _ h1 => ?_
  split
  · exact h1
  · exact DevWf.ite (each_wf h1 (fun _ _ h2 => answerChange_wf h2)) h1

/-! ### In-network reduction (R262-R266) -/

theorem redSend_wf {p e v level j down q lcc loc d} (h : DevWf d) : DevWf (redSend p e v level j down q lcc loc d) :=
  sendNumbered_wf h

theorem redWrite_wf {p e v d} (h : DevWf d) : DevWf (redWrite p e v d) := by
  unfold redWrite
  dsimp only
  split
  · exact h
  · split
    · exact faultTile_wf h
    · split
      · exact faultTile_wf h
      · rename_i t' e1
        have h1 : TileWf t' := (store_wf (tile_wf h)).some e1
        exact DevWf.ite (addCc_wf (setTile_wf h h1)) (setTile_wf h h1)

theorem redDown_wf {p e v l j d} (h : DevWf d) : DevWf (redDown p e v l j d) := by
  induction l generalizing j d with
  | zero => exact redWrite_wf h
  | succ l ih => exact ih (DevWf.ite (redSend_wf h) h)

theorem redDeliver_wf {p e v d} (h : DevWf d) : DevWf (redDeliver p e v d) :=
  DevWf.ite (redDown_wf h) (each_wf h (fun _ _ h1 => sendNumbered_wf h1))

theorem redEnter_wf {fuel p e v level j right d} (h : DevWf d) : DevWf (redEnter fuel p e v level j right d) := by
  induction fuel generalizing v level j right d with
  | zero => exact h
  | succ fuel ih =>
    have up : ∀ w x, DevWf x → DevWf (if level = e.top then redDeliver p e w x
        else if j % 2 = 1 then redSend p e w (level + 1) (j / 2) false ((j - 1) * 2 ^ level) none 0 x
        else redEnter fuel p e w (level + 1) (j / 2) false x) :=
      fun w x hx => DevWf.ite (redDeliver_wf hx) (DevWf.ite (redSend_wf hx) (ih hx))
    unfold redEnter
    dsimp only
    split
    · exact h
    · split
      · split
        · exact faultTile_wf h
        · have h1 : ∀ f : Tile → Net, DevWf (d.onTile p fun t => { t with net := f t }) := fun _ => onTile_wf h
              (tile_wf h)
          exact up _ _ (onTile_wf (h1 _) (wakeCause9_wf (tile_wf (h1 _))))
      · split
        · exact up _ _ h
        · exact DevWf.ite h (onTile_wf h (tile_wf h))

theorem redContribute_wf {p e q v lcc loc d} (h : DevWf d) : DevWf (redContribute p e q v lcc loc d) := by
  unfold redContribute
  dsimp only
  split
  · split
    · exact addCc_wf (redDeliver_wf h)
    · exact redDeliver_wf h
  · split
    · split
      · exact addCc_wf (redEnter_wf h)
      · exact redEnter_wf h
    · exact redSend_wf h

/-! ### DMA, HBM and deep channels (R276-R289) -/

theorem onRun_wf {id f d} (h : DevWf d) : DevWf (Dev.onRun id f d) :=
  h

theorem portLaunch_wf {pid run k o d} (h : DevWf d) : DevWf (portLaunch pid run k o d) :=
  portSend_wf (setPortTile_wf h)

theorem sendPuts_wf {j r pid k q off op loc bs d} (h : DevWf d) : DevWf (sendPuts j r pid k q off op loc bs d) :=
  each_wf h fun _ _ h1 => portLaunch_wf h1

theorem lineReport_wf {line e d} (h : DevWf d) : DevWf (lineReport line e d) := by
  unfold lineReport
  dsimp only
  split
  · exact h
  · exact h
  · exact DevWf.ite h h

theorem setDmaq_wf {q x t} (ht : TileWf t) : TileWf (Tile.setDmaq q x t) :=
  ht

theorem execDmaDescriptorStart_wf {t q x} (h : DevWf x.dev) : OutWf (execDmaDescriptorStart t q x) := by
  unfold execDmaDescriptorStart
  refine liftAt_wf h fun _ h1 => ?_
  split
  · split
    · exact h1
    · split
      · exact h1
      · split
        · exact faultTile_wf h1
        · rename_i t' e
          have h2 : TileWf t' := (load_wf (tile_wf h1)).some e
          exact setTile_wf h1 (setDmaq_wf h2)
  · exact h1

theorem endPiece_wf {id k c d} (h : DevWf d) : DevWf (endPiece id k c d) :=
  onRun_wf h

theorem gatherPiece_wf {eng j r x k q off d} (h : DevWf d) : DevWf (gatherPiece eng j r x k q off d) :=
  DevWf.ite h (DevWf.ite (endPiece_wf h) (DevWf.ite (endPiece_wf h) (DevWf.ite (endPiece_wf h) (DevWf.ite
      (endPiece_wf h) (DevWf.ite (endPiece_wf h) (DevWf.ite h (each_wf (onRun_wf h) (fun _ _ h1 => sendPuts_wf
      h1))))))))

theorem beginPiece_wf {eng j r k p line e d} (h : DevWf d) : DevWf (beginPiece eng j r k p line e d) := by
  unfold beginPiece
  dsimp only
  split
  · split
    · exact endPiece_wf h
    · split
      · exact h
      · split
        · exact DevWf.ite (endPiece_wf (lineReport_wf h)) (sendPuts_wf (onRun_wf (lineReport_wf h)))
        · exact DevWf.ite (endPiece_wf h) (sendPuts_wf (onRun_wf h))
  · split
    · exact endPiece_wf h
    · exact DevWf.ite h (each_wf (onRun_wf h) (fun _ _ h1 => portLaunch_wf h1))
  · split
    · exact endPiece_wf h
    · refine gatherPiece_wf ?_
      split
      · exact lineReport_wf h
      · exact h
  · split
    · exact h
    · split
      · exact DevWf.ite (endPiece_wf (lineReport_wf h)) (each_wf (onRun_wf (lineReport_wf h)) (fun _ _ h2 =>
            portLaunch_wf h2))
      · exact DevWf.ite (endPiece_wf h) (each_wf (onRun_wf h) (fun _ _ h3 => portLaunch_wf h3))

theorem execDmaPieceDone_wf {engine id piece line ecc x} (h : DevWf x.dev) :
    OutWf (execDmaPieceDone engine id piece line ecc x) := by
  unfold execDmaPieceDone
  refine liftAt_wf h fun _ h1 => ?_
  split
  · exact h1
  · split
    · split
      · exact h1
      · split
        · exact beginPiece_wf h1
        · exact DevWf.ite (endPiece_wf h1) h1
        · exact h1
    · exact h1

theorem finishRun_wf {r code d} (h : DevWf d) : DevWf (finishRun r code d) := by
  unfold finishRun
  extract_lets _ d1 d2 d3
  have h1 : DevWf d1 := ⟨h.tiles, h.brim, h.areas, h.jobs⟩
  have h2 : DevWf d2 := by
    refine onTile_wf h1 ?_
    split
    · exact setDmaq_wf (tile_wf h1)
    · exact tile_wf h1
  have h3 : DevWf d3 := onTile_wf h2 (wakeCause_wf (tile_wf h2))
  exact DevWf.ite h3 (DevWf.ite (eventOnce_wf h3) (faultTile_wf h3))

theorem sendRecord_wf {eng j r counter d} (h : DevWf d) : DevWf (sendRecord eng j r counter d) :=
  portLaunch_wf h

theorem execDmaComplete_wf {engine id x} (h : DevWf x.dev) : OutWf (execDmaComplete engine id x) := by
  unfold execDmaComplete
  refine liftAt_wf h fun _ h1 => ?_
  split
  · exact h1
  · split
    · exact h1
    · exact DevWf.ite h1 (DevWf.ite (finishRun_wf (addCc_wf h1)) (DevWf.ite h1 (sendRecord_wf (onRun_wf h1))))

theorem portAcked_wf {x d} (h : DevWf d) : DevWf (portAcked x d) := by
  unfold portAcked
  split
  · exact h
  · split
    · exact onRun_wf h
    · split
      · split
        · exact sendRecord_wf (onRun_wf h)
        · exact h
      · exact finishRun_wf h

theorem portFailed_wf {pid x code d} (h : DevWf d) : DevWf (portFailed pid x code d) := by
  unfold portFailed
  split
  · exact h
  · exact DevWf.ite (endPiece_wf (onPort_wf h)) (finishRun_wf h)

theorem portForget_wf {pid x d} (h : DevWf d) : DevWf (portForget pid x d) :=
  onPort_wf h

theorem portLate_wf {pid k d} (h : DevWf d) : DevWf (portLate pid k d) :=
  DevWf.ite h (appendLog_wf (onPort_wf h))

theorem portReissue_wf {pid x d} (h : DevWf d) : DevWf (portReissue pid x d) :=
  DevWf.ite (portFailed_wf (portForget_wf (DevWf.ite h (appendLog_wf (onPort_wf h))))) (DevWf.ite (portFailed_wf
      (portForget_wf (DevWf.ite h (appendLog_wf (onPort_wf h))))) (portSend_wf (onPort_wf (DevWf.ite h (appendLog_wf
      (onPort_wf h))))))

theorem commitPackets_wf {n fjob j l stuck d} (h : DevWf d) : DevWf (commitPackets n fjob j l stuck d).2 := by
  induction l generalizing stuck d with
  | nil => exact h
  | cons x r ih =>
    unfold commitPackets
    split
    · split
      · exact ih (sendFrame_wf h)
      · exact ih h
    · exact ih h

theorem commitHbm_wf {pid j d} (h : DevWf d) : DevWf (commitHbm pid j d) := by
  unfold commitHbm
  dsimp only
  refine each_wf (onPort_wf h) fun _ _ h1 => ?_
  split
  · exact ⟨h1.tiles, hbmWrite_wf h1.brim, h1.areas, h1.jobs⟩
  · exact h1

theorem execPortCommit_wf {port j x} (h : DevWf x.dev) : OutWf (execPortCommit port j x) := by
  unfold execPortCommit
  refine liftAt_wf h fun _ h1 => ?_
  split
  · exact h1
  · split
    · exact commitHbm_wf h1
    · exact onPort_wf (commitPackets_wf h1)

theorem execHbmScrubRead_wf {stack line ecc x} (h : DevWf x.dev) : OutWf (execHbmScrubRead stack line ecc x) :=
  liftAt_wf h fun _ h1 => DevWf.ite (DevWf.ite (appendLog_wf (lineReport_wf h1)) (lineReport_wf h1)) h1

theorem fifoIn_wf {f q k t} (ht : TileWf t) : TileWf (Tile.fifoIn f q k t) :=
  ⟨writeN_wf ht.mem, (noteMask_wf ht).prog⟩

theorem execDeepChannelForward_wf {t f x} (h : DevWf x.dev) : OutWf (execDeepChannelForward t f x) := by
  unfold execDeepChannelForward
  refine liftAt_wf h fun _ h1 => ?_
  dsimp only
  split
  · split
    · split
      · exact h1
      · split
        · exact faultTile_wf h1
        · rename_i t' e
          have h2 : TileWf t' := (load_wf (tile_wf h1)).some e
          exact send_wf (setTile_wf h1 h2)
    · exact h1
  · exact h1

/-! ### The front end of the mailboxes (R403-R414) -/

theorem finish_wf {logged r op st refusal payload d} (h : DevWf d) :
    DevWf (finish logged r op st refusal payload d) :=
  DevWf.ite (finishCmd_wf h) (respond_wf h)

theorem repeatAnswer_wf {r op s d} (h : DevWf d) : OptWf DevWf (repeatAnswer r op s d) := by
  unfold repeatAnswer
  split
  · exact emit_wf h
  · split
    · exact emit_wf h
    · exact trivial

theorem readRequest_wf {r d} (h : DevWf d) : OptWf DevWf (readRequest r d) := by
  unfold readRequest
  split
  · exact trivial
  · split
    · split
      · exact h
      · exact trivial
    · exact h

theorem entered_wf {r op logged d} (h : DevWf d) : ExceptWf (entered r op logged d) := by
  unfold entered
  split
  · exact h
  · rename_i d1 e1
    have h1 : DevWf d1 := (readRequest_wf h).some e1
    split
    · rename_i e2
      split at e2
      · cases e2
      · obtain ⟨s, _, hs⟩ := Option.bind_eq_some_iff.1 e2
        exact (repeatAnswer_wf h1).some hs
    · dsimp only
      split
      · exact finish_wf (onSession_wf h1)
      · exact onSession_wf h1

theorem request_wf {r op logged run d} (hf : ∀ x0, DevWf x0 → DevWf (run x0)) (h : DevWf d) :
    DevWf (request r op logged run d) := by
  unfold request
  split
  · rename_i d1 e
    have h1 : DevWf d1 := (entered_wf h).error e
    exact h1
  · rename_i d2 e1
    have h2 : DevWf d2 := (entered_wf h).ok e1
    exact hf _ h2

theorem requestBoot_wf {r op logged run b d} (hf : ∀ b d, DevWf d → DevWf (run b d).2) (h : DevWf d) :
    DevWf (requestBoot r op logged run b d).2 := by
  unfold requestBoot
  split
  · rename_i e
    exact (entered_wf h).error e
  · rename_i e
    exact hf _ _ ((entered_wf h).ok e)

theorem jobNamed_wf {d id} (h : DevWf d) : OptWf JobWf (Dev.jobNamed d id) := find_wf fun j hj => h.jobs j hj

theorem jobRequest_wf {r op logged run x} (hf : ∀ x0 x1, JobWf x0 → DevWf x1 → DevWf (run x0 x1)) (h : DevWf x) :
    DevWf (jobRequest r op logged run x) := by
  unfold jobRequest
  refine request_wf (fun _ h1 => ?_) h
  split
  · exact finish_wf h1
  · rename_i j e
    have h2 : JobWf j := (jobNamed_wf h1).some e
    exact DevWf.ite (finish_wf h1) (hf _ _ h2 h1)

theorem setPartial_wf {r op x d} (h : DevWf d) : DevWf (Dev.setPartial r op x d) :=
  h

theorem takePiece_wf {r op own p d} (h : DevWf d) : DevWf (takePiece r op own p d).2 := by
  unfold takePiece
  dsimp only
  split
  · exact setPartial_wf h
  · split
    · exact setPartial_wf h
    · split
      · exact setPartial_wf h
      · split <;> exact setPartial_wf h

theorem pieceCommand_wf {r op own p run d} (hf : ∀ x0 x1, DevWf x1 → DevWf (run x0 x1)) (h : DevWf d) :
    DevWf (pieceCommand r op own p run d) := by
  unfold pieceCommand
  split
  · rename_i d1 e
    have h1 : DevWf d1 := wf_snd (takePiece_wf h) e
    exact finish_wf h1
  · rename_i d2 e1
    have h2 : DevWf d2 := wf_snd (takePiece_wf h) e1
    exact answerCmd_wf h2
  · rename_i d3 e2
    have h3 : DevWf d3 := wf_snd (takePiece_wf h) e2
    exact hf _ _ h3

theorem answerPage_wf {r op x offset seq d} (h : DevWf d) : DevWf (answerPage r op x offset seq d) :=
  respond_wf h

theorem laterPage_wf {r op snap offset d} (h : DevWf d) : DevWf (laterPage r op snap offset d) := by
  unfold laterPage
  split
  · exact answerCmd_wf h
  · exact DevWf.ite (answerCmd_wf h) (answerPage_wf h)

theorem firstPage_wf {r op seq bytes d} (h : DevWf d) : DevWf (firstPage r op seq bytes d) :=
  answerPage_wf h

/-! ### Field voltage (R41, R361) -/

theorem onField_wf {f g d} (h : DevWf d) : DevWf (Dev.onField f g d) :=
  h

theorem retarget_wf {f d} (h : DevWf d) : DevWf (retarget f d) :=
  onField_wf h

theorem retargetAll_wf {d} (h : DevWf d) : DevWf (retargetAll d) :=
  each_wf h fun _ _ h1 => retarget_wf h1

theorem lowerTargets_wf {d} (h : DevWf d) : DevWf (lowerTargets d) :=
  each_wf h fun _ _ h1 => onField_wf h1

/-! ### Loading and starting jobs (R290-R294, R310-R313) -/

theorem newJob_wf {id slot ceiling now i} : JobWf (newJob id slot ceiling now i) := ⟨boundsNil_wf, trivial⟩

theorem loadJob_wf {r addr len d} (h : DevWf d) : DevWf (loadJob r addr len d) := by
  unfold loadJob
  dsimp only
  split
  · exact finishCmd_wf h
  · split
    · exact finishCmd_wf h
    · split
      · exact finishCmd_wf h
      · split
        · exact finishCmd_wf h
        · split
          · exact finishCmd_wf h
          · exact finishCmd_wf ⟨h.tiles, hbmWrite_wf h.brim, h.areas, jobsSnoc_wf h.jobs newJob_wf⟩

theorem homeProg_wf {d i t} : MemWf (homeProg d i t) := writeN_wf memNil_wf

theorem writeFifos_wf {t} (ht : TileWf t) : TileWf (Tile.writeFifos t) :=
  List.foldlRecOn _ _ ht fun _ h _ _ => List.foldlRecOn _ _ h fun _ h1 _ _ => overwrite_wf h1

theorem freshTile_wf {d j c} : TileWf (freshTile d j c) :=
  writeFifos_wf (List.foldlRecOn _ _ ⟨memNil_wf, homeProg_wf⟩ fun _ h _ _ => overwrite_wf h)

theorem deliverHome_wf {j d} (h : DevWf d) : DevWf (deliverHome j d) := by
  refine setTiles_wf h fun x hx => ?_
  obtain ⟨c, _, hc⟩ := List.mem_filterMap.1 hx
  obtain ⟨p, _, rfl⟩ := Option.map_eq_some_iff.1 hc
  exact freshTile_wf

theorem firstRecords_wf {j d} (h : DevWf d) : DevWf (firstRecords j d) := by
  unfold firstRecords
  dsimp only
  refine each_wf (each_wf h (fun _ _ h1 => ?_)) fun _ _ h2 => ?_
  · split
    · exact keepRecord_wf h1
    · exact h1
  · split
    · exact onTile_wf h2 (overwrite_wf (tile_wf h2))
    · exact h2

theorem fireIdle_wf {t} (ht : TileWf t) : TileWf (fireIdle t) := by
  unfold fireIdle
  refine List.foldlRecOn _ _ ht fun _ h _ _ => ?_
  split
  · exact fireSlot_wf h
  · exact h

theorem fireIdleTasks_wf {j d} (h : DevWf d) : DevWf (fireIdleTasks j d) :=
  each_wf h fun _ _ h1 => onTile_wf h1 (fireIdle_wf (tile_wf h1))

theorem goActive_wf {d} (h : DevWf d) : DevWf (Dev.goActive d) :=
  DevWf.ite h h

theorem resetFootprint_wf {i o d} (h : DevWf d) : DevWf (resetFootprint i o d) :=
  ⟨tilesFilter_wf h.tiles, h.brim, h.areas, h.jobs⟩

theorem buildFor_wf {i o d} (h : DevWf d) : DevWf (buildFor i o d) :=
  DevWf.ite h (startChange_wf h)

theorem occupy_wf {j ls o ph req d} (h : DevWf d) : DevWf (occupy j ls o ph req d) :=
  buildFor_wf (resetFootprint_wf (goActive_wf (onJob_wf (lowerTargets_wf h) (fun _ h1 => h1))))

theorem answerPause_wf {k d} (h : DevWf d) : DevWf (answerPause k d) := by
  unfold answerPause
  split
  · split
    · exact DevWf.ite (respond_wf (onJob_wf h (fun _ h1 => h1))) h
    · exact h
  · exact h

theorem outcome_wf {id o j} (hj : JobWf j) : JobWf (Job.outcome id o j) := by
  unfold Job.outcome
  split <;> exact hj

theorem successorDone_wf {id st code d} (h : DevWf d) : DevWf (successorDone id st code d) := by
  unfold successorDone
  dsimp only
  split
  · exact answerPause_wf (onJob_wf (cmdRecord_wf h) (fun _ h1 => outcome_wf h1))
  · exact cmdRecord_wf h

theorem placeOne_wf {start j d} (h : DevWf d) : DevWf (placeOne start j d) := by
  unfold placeOne
  split
  · exact occupy_wf h
  · dsimp only
    split
    · exact finishCmd_wf (onJob_wf h (fun _ h1 => h1))
    · exact DevWf.ite (successorDone_wf (onJob_wf h (fun _ h2 => h2))) (onJob_wf h (fun _ h3 => h3))

theorem placeQueue_wf {n d} (h : DevWf d) : DevWf (placeQueue n d) := by
  induction n generalizing d with
  | zero => exact h
  | succ n ih =>
    unfold placeQueue
    split
    · exact h
    · extract_lets _ go
      have hg : DevWf go := ⟨h.tiles, h.brim, h.areas, h.jobs⟩
      split
      · exact ih hg
      · exact DevWf.ite (ih (placeOne_wf hg)) (DevWf.ite (DevWf.ite (ih (placeOne_wf hg)) h) (ih hg))

theorem askPlace_wf {k d} (h : DevWf d) : DevWf (askPlace k d) :=
  placeQueue_wf h

theorem askStart_wf {j want req d} (h : DevWf d) : DevWf (askStart j want req d) :=
  askPlace_wf (onJob_wf h (fun _ h1 => h1))

theorem execStartJob_wf {r origin x} (h : DevWf x.dev) : OutWf (execStartJob r origin x) :=
  liftAt_wf h fun _ h1 => jobRequest_wf (fun _ _ _ h2 => DevWf.ite (finishCmd_wf h2) (askStart_wf h2)) h1

theorem startSuccessor_wf {id d} (h : DevWf d) : DevWf (startSuccessor id d) := by
  unfold startSuccessor
  split
  · exact successorDone_wf h
  · exact DevWf.ite (successorDone_wf h) (DevWf.ite (successorDone_wf h) (askStart_wf h))

theorem startFails_wf {j p code d} (h : DevWf d) : DevWf (startFails j p code d) := by
  unfold startFails
  dsimp only
  split
  · exact finishCmd_wf (stopJob_wf (appendLog_wf (onTile_wf h (recordFault_wf (tile_wf h)))))
  · exact successorDone_wf (stopJob_wf (appendLog_wf (onTile_wf h (recordFault_wf (tile_wf h)))))

theorem beginJob_wf {j d} (h : DevWf d) : DevWf (beginJob j d) := by
  unfold beginJob
  extract_lets d1 d2 d3 now d4
  have h1 : DevWf d1 := onJob_wf h fun _ _ => ⟨boundsNil_wf, trivial⟩
  have h4 : DevWf d4 := onJob_wf (fireIdleTasks_wf (firstRecords_wf h1)) fun _ hj => hj
  split
  · exact finishCmd_wf h4
  · exact successorDone_wf h4

theorem startDelivered_wf {j d} (h : DevWf d) : DevWf (startDelivered j d) := by
  unfold startDelivered
  dsimp only
  split
  · exact startFails_wf (deliverHome_wf h)
  · split
    · exact startFails_wf (deliverHome_wf h)
    · exact beginJob_wf (deliverHome_wf h)

theorem execStartDeliveryDone_wf {j x} (h : DevWf x.dev) : OutWf (execStartDeliveryDone j x) := by
  unfold execStartDeliveryDone
  refine liftAt_wf h fun _ h1 => ?_
  split
  · exact DevWf.ite (startDelivered_wf h1) h1
  · exact h1

/-! ### Halted jobs (R234-R238, R320-R323) -/

theorem dropWork_wf {k d} (h : DevWf d) : DevWf (dropWork k d) :=
  h

theorem commitAll_wf {j d} (h : DevWf d) : DevWf (commitAll j d) := by
  unfold commitAll
  refine each_wf h fun _ _ h1 => ?_
  split
  · exact commitHbm_wf h1
  · dsimp only
    refine each_wf (onPort_wf (commitPackets_wf h1)) fun _ _ h2 => ?_
    split
    · exact fabricOut_wf h2
    · exact h2

theorem freeTiles_wf {k d} (h : DevWf d) : DevWf (freeTiles k d) :=
  ⟨tilesMap_wf h.tiles (fun _ h1 => TileWf.ite h1 h1), h.brim, h.areas, h.jobs⟩

theorem forgetChange_wf {k d} (h : DevWf d) : DevWf (forgetChange k d) :=
  h

theorem offWafer_wf {j} (hj : JobWf j) : JobWf (Job.offWafer j) :=
  hj

theorem vacate_wf {j d} (h : DevWf d) : DevWf (vacate j d) :=
  onJob_wf (forgetChange_wf (freeTiles_wf (dropWork_wf (commitAll_wf h)))) fun _ h1 => offWafer_wf h1

theorem kept_wf {ceiling now j} : JobWf (Job.kept ceiling now j) := ⟨boundsNil_wf, trivial⟩

theorem predecessorDone_wf {id d} (h : DevWf d) : DevWf (predecessorDone id d) :=
  placeQueue_wf ⟨h.tiles, h.brim, h.areas, jobsMap_wf h.jobs (fun _ h1 => h1)⟩

theorem unloadNow_wf {j discard req d} (h : DevWf d) : DevWf (unloadNow j discard req d) := by
  unfold unloadNow
  dsimp only
  split
  · exact finishCmd_wf (DevWf.ite ⟨(vacate_wf h).tiles, (vacate_wf h).brim, (vacate_wf h).areas, jobsFilter_wf
        ((vacate_wf h).jobs)⟩ (onJob_wf (vacate_wf h) (fun _ _ => kept_wf)))
  · exact predecessorDone_wf (cmdRecord_wf (DevWf.ite ⟨(vacate_wf h).tiles, (vacate_wf h).brim, (vacate_wf h).areas,
        jobsFilter_wf ((vacate_wf h).jobs)⟩ (onJob_wf (vacate_wf h) (fun _ _ => kept_wf))))

theorem unload_wf {j discard req d} (h : DevWf d) : DevWf (unload j discard req d) :=
  DevWf.ite (onJob_wf h (fun _ h1 => h1)) (DevWf.ite (onJob_wf h (fun _ h2 => h2)) (unloadNow_wf h))

theorem execResumeJob_wf {r origin pred x} (h : DevWf x.dev) : OutWf (execResumeJob r origin pred x) := by
  unfold execResumeJob
  refine liftAt_wf h fun _ h1 => jobRequest_wf (fun _ _ _ h2 => ?_) h1
  split
  · exact finishCmd_wf h2
  · split
    · exact finishCmd_wf h2
    · split
      · exact finishCmd_wf h2
      · dsimp only
        refine each_wf (askPlace_wf (onJob_wf h2 (fun _ h3 => h3))) fun _ _ h4 => ?_
        split
        · exact unload_wf h4
        · exact h4

theorem execJobStopQuiesceEnd_wf {j x} (h : DevWf x.dev) : OutWf (execJobStopQuiesceEnd j x) := by
  unfold execJobStopQuiesceEnd
  refine liftAt_wf h fun _ h1 => ?_
  split
  · exact h1
  · split
    · split
      · exact unloadNow_wf h1
      · exact onJob_wf h1 fun _ h2 => h2
    · exact h1

theorem freeCode_wf {d} (h : DevWf d) : DevWf (freeCode d).2 :=
  h

theorem finishDrydown_wf {j area d} (h : DevWf d) : DevWf (finishDrydown j area d) := by
  unfold finishDrydown
  split
  rename_i bs d1 e
  have h1 : DevWf d1 := wf_snd (dryBytes_wf h) e
  extract_lets d2 d3
  have h2 : DevWf d2 := ⟨h1.tiles, hbmWrite_wf h1.brim, h1.areas, h1.jobs⟩
  have h3 : DevWf d3 := onJob_wf h2 fun _ hj => hj
  split
  rename_i e4
  have h4 := wf_snd (freeCode_wf h3) e4
  dsimp only
  split
  · exact finishCmd_wf (appendLog_wf h4)
  · exact appendLog_wf h4

theorem execDrydownComplete_wf {j x} (h : DevWf x.dev) : OutWf (execDrydownComplete j x) := by
  unfold execDrydownComplete
  refine liftAt_wf h fun _ h1 => ?_
  split
  · exact h1
  · split
    · exact DevWf.ite (finishDrydown_wf h1) h1
    · exact h1

theorem stopByHost_wf {j d} (h : DevWf d) : DevWf (stopByHost j d) :=
  onJob_wf h fun _ h1 => h1

theorem execDrydown_wf {r addr len x} (h : DevWf x.dev) : OutWf (execDrydown r addr len x) := by
  unfold execDrydown
  refine liftAt_wf h fun _ h1 => jobRequest_wf (fun _ _ _ h2 => ?_) h1
  split
  · exact finishCmd_wf h2
  · split
    · exact finishCmd_wf h2
    · exact onJob_wf (DevWf.ite (stopByHost_wf h2) (onJob_wf h2 (fun _ h3 => h3))) fun _ h4 => h4

/-! ### Pausing and resuming (R314-R322) -/

theorem shutGates_wf {j} (hj : JobWf j) : JobWf (Job.shutGates j) :=
  hj

theorem execPauseJob_wf {r mode succ x} (h : DevWf x.dev) : OutWf (execPauseJob r mode succ x) :=
  liftAt_wf h fun _ h1 => jobRequest_wf (fun _ _ _ h2 => DevWf.ite (finishCmd_wf h2) (DevWf.ite (finishCmd_wf h2)
      (onJob_wf h2 (fun _ h3 => JobWf.ite (shutGates_wf h3) h3)))) h1

theorem leaveBoundary_wf {k ok d} (h : DevWf d) : DevWf (leaveBoundary k ok d) := by
  unfold leaveBoundary
  split
  · exact DevWf.ite (onJob_wf h (fun _ h1 => shutGates_wf h1)) h
  · exact h

theorem takeHeld_wf {k d} (h : DevWf d) : DevWf (takeHeld k d) :=
  h

theorem reopen_wf {j} (hj : JobWf j) : JobWf (Job.reopen j) :=
  hj

theorem saveHeld_wf {k d} (h : DevWf d) : DevWf (saveHeld k d) :=
  takeHeld_wf (onJob_wf h fun _ hj => ⟨hj.bounds, placedNil_wf⟩)

theorem execPauseQuiesceDone_wf {j x} (h : DevWf x.dev) : OutWf (execPauseQuiesceDone j x) := by
  unfold execPauseQuiesceDone
  refine liftAt_wf h fun _ h1 => ?_
  split
  · exact h1
  · split
    · exact h1
    · split
      · split
        · exact finishCmd_wf (onJob_wf h1 (fun _ h2 => reopen_wf h2))
        · exact onJob_wf h1 fun _ h3 => reopen_wf h3
      · exact saveHeld_wf h1

theorem writeFixed_wf {j x t d} (h : DevWf d) : DevWf (writeFixed j x t d) := by
  unfold writeFixed
  split
  · exact h
  · exact ⟨h.tiles, hbmWrite_wf (hbmWrite_wf h.brim), h.areas, h.jobs⟩

theorem allBulk_wf {l d} (h : DevWf d) : DevWf (allBulk l d).2 := by
  induction l generalizing d with
  | nil => exact h
  | cons t r ih => exact ih (bulkBytes_wf h)

theorem writePause_wf {j tiles log d} (h : DevWf d) : DevWf (writePause j tiles log d).2 := by
  unfold writePause
  dsimp only
  exact ⟨(allBulk_wf (each_wf h (fun _ _ h1 => writeFixed_wf h1))).tiles, hbmWrite_wf (hbmWrite_wf (hbmWrite_wf
      ((allBulk_wf (each_wf h (fun _ _ h2 => writeFixed_wf h2))).brim))), (allBulk_wf (each_wf h (fun _ _ h3 =>
      writeFixed_wf h3))).areas, (allBulk_wf (each_wf h (fun _ _ h4 => writeFixed_wf h4))).jobs⟩

theorem readFixed_wf {d base x} : MemWf (readFixed d base x) := writeN_wf memNil_wf

theorem scanOut_wf {j d} (h : DevWf d) : DevWf (scanOut j d) := by
  unfold scanOut
  extract_lets tiles links log r s
  have hs : SavedWf s := by
    intro x hx
    obtain ⟨y, hy, rfl⟩ := List.mem_map.1 hx
    obtain ⟨c, _, hc⟩ := List.mem_filterMap.1 hy
    obtain ⟨p, _, rfl⟩ := Option.map_eq_some_iff.1 hc
    exact unplaced_wf (scrub_wf (tile_wf h))
  exact onJob_wf (writePause_wf h) fun _ hj => ⟨hj.bounds, hs⟩

theorem leaveSaved_wf {k d} (h : DevWf d) : DevWf (leaveSaved k d) :=
  onJob_wf (forgetChange_wf (freeTiles_wf h)) fun _ h1 => offWafer_wf h1

theorem pauseDone_wf {j d} (h : DevWf d) : DevWf (pauseDone j d) := by
  unfold pauseDone
  dsimp only
  split
  · exact onJob_wf (leaveSaved_wf (scanOut_wf h)) fun _ h1 => h1
  · exact answerPause_wf (each_wf (cmdRecord_wf (onJob_wf (leaveSaved_wf (scanOut_wf h)) (fun _ h2 => h2))) (fun _ _
        h3 => startSuccessor_wf h3))

theorem execPauseScanOutDone_wf {j x} (h : DevWf x.dev) : OutWf (execPauseScanOutDone j x) := by
  unfold execPauseScanOutDone
  refine liftAt_wf h fun _ h1 => ?_
  split
  · exact DevWf.ite (pauseDone_wf h1) h1
  · exact h1

theorem scanTile_wf {d j x t} (ht : TileWf t) : TileWf (scanTile d j x t) :=
  ⟨readFixed_wf, ht.prog⟩

theorem returnHeld_wf {j x d} (h : DevWf d) : DevWf (returnHeld j x d) := by
  unfold returnHeld
  split <;> exact holdWrite_wf h

theorem scanIn_wf {j s d} (hs : SavedWf s) (h : DevWf d) : DevWf (scanIn j s d) := by
  unfold scanIn
  extract_lets new d1 _ d2
  have h1 : DevWf d1 := by
    refine setTiles_wf h fun x hx => ?_
    obtain ⟨c, _, hc⟩ := List.mem_filterMap.1 hx
    split at hc
    · rename_i e _
      cases hc
      exact scanTile_wf (hs _ (List.mem_of_find?_eq_some e))
    · cases hc
  have h2 : DevWf d2 := ⟨h1.tiles, h1.brim, h1.areas, h1.jobs⟩
  exact each_wf h2 fun _ _ h => returnHeld_wf h

theorem resumeNow_wf {now j} (hj : JobWf j) : JobWf (Job.resumeNow now j) :=
  ⟨hj.bounds, trivial⟩

theorem resumeFails_wf {j d} (h : DevWf d) : DevWf (resumeFails j d) := by
  unfold resumeFails
  dsimp only
  split
  · exact finishCmd_wf (onJob_wf (freeTiles_wf h) (fun _ h1 => h1))
  · exact onJob_wf (freeTiles_wf h) fun _ h2 => h2

theorem execResumeScanInDone_wf {j x} (h : DevWf x.dev) : OutWf (execResumeScanInDone j x) := by
  unfold execResumeScanInDone
  refine liftAt_wf h fun _ h1 => ?_
  split
  · exact h1
  · rename_i j1 e
    have h2 : JobWf j1 := (job?_wf h1).some e
    split
    · rename_i s _ e1
      have h3 : SavedWf s := h2.saved.some e1
      split
      · exact h1
      · split
        · exact resumeFails_wf h1
        · dsimp only
          split
          · exact finishCmd_wf (onJob_wf (scanIn_wf h3 h1) (fun _ h4 => resumeNow_wf h4))
          · exact onJob_wf (scanIn_wf h3 h1) fun _ h5 => resumeNow_wf h5
    · exact h1

/-! ### Recoveries (R336-R348) -/

theorem unsave_wf {k d} (h : DevWf d) : DevWf (unsave k d) := by
  unfold unsave
  split
  · split
    · exact each_wf (onJob_wf h (fun _ h1 => ⟨h1.bounds, trivial⟩)) fun _ _ h2 => returnHeld_wf h2
    · exact h
  · exact h

theorem placeAnew_wf {j d} (h : DevWf d) : DevWf (placeAnew j d) :=
  placeOne_wf (onJob_wf (freeTiles_wf h) (fun _ h1 => h1))

theorem placeElse_wf {j d} (h : DevWf d) : DevWf (placeElse j d) :=
  DevWf.ite (startChange_wf (onJob_wf (freeTiles_wf h) (fun _ h1 => h1))) (placeAnew_wf h)

theorem loseBlank_wf {j p d} (h : DevWf d) : DevWf (loseBlank j p d) :=
  DevWf.ite (startChange_wf (condemn_wf (DevWf.ite (appendLog_wf h) h))) (placeElse_wf (condemn_wf (DevWf.ite
      (appendLog_wf h) h)))

theorem losePos_wf {p code d} (h : DevWf d) : DevWf (losePos p code d) := by
  unfold losePos
  split
  · exact condemn_wf h
  · exact DevWf.ite (condemn_wf h) (DevWf.ite (loseBlank_wf h) (DevWf.ite (condemn_wf h) (loseTile_wf (unsave_wf h))))

theorem dropRuns_wf {k d} (h : DevWf d) : DevWf (dropRuns k d) :=
  h

theorem discardHeld_wf {k s d} (h : DevWf d) : DevWf (discardHeld k s d) :=
  h

theorem afterQuiesce_wf {j d} (h : DevWf d) : DevWf (afterQuiesce j d) :=
  DevWf.ite (onJob_wf h (fun _ h1 => h1)) (startChange_wf (onJob_wf (each_wf h (fun _ _ h2 => condemn_wf h2)) (fun _
      h3 => h3)))

theorem execRollbackQuiesceDone_wf {j x} (h : DevWf x.dev) : OutWf (execRollbackQuiesceDone j x) := by
  unfold execRollbackQuiesceDone
  refine liftAt_wf h fun _ h1 => ?_
  split
  · exact h1
  · exact DevWf.ite (afterQuiesce_wf (discardHeld_wf (dropRuns_wf h1))) h1

theorem restoredTile_wf {d j s c cur} (ht : TileWf cur) : TileWf (restoredTile d j s c cur) := by
  unfold restoredTile
  dsimp only
  refine writeFifos_wf ?_
  unfold restoreMemory
  dsimp only
  refine List.foldlRecOn _ _ (List.foldlRecOn _ _ ht fun _ h1 _ _ => TileWf.ite ⟨writeN_wf h1.mem, (noteMask_wf
      h1).prog⟩ (overwrite_wf h1)) fun _ h2 _ _ => ?_
  split
  · exact h2
  · exact ⟨writeN_wf h2.mem, (noteMask_wf h2).prog⟩

theorem linkCredits_wf {d j links tiles x} (hx : TileWf x.2) : TileWf (linkCredits d j links tiles x).2 := by
  refine List.foldlRecOn _ _ hx fun t ht r _ => ?_
  dsimp only
  split
  · split
    · exact setPort_wf ht
    · exact ht
  · exact ht

theorem rollTiles_wf {d j s cur} (hc : ∀ c, TileWf (cur c)) : PlacedWf (rollTiles d j s cur).1 := by
  intro x hx
  obtain ⟨y, hy, rfl⟩ := List.mem_map.1 hx
  obtain ⟨c, _, rfl⟩ := List.mem_map.1 hy
  exact linkCredits_wf (restoredTile_wf (hc c))

theorem freshSlot_wf {d j c} : TileWf (freshSlot d j c) := by
  unfold freshSlot
  dsimp only
  split <;> exact freshTile_wf

theorem servingTile_wf {d j c} (h : DevWf d) : TileWf (servingTile d j c) := by
  unfold servingTile
  split
  · exact tile_wf h
  · exact freshTile_wf

theorem tileOrFresh_wf {d j c} (h : DevWf d) : TileWf (tileOrFresh d j c) := by
  unfold tileOrFresh
  split
  · exact TileWf.ite (tile_wf h) freshSlot_wf
  · exact freshSlot_wf

theorem redeliver_wf {j d} (h : DevWf d) : DevWf (redeliver j d) :=
  each_wf h fun _ _ h1 => each_wf h1 fun _ _ h2 => deliverHere_wf h2

theorem rolled_wf {s now crossed j} (hj : JobWf j) : JobWf (Job.rolled s now crossed j) :=
  hj

theorem restartPause_wf {again k d} (h : DevWf d) : DevWf (restartPause again k d) :=
  DevWf.ite (onJob_wf h (fun _ h1 => shutGates_wf h1)) h

theorem refire_wf {j s d} (h : DevWf d) : DevWf (refire j s d) :=
  DevWf.ite (fireIdleTasks_wf h) h

theorem restoreJob_wf {j d} (h : DevWf d) : DevWf (restoreJob j d) := by
  unfold restoreJob
  extract_lets s
  split
  rename_i tiles links e
  have ht : PlacedWf tiles := by
    have := rollTiles_wf (d := d) (j := j) (s := s) fun c => servingTile_wf (j := j) (c := c) h
    rwa [e] at this
  extract_lets d1 _ d2 d3 d4 d5 d6
  have h1 : DevWf d1 := by
    refine List.foldlRecOn _ _ h fun d hd x hx => ?_
    dsimp only
    split
    · exact setTile_wf hd (ht x hx)
    · exact hd
  have h2 : DevWf d2 := ⟨h1.tiles, h1.brim, h1.areas, h1.jobs⟩
  have h5 : DevWf d5 := redeliver_wf (refire_wf (onJob_wf h2 fun _ hj => rolled_wf hj))
  exact restartPause_wf (DevWf.ite (each_wf h5 fun _ _ h => appendLog_wf h) h5)

theorem execRollbackRestoreDone_wf {j x} (h : DevWf x.dev) : OutWf (execRollbackRestoreDone j x) := by
  unfold execRollbackRestoreDone
  refine liftAt_wf h fun _ h1 => ?_
  split
  · exact DevWf.ite (restoreJob_wf h1) h1
  · exact h1

theorem execTakeoverLoadDone_wf {j x} (h : DevWf x.dev) : OutWf (execTakeoverLoadDone j x) := by
  unfold execTakeoverLoadDone
  refine liftAt_wf h fun d hd => ?_
  split
  · exact hd
  · split
    · exact hd
    · extract_lets new
      split
      · exact faultTile_wf (onJob_wf (onTile_wf hd (tile_wf hd)) fun _ hj => hj)
      · refine onJob_wf (setTiles_wf hd fun y hy => ?_) fun _ hj => hj
        obtain ⟨z, _, rfl⟩ := List.mem_map.1 hy
        exact freshSlot_wf

theorem saveRolled_wf {j d} (h : DevWf d) : DevWf (saveRolled j d) := by
  unfold saveRolled
  extract_lets s
  split
  rename_i tiles links e
  have ht : PlacedWf tiles := by
    have := rollTiles_wf (d := d) (j := j) (s := s) fun c => tileOrFresh_wf (j := j) (c := c) h
    rwa [e] at this
  extract_lets j' r
  refine onJob_wf (writePause_wf h) fun _ hx => ⟨hx.bounds, fun y hy => ?_⟩
  obtain ⟨z, hz, rfl⟩ := List.mem_map.1 hy
  exact unplaced_wf (ht z hz)

theorem placeAgain_wf {j d} (h : DevWf d) : DevWf (placeAgain j d) := by
  unfold placeAgain
  dsimp only
  split
  · exact onJob_wf (occupy_wf (leaveSaved_wf h)) fun _ h1 => h1
  · split
    · exact answerPause_wf (each_wf (cmdRecord_wf (appendLog_wf (onJob_wf (leaveSaved_wf h) (fun _ h2 => h2)))) (fun
          _ _ h3 => startSuccessor_wf h3))
    · exact appendLog_wf (onJob_wf (leaveSaved_wf h) (fun _ h4 => h4))

theorem execReplacementScanOutDone_wf {j x} (h : DevWf x.dev) : OutWf (execReplacementScanOutDone j x) := by
  unfold execReplacementScanOutDone
  refine liftAt_wf h fun _ h1 => ?_
  split
  · exact DevWf.ite (placeAgain_wf (DevWf.ite h1 (saveRolled_wf h1))) h1
  · exact h1

theorem execReplacementResumeDone_wf {j x} (h : DevWf x.dev) : OutWf (execReplacementResumeDone j x) := by
  unfold execReplacementResumeDone
  refine liftAt_wf h fun _ h1 => ?_
  split
  · exact h1
  · rename_i j1 e
    have h2 : JobWf j1 := (job?_wf h1).some e
    split
    · rename_i s _ e1
      have h3 : SavedWf s := h2.saved.some e1
      exact DevWf.ite h1 (restartPause_wf (redeliver_wf (refire_wf (onJob_wf (scanIn_wf h3 h1) (fun _ h4 =>
          ⟨h4.bounds, trivial⟩)))))
    · exact h1

theorem hitByField_wf {f code j d} (h : DevWf d) : DevWf (hitByField f code j d) :=
  DevWf.ite (placeElse_wf h) (DevWf.ite h (DevWf.ite (startRecovery_wf (unsave_wf h)) (DevWf.ite (onJob_wf
      (stopJob_wf (unsave_wf h)) (fun _ h1 => h1)) (onJob_wf h (fun _ h2 => h2)))))

theorem isolateField_wf {f code d} (h : DevWf d) : DevWf (isolateField f code d) :=
  DevWf.ite h (startChange_wf (each_wf (appendLog_wf h) (fun _ _ h1 => hitByField_wf h1)))

/-! ### The energy ledger (R351-R365) -/

theorem release_wf {now j} (hj : JobWf j) : JobWf (Job.release now j) :=
  hj

theorem execGateOpen_wf {j x} (h : DevWf x.dev) : OutWf (execGateOpen j x) := by
  unfold execGateOpen
  refine liftAt_wf h fun _ h1 => ?_
  split
  · exact h1
  · exact DevWf.ite h1 (DevWf.ite (onJob_wf h1 (fun _ h2 => h2)) (retargetAll_wf (onJob_wf (DevWf.ite (onJob_wf
        (appendLog_wf h1) (fun _ h3 => h3)) h1) (fun _ h4 => release_wf h4))))

theorem closeStep_wf {actual again j} (hj : JobWf j) : JobWf (Job.closeStep actual again j).1 :=
  iteJob_wf hj (iteJob_wf hj (iteJob_wf hj hj))

theorem closeSteps_wf {eInt t0 l k j} (hj : JobWf j) : JobWf (closeSteps eInt t0 l k j).1 := by
  induction l generalizing k j with
  | nil => exact hj
  | cons x r ih =>
    obtain ⟨t, again⟩ := x
    unfold closeSteps
    extract_lets upTo
    split
    rename_i e
    have hc : JobWf _ := wf_fst (iteJob_wf (closeStep_wf hj) hj) e
    exact ih hc

theorem chargeJob_wf {eInt t0 k d} (h : DevWf d) : DevWf (chargeJob eInt t0 k d) := by
  unfold chargeJob
  split
  · exact h
  · rename_i j e
    have h1 : JobWf j := (job?_wf h).some e
    exact each_wf (onJob_wf h (fun _ _ => closeSteps_wf h1)) fun _ _ h2 => appendLog_wf h2

theorem runLimiter_wf {input d} (h : DevWf d) : DevWf (runLimiter input d) :=
  DevWf.ite (appendLog_wf h) h

theorem runThermal_wf {r f d} (h : DevWf d) : DevWf (runThermal r f d) :=
  DevWf.ite (onField_wf h) (DevWf.ite (isolateField_wf (DevWf.ite (appendLog_wf (onField_wf h)) (onField_wf h)))
      (DevWf.ite (appendLog_wf (onField_wf h)) (onField_wf h)))

theorem runDuty_wf {f d} (h : DevWf d) : DevWf (runDuty f d) :=
  retarget_wf (onField_wf h)

theorem rewriteMirror_wf {time d} (h : DevWf d) : DevWf (rewriteMirror time d) :=
  h

theorem applyStrike_wf {x d} (h : DevWf d) : DevWf (applyStrike x d) := by
  unfold applyStrike
  split
  · exact DevWf.ite h (onTile_wf h (TileWf.ite (tile_wf h) (TileWf.ite (tile_wf h) (tile_wf h))))
  · exact DevWf.ite (onTile_wf h (onSlot_wf (tile_wf h))) h

theorem markWaits_wf {d} (h : DevWf d) : DevWf (markWaits d) :=
  ⟨h.tiles, h.brim, h.areas, jobsMap_wf h.jobs (fun _ h1 => JobWf.ite h1 h1)⟩

theorem closeInterval_wf {r d} (h : DevWf d) : DevWf (closeInterval r d) :=
  rewriteMirror_wf (markWaits_wf (each_wf (each_wf (runLimiter_wf (each_wf (DevWf.ite ⟨(each_wf h (fun _ _ h1 =>
      applyStrike_wf h1)).tiles, (each_wf h (fun _ _ h2 => applyStrike_wf h2)).brim, (each_wf h (fun _ _ h3 =>
      applyStrike_wf h3)).areas, jobsMap_wf ((each_wf h (fun _ _ h4 => applyStrike_wf h4)).jobs) (fun _ h5 => h5)⟩
      (each_wf h (fun _ _ h6 => applyStrike_wf h6))) (fun _ _ h7 => chargeJob_wf h7))) (fun _ _ h8 => runThermal_wf
      h8)) (fun _ _ h9 => runDuty_wf h9)))

theorem execLedgerInterval_wf {r x} (h : DevWf x.dev) : OutWf (execLedgerInterval r x) := by
  unfold execLedgerInterval
  refine lift_wf h fun _ h1 => ?_
  split
  · exact closeInterval_wf h1
  · exact closeInterval_wf h1
  · exact closeInterval_wf h1
  · exact DevWf.ite (closeInterval_wf h1) h1
  · exact h1

theorem execIdleEntry_wf {x} (h : DevWf x.dev) : OutWf (execIdleEntry x) :=
  lift_wf h fun _ h1 => DevWf.ite h1 h1

theorem execSetEnvelope_wf {r penv tw a clearCaps x} (h : DevWf x.dev) :
    OutWf (execSetEnvelope r penv tw a clearCaps x) :=
  liftAt_wf h fun _ h1 => request_wf (fun _ h2 => DevWf.ite (finishCmd_wf h2) (finishCmd_wf h2)) h1

theorem execReadLedger_wf {r snap offset time most x} (h : DevWf x.dev) :
    OutWf (execReadLedger r snap offset time most x) :=
  liftAt_wf h fun _ h1 => request_wf (fun _ h2 => DevWf.ite (laterPage_wf h2) (DevWf.ite (answerCmd_wf h2)
      (firstPage_wf h2))) h1

/-! ### Power states (R366-R370, R452-R464) -/

theorem dark_wf {d} : DevWf (Dev.dark d) :=
  ⟨tilesNil_wf, memNil_wf, memNil_wf, jobsNil_wf⟩

theorem emergency_wf {cause b d} : DevWf (emergency cause b d).2 := by
  unfold emergency
  split
  rename_i d1 e
  have h1 : DevWf d1 := wf_snd dark_wf e
  exact h1

theorem execUndervoltage_wf {x} (h : DevWf x.dev) : OutWf (execUndervoltage x) := by
  unfold execUndervoltage
  refine liftBoot_wf h fun _ _ h1 => ?_
  split
  · split
    rename_i d e
    have h2 : DevWf d := wf_snd emergency_wf e
    exact h2
  · exact h1

theorem coolingEmergency_wf {b d} (h : DevWf d) : DevWf (coolingEmergency b d).2 := by
  unfold coolingEmergency
  split
  · split
    rename_i d1 e
    have h1 : DevWf d1 := wf_snd emergency_wf e
    exact h1
  · exact h

theorem execStandbyDomainStop_wf {x} (h : DevWf x.dev) : OutWf (execStandbyDomainStop x) := by
  unfold execStandbyDomainStop
  refine liftBoot_wf h fun _ _ h1 => ?_
  split
  rename_i d e
  have h2 : DevWf d := wf_snd dark_wf e
  exact h2

theorem execInputApplied_wf {x} (h : DevWf x.dev) : OutWf (execInputApplied x) :=
  lift_wf h fun _ h1 => DevWf.ite h1 h1

theorem execInputQualified_wf {x} (h : DevWf x.dev) : OutWf (execInputQualified x) := by
  unfold execInputQualified
  refine liftBoot_wf h fun _ _ h1 => ?_
  split <;> exact h1

theorem execWakeN_wf {x} (h : DevWf x.dev) : OutWf (execWakeN x) :=
  lift_wf h fun _ h1 => DevWf.ite h1 h1

theorem execStartConditionsMet_wf {x} (h : DevWf x.dev) : OutWf (execStartConditionsMet x) :=
  lift_wf h fun _ h1 => DevWf.ite h1 h1

theorem execPowerState_wf {r target x} (h : DevWf x.dev) : OutWf (execPowerState r target x) := by
  unfold execPowerState
  split
  · exact outFault_wf
  · refine liftBoot_wf h fun _ _ h1 => requestBoot_wf (fun _ _ h2 => ?_) h1
    dsimp only
    split
    · exact finishCmd_wf h2
    · split
      · exact finishCmd_wf h2
      · split
        · exact DevWf.ite (DevWf.ite (finishCmd_wf h2) h2) (DevWf.ite (finishCmd_wf h2) (finishCmd_wf h2))
        · exact DevWf.ite h2 (finishCmd_wf h2)

theorem fieldsOff_wf {d} (h : DevWf d) : DevWf (fieldsOff d) :=
  each_wf h fun _ _ h1 => onField_wf h1

theorem endMove_wf {state d} (h : DevWf d) : DevWf (endMove state d) := by
  unfold endMove
  dsimp only
  split
  · exact finishCmd_wf h
  · exact h

theorem execPowerTransitionDone_wf {x} (h : DevWf x.dev) : OutWf (execPowerTransitionDone x) := by
  unfold execPowerTransitionDone
  refine lift_wf h fun _ h1 => ?_
  split
  · exact endMove_wf (fieldsOff_wf ⟨tilesNil_wf, h1.brim, h1.areas, h1.jobs⟩)
  · exact endMove_wf h1
  · exact h1

theorem execStandbyEntry_wf {x} (h : DevWf x.dev) : OutWf (execStandbyEntry x) := by
  unfold execStandbyEntry
  refine liftBoot_wf h fun _ _ h1 => ?_
  split
  · exact dark_wf
  · exact h1

theorem endWork_wf {d} (h : DevWf d) : DevWf (endWork d) :=
  each_wf h fun _ _ h1 => stopJob_wf h1

theorem execHbmOrOpticalSupplyFault_wf {side optical x} (h : DevWf x.dev) :
    OutWf (execHbmOrOpticalSupplyFault side optical x) := by
  unfold execHbmOrOpticalSupplyFault
  refine liftAt_wf h fun _ h1 => ?_
  split
  · exact DevWf.ite (endWork_wf h1) ⟨(endWork_wf h1).tiles, filter_wf ((endWork_wf h1).brim), (endWork_wf h1).areas,
        (endWork_wf h1).jobs⟩
  · exact DevWf.ite (endWork_wf h1) ⟨(endWork_wf h1).tiles, filter_wf ((endWork_wf h1).brim), (endWork_wf h1).areas,
        (endWork_wf h1).jobs⟩
  · exact DevWf.ite (endWork_wf h1) ⟨(endWork_wf h1).tiles, filter_wf ((endWork_wf h1).brim), (endWork_wf h1).areas,
        (endWork_wf h1).jobs⟩
  · exact DevWf.ite (endWork_wf h1) ⟨(endWork_wf h1).tiles, filter_wf ((endWork_wf h1).brim), (endWork_wf h1).areas,
        (endWork_wf h1).jobs⟩
  · exact h1

theorem execTapInstruction_wf {i x} (h : DevWf x.dev) : OutWf (execTapInstruction i x) :=
  OutWf.ite (outNext_wf h) (OutWf.ite outRefused_wf (lift_wf h (fun _ h1 => DevWf.ite (emit_wf h1) h1)))

/-! ### The start of the module (R371-R398) -/

theorem reportCause_wf {detail d} (h : DevWf d) : DevWf (reportCause detail d) :=
  appendLog_wf h

theorem execModuleStart_wf {x} (h : DevWf x.dev) : OutWf (execModuleStart x) :=
  liftBoot_wf h fun _ _ h1 => iteSnd_wf h1 (iteSnd_wf (DevWf.ite h1 (reportCause_wf h1)) ⟨h1.tiles, h1.brim,
      memNil_wf, h1.jobs⟩)

theorem firstRecord_wf {detail d} (h : DevWf d) : DevWf (firstRecord detail d) := by
  unfold firstRecord
  split
  rename_i c d1 e
  have h1 : DevWf d1 := wf_snd (iteSnd_wf (freeCode_wf h) h) e
  extract_lets _ d2
  have h2 : DevWf d2 := reportCause_wf ⟨h1.tiles, h1.brim, h1.areas, h1.jobs⟩
  split
  · split
    rename_i d3 e3
    have h3 : DevWf d3 := wf_snd (freeCode_wf h2) e3
    exact appendLog_wf ⟨h3.tiles, h3.brim, h3.areas, h3.jobs⟩
  · exact h2

theorem execFlaconVerify_wf {x} (h : DevWf x.dev) : OutWf (execFlaconVerify x) := by
  unfold execFlaconVerify
  refine liftBoot_wf h fun _ _ h1 => ?_
  split
  · exact h1
  · dsimp only
    split
    · exact firstRecord_wf h1
    · exact firstRecord_wf h1
    · exact DevWf.ite h1 (reportCause_wf h1)

theorem addEntry_wf {ty detail d} (h : DevWf d) : DevWf (addEntry ty detail d) :=
  h

theorem applyStack_wf {r d} (h : DevWf d) : DevWf (applyStack r d) :=
  DevWf.ite (appendLog_wf (each_wf h (fun _ _ h1 => addEntry_wf h1))) (each_wf h (fun _ _ h2 => addEntry_wf h2))

theorem loseLanes_wf {n dir mask fuse d} (h : DevWf d) : DevWf (loseLanes n dir mask fuse d) :=
  each_wf h fun _ _ h1 => DevWf.ite (addEntry_wf (appendLog_wf h1)) (appendLog_wf h1)

theorem applyPort_wf {fuse r d} (h : DevWf d) : DevWf (applyPort fuse r d) :=
  DevWf.ite (setLink_wf (DevWf.ite h (loseLanes_wf (loseLanes_wf h)))) (sendCap_wf (setLink_wf (DevWf.ite h
      (loseLanes_wf (loseLanes_wf h)))))

theorem afterTraining_wf {d} (h : DevWf d) : DevWf (afterTraining d) :=
  DevWf.ite h (DevWf.ite h h)

theorem execHbmTrainingDone_wf {rs x} (h : DevWf x.dev) : OutWf (execHbmTrainingDone rs x) :=
  liftAt_wf h fun _ h1 => DevWf.ite (afterTraining_wf (each_wf h1 (fun _ _ h2 => applyStack_wf h2))) h1

theorem execOpticalTrainingDone_wf {rs x} (h : DevWf x.dev) : OutWf (execOpticalTrainingDone rs x) :=
  liftAt_wf h fun _ h1 => DevWf.ite (afterTraining_wf (each_wf h1 (fun _ _ h2 => applyPort_wf h2))) h1

theorem powerField_wf {shorts f d} (h : DevWf d) : DevWf (powerField shorts f d) :=
  DevWf.ite h (DevWf.ite (appendLog_wf h) (onField_wf h))

theorem execFieldWavePowered_wf {wave shorts x} (h : DevWf x.dev) : OutWf (execFieldWavePowered wave shorts x) := by
  refine liftAt_wf h fun d hd => ?_
  split
  · extract_lets d1
    have h1 : DevWf d1 := each_wf hd fun _ _ h => powerField_wf h
    clear_value d1
    exact ⟨h1.tiles, h1.brim, h1.areas, h1.jobs⟩
  · exact hd

theorem condemnTested_wf {p d} (h : DevWf d) : DevWf (condemnTested p d) :=
  DevWf.ite h (condemnAs_wf (appendLog_wf h))

theorem execNeighbourTestDone_wf {disagree selfFailed routersFailed x} (h : DevWf x.dev) :
    OutWf (execNeighbourTestDone disagree selfFailed routersFailed x) :=
  liftAt_wf h fun _ h1 => DevWf.ite h1 (each_wf (each_wf (each_wf h1 (fun _ _ h2 => condemnTested_wf h2)) (fun _ _ h3
      => condemnAs_wf h3)) (fun _ _ h4 => condemnTested_wf h4))

theorem execMapBuildDone_wf {turns x} (h : DevWf x.dev) : OutWf (execMapBuildDone turns x) :=
  lift_wf h fun _ h1 => DevWf.ite h1 h1

theorem raiseThermometer_wf {failed b d} (h : DevWf d) : DevWf (raiseThermometer failed b d).2 := by
  unfold raiseThermometer
  dsimp only
  split
  · split
    · exact h
    · split
      · split
        · split
          · exact h
          · exact appendLog_wf h
        · exact h
      · split
        · exact h
        · exact appendLog_wf h
  · split
    · exact h
    · split
      · split
        · split
          · exact h
          · exact appendLog_wf h
        · exact h
      · split
        · exact h
        · exact appendLog_wf h

theorem thermoRaise_wf {b d} (h : DevWf d) : DevWf (thermoRaise b d).2 := by
  unfold thermoRaise
  split
  · exact raiseThermometer_wf h
  · exact h

theorem execFirmwareBroadcastDone_wf {lacking bitsFailed x} (h : DevWf x.dev) :
    OutWf (execFirmwareBroadcastDone lacking bitsFailed x) :=
  OutWf.ite outFault_wf (liftBoot_wf h (fun _ _ h1 => iteSnd_wf h1 (thermoRaise_wf (each_wf h1 (fun _ _ h2 =>
      condemnTested_wf h2)))))

theorem execFlaconFallback_wf {x} (h : DevWf x.dev) : OutWf (execFlaconFallback x) := by
  unfold execFlaconFallback
  refine liftBoot_wf h fun _ _ h1 => ?_
  split
  · split
    rename_i d e
    have h2 : DevWf d := wf_snd dark_wf e
    exact h2
  · exact h1

theorem commitNext_wf {r f b d} (h : DevWf d) : DevWf (commitNext r f b d).2 := by
  unfold commitNext
  dsimp only
  split
  · split
    · exact h
    · exact finishCmd_wf h
  · split
    · exact h
    · exact finishCmd_wf h
  · exact finishCmd_wf h

theorem execGenerationProgrammed_wf {x} (h : DevWf x.dev) : OutWf (execGenerationProgrammed x) := by
  unfold execGenerationProgrammed
  refine liftBoot_wf h fun _ _ h1 => ?_
  split
  · exact h1
  · dsimp only
    refine thermoRaise_wf ?_
    split
    · dsimp only
      split <;> exact h1
    · split
      · exact finishCmd_wf h1
      · split
        · exact commitNext_wf h1
        · exact h1

/-! ### Finishing and the end of a drain (R97-R108, R146-R149) -/

theorem storeAll_wf {kind l t} (ht : TileWf t) : TileWf (storeAll kind l t).1 := by
  induction l generalizing t with
  | nil => exact ht
  | cons x r ih =>
    obtain ⟨a, bs⟩ := x
    unfold storeAll
    split
    · exact ht
    · split
      · exact ht
      · rename_i u hu
        exact ih ((store_wf ht).some hu)

theorem putBlock_wf {p j b d} (h : DevWf d) : DevWf (putBlock p j b d).1 := by
  unfold putBlock
  extract_lets t sz reg blk next info e present clear go
  have hgo : ∀ ws f, (∀ t, TileWf t → TileWf (f t)) → DevWf (go ws f d).1 :=
    fun ws f hf => setTile_wf h (TileWf.ite (hf _ (storeAll_wf (tile_wf h))) (storeAll_wf (tile_wf h)))
  clear_value go
  split
  · split
    · have h1 := hgo [(e, le 2 clear)] (fun t => { t with ctl := t.ctl.set reg (t.ctlReg reg ||| 0x80000000) })
        fun _ ht => ⟨ht.mem, ht.prog⟩
      exact DevWf.ite (eventOnce_wf h1) h1
    · refine hgo _ _ ?_
      exact fun _ ht => ⟨ht.mem, ht.prog⟩
  · exact hgo _ _ fun _ ht => ht

theorem putBlocks_wf {p j l d} (h : DevWf d) : DevWf (putBlocks p j l d).1 := by
  induction l generalizing d with
  | nil => exact h
  | cons b r ih =>
    unfold putBlocks
    split
    · rename_i e
      exact ih (wf_fst (putBlock_wf h) e)
    · rename_i e
      exact wf_fst (putBlock_wf h) e

theorem endDrain_wf {p j d} (h : DevWf d) : DevWf (endDrain p j d) :=
  DevWf.ite (eventOnce_wf (onTile_wf h (wakeCause_wf (count_wf (TileWf.ite (count_wf (tile_wf h)) (tile_wf h))))))
      (onTile_wf h (wakeCause_wf (count_wf (TileWf.ite (count_wf (tile_wf h)) (tile_wf h)))))

theorem runDrain_wf {p j d} (h : DevWf d) : DevWf (runDrain p j d) := by
  unfold runDrain
  extract_lets d0 t acc reads fail
  have hf : ∀ c d, DevWf d → DevWf (fail c d) := fun _ _ h => faultTile_wf h
  split
  · exact hf _ _ h
  · split
    · exact hf _ _ h
    · rename_i e1
      have h1 : TileWf _ := (sweep_wf (tile_wf h)).some e1
      extract_lets d1 _ _ _ _ d2 _ _
      have hd1 : DevWf d1 := setTile_wf h h1
      have hd2 : DevWf d2 := DevWf.ite (onTile_wf hd1 (tile_wf hd1)) hd1
      split
      · exact h
      · split
        · rename_i e2
          exact hf _ _ (setTile_wf hd2 (wf_fst (storeAll_wf (tile_wf hd2)) e2))
        · rename_i e2
          have hd3 := setTile_wf (p := p) hd2 (wf_fst (storeAll_wf (tile_wf hd2)) e2)
          split
          · rename_i e3
            exact hf _ _ (wf_fst (iteFst_wf (putBlocks_wf hd3) hd3) e3)
          · rename_i e3
            exact endDrain_wf (wf_fst (iteFst_wf (putBlocks_wf hd3) hd3) e3)

theorem execDrainComplete_wf {t upset x} (h : DevWf x.dev) : OutWf (execDrainComplete t upset x) := by
  unfold execDrainComplete
  refine liftAt_wf h fun _ h1 => ?_
  split
  · exact h1
  · split
    · exact h1
    · split
      · exact raiseCheck_wf h1
      · exact raiseCheck_wf h1
      · exact raiseCheck_wf h1
      · exact runDrain_wf h1

/-! ### Mailbox commands (R383-R421) -/

theorem openSession_wf {s d} (h : DevWf d) : DevWf (openSession s d) :=
  h

theorem execHello_wf {tr box seq maxMajor maxMinor minMajor push x} (h : DevWf x.dev) :
    OutWf (execHello tr box seq maxMajor maxMinor minMajor push x) := by
  unfold execHello
  refine liftAt_wf h fun _ h1 => ?_
  split
  · exact h1
  · rename_i d e
    have h2 : DevWf d := (readRequest_wf h1).some e
    split
    · exact respond_wf h2
    · exact respond_wf (openSession_wf h2)

theorem execIdentify_wf {r x} (h : DevWf x.dev) : OutWf (execIdentify r x) :=
  OutWf.ite outFault_wf (liftBoot_wf h (fun _ _ h1 => requestBoot_wf (fun _ _ h2 => answerCmd_wf h2) h1))

theorem execAttest_wf {r nonce x} (h : DevWf x.dev) : OutWf (execAttest r nonce x) :=
  OutWf.ite outFault_wf (liftBoot_wf h (fun _ _ h1 => requestBoot_wf (fun _ _ h2 => DevWf.ite (answerCmd_wf h2)
      (answerCmd_wf h2)) h1))

theorem stagePiece_wf {r p b d} (h : DevWf d) : DevWf (stagePiece r p b d).2 := by
  unfold stagePiece
  dsimp only
  split
  · split
    · exact finish_wf h
    · split
      · exact finish_wf h
      · split <;> exact finish_wf h
  · split
    · exact finish_wf h
    · split
      · exact finish_wf h
      · split <;> exact finish_wf h

theorem execFwStage_wf {r p x} (h : DevWf x.dev) : OutWf (execFwStage r p x) :=
  OutWf.ite outFault_wf (liftBoot_wf h (fun _ _ h1 => requestBoot_wf (fun _ _ h2 => stagePiece_wf h2) h1))

theorem commitFlacon_wf {r b d} (h : DevWf d) : DevWf (commitFlacon r b d).2 := by
  unfold commitFlacon
  dsimp only
  split
  · exact finishCmd_wf h
  · split
    · exact finishCmd_wf h
    · split
      · exact finishCmd_wf h
      · split
        · exact finishCmd_wf h
        · split
          · split
            · exact finishCmd_wf h
            · split
              · exact finishCmd_wf h
              · exact commitNext_wf h
          · split
            · exact finishCmd_wf h
            · split
              · exact finishCmd_wf h
              · exact commitNext_wf h
          · split
            · exact finishCmd_wf h
            · split
              · exact finishCmd_wf h
              · exact commitNext_wf h

theorem execFwCommit_wf {r x} (h : DevWf x.dev) : OutWf (execFwCommit r x) :=
  OutWf.ite outFault_wf (liftBoot_wf h (fun _ _ h1 => requestBoot_wf (fun _ _ h2 => commitFlacon_wf h2) h1))

theorem startRetrain_wf {cause n d} (h : DevWf d) : DevWf (startRetrain cause n d) :=
  setLink_wf (DevWf.ite (appendLog_wf h) h)

theorem beginTraining_wf {r stackMask portMask fast d} (h : DevWf d) :
    DevWf (beginTraining r stackMask portMask fast d) :=
  each_wf h fun _ _ h1 => startRetrain_wf h1

theorem trainWith_wf {r stackMask portMask mode bs b d} (h : DevWf d) :
    DevWf (trainWith r stackMask portMask mode bs b d).2 := by
  unfold trainWith
  dsimp only
  split
  · exact finishCmd_wf h
  · split
    · exact finishCmd_wf h
    · split
      · exact finishCmd_wf h
      · split
        · split
          · exact finishCmd_wf h
          · exact beginTraining_wf h
        · exact beginTraining_wf h

theorem execTrainLinks_wf {r p stackMask portMask mode x} (h : DevWf x.dev) :
    OutWf (execTrainLinks r p stackMask portMask mode x) := by
  unfold execTrainLinks
  split
  · exact outFault_wf
  · refine liftBoot_wf h fun _ _ h1 => requestBoot_wf (fun _ _ h2 => ?_) h1
    split
    · rename_i d e
      have h3 : DevWf d := wf_snd (takePiece_wf h2) e
      exact finishCmd_wf h3
    · rename_i d1 e1
      have h4 : DevWf d1 := wf_snd (takePiece_wf h2) e1
      exact answerCmd_wf h4
    · rename_i d2 e2
      have h5 : DevWf d2 := wf_snd (takePiece_wf h2) e2
      exact trainWith_wf h5

theorem execTrainLinksDone_wf {ss ps x} (h : DevWf x.dev) : OutWf (execTrainLinksDone ss ps x) := by
  unfold execTrainLinksDone
  refine liftAt_wf h fun _ h1 => ?_
  split
  · exact h1
  · exact DevWf.ite h1 (finishCmd_wf (each_wf (each_wf h1 (fun _ _ h2 => applyStack_wf h2)) (fun _ _ h3 =>
        applyPort_wf h3)))

theorem execSaveTraining_wf {r snap offset recordOnly x} (h : DevWf x.dev) :
    OutWf (execSaveTraining r snap offset recordOnly x) := by
  unfold execSaveTraining
  split
  · exact outFault_wf
  · dsimp only
    exact liftBoot_wf h fun _ _ h1 => requestBoot_wf (fun _ _ h2 => iteSnd_wf (laterPage_wf h2) (iteSnd_wf
        (firstPage_wf h2) (firstPage_wf (cmdRecord_wf h2)))) h1

theorem execReadEvents_wf {r fromSeq most x} (h : DevWf x.dev) : OutWf (execReadEvents r fromSeq most x) :=
  liftAt_wf h fun _ h1 => request_wf (fun _ h2 => DevWf.ite (answerCmd_wf h2) (answerCmd_wf h2)) h1

theorem execMapRead_wf {r snap offset x} (h : DevWf x.dev) : OutWf (execMapRead r snap offset x) :=
  OutWf.ite outFault_wf (liftBoot_wf h (fun _ _ h1 => requestBoot_wf (fun _ _ h2 => DevWf.ite (laterPage_wf h2)
      (firstPage_wf h2)) h1))

theorem applyRefinement_wf {r bs b d} (h : DevWf d) : DevWf (applyRefinement r bs b d) := by
  unfold applyRefinement
  dsimp only
  split
  · exact finishCmd_wf h
  · split
    · exact finishCmd_wf h
    · split
      · exact finishCmd_wf h
      · exact startChange_wf h

theorem execMapRefineApply_wf {r p x} (h : DevWf x.dev) : OutWf (execMapRefineApply r p x) :=
  OutWf.ite outFault_wf (liftBoot_wf h (fun _ _ h1 => requestBoot_wf (fun _ _ h2 => pieceCommand_wf (fun _ _ h3 =>
      applyRefinement_wf h3) h2) h1))

theorem commitRefinement_wf {r bs b d} (h : DevWf d) : DevWf (commitRefinement r bs b d).2 := by
  unfold commitRefinement
  dsimp only
  split
  · exact finishCmd_wf h
  · split
    · exact finishCmd_wf h
    · split
      · exact finishCmd_wf h
      · exact h

theorem execMapRefineCommit_wf {r p x} (h : DevWf x.dev) : OutWf (execMapRefineCommit r p x) := by
  unfold execMapRefineCommit
  split
  · exact outFault_wf
  · refine liftBoot_wf h fun _ _ h1 => requestBoot_wf (fun _ _ h2 => ?_) h1
    split
    · rename_i d e
      have h3 : DevWf d := wf_snd (takePiece_wf h2) e
      exact finishCmd_wf h3
    · rename_i d1 e1
      have h4 : DevWf d1 := wf_snd (takePiece_wf h2) e1
      exact answerCmd_wf h4
    · rename_i d2 e2
      have h5 : DevWf d2 := wf_snd (takePiece_wf h2) e2
      exact commitRefinement_wf h5

theorem execSetRankTable_wf {r p x} (h : DevWf x.dev) : OutWf (execSetRankTable r p x) := by
  unfold execSetRankTable
  refine liftAt_wf h fun _ h1 => jobRequest_wf (fun _ _ _ h2 => pieceCommand_wf (fun _ _ h3 => ?_) h2) h1
  split
  · exact finishCmd_wf h3
  · split
    · exact finishCmd_wf h3
    · exact DevWf.ite (startChange_wf h3) (finishCmd_wf (onJob_wf h3 (fun _ h4 => h4)))

theorem readAny_wf {a n d} (h : DevWf d) : DevWf (readAny a n d).2 := by
  unfold readAny
  split
  · split
    · rename_i t e
      have h1 : TileWf t := (load_wf (tile_wf h)).some e
      exact setTile_wf h h1
    · exact h
  · split <;> exact h

theorem writeAny_wf {a bs d} (h : DevWf d) : DevWf (writeAny a bs d) := by
  unfold writeAny
  split
  · refine onTile_wf h ?_
    split
    · rename_i t e
      have h1 : TileWf t := (store_wf (tile_wf h)).some e
      exact h1
    · exact overwrite_wf (tile_wf h)
  · exact ⟨h.tiles, hbmWrite_wf h.brim, h.areas, h.jobs⟩

theorem execHbmCopy_wf {r src dst len x} (h : DevWf x.dev) : OutWf (execHbmCopy r src dst len x) := by
  unfold execHbmCopy
  refine liftAt_wf h fun _ h1 => request_wf (fun _ h2 => ?_) h1
  split
  · exact finishCmd_wf h2
  · split
    · exact finishCmd_wf h2
    · split
      rename_i d e
      have h3 : DevWf d := wf_snd (readAny_wf h2) e
      exact finishCmd_wf (writeAny_wf h3)

theorem execHbmCopyWrite_wf {r dst len data x} (h : DevWf x.dev) : OutWf (execHbmCopyWrite r dst len data x) :=
  liftAt_wf h fun _ h1 => request_wf (fun _ h2 => DevWf.ite (finishCmd_wf h2) (DevWf.ite (finishCmd_wf h2)
      (finishCmd_wf (writeAny_wf h2)))) h1

theorem execHbmCopyRead_wf {r src len x} (h : DevWf x.dev) : OutWf (execHbmCopyRead r src len x) := by
  unfold execHbmCopyRead
  refine liftAt_wf h fun _ h1 => request_wf (fun _ h2 => ?_) h1
  split
  · exact answerCmd_wf h2
  · split
    · exact answerCmd_wf h2
    · split
      rename_i d e
      have h3 : DevWf d := wf_snd (readAny_wf h2) e
      exact answerCmd_wf h3

theorem execMalformedFrame_wf {tr box seq x} (h : DevWf x.dev) : OutWf (execMalformedFrame tr box seq x) := by
  unfold execMalformedFrame
  refine liftAt_wf h fun _ h1 => ?_
  dsimp only
  split
  · exact h1
  · split
    · exact h1
    · rename_i d e
      have h2 : DevWf d := (readRequest_wf h1).some e
      exact respond_wf h2

theorem execSnapshotExpiry_wf {snap x} (h : DevWf x.dev) : OutWf (execSnapshotExpiry snap x) :=
  lift_wf h fun _ h1 => h1

theorem clearDone_wf {n d} (h : DevWf d) : DevWf (clearDone n d) :=
  DevWf.ite h h

/-! ### Links and the tether (R399-R451) -/

theorem emitCredits_wf {n d} (h : DevWf d) : DevWf (emitCredits n d) :=
  emit_wf h

theorem execLinkBlock_wf {port hdr marker x} (h : DevWf x.dev) : OutWf (execLinkBlock port hdr marker x) :=
  liftAt_wf h fun _ h1 => DevWf.ite (DevWf.ite (setLink_wf h1) (emitCredits_wf (setLink_wf h1))) h1

theorem refusePeer_wf {n c d} (h : DevWf d) : DevWf (refusePeer n c d) :=
  DevWf.ite (setLink_wf h) (appendLog_wf (setLink_wf h))

theorem bringUp_wf {n major minor c d} (h : DevWf d) : DevWf (bringUp n major minor c d) :=
  pumpPort_wf (appendLog_wf (setLink_wf h))

theorem execCapFrame_wf {port c x} (h : DevWf x.dev) : OutWf (execCapFrame port c x) := by
  unfold execCapFrame
  refine liftAt_wf h fun _ h1 => ?_
  dsimp only
  split
  · exact h1
  · split
    · exact bringUp_wf h1
    · exact refusePeer_wf h1

theorem takeFrame_wf {n k d} (h : DevWf d) : DevWf (takeFrame n k d) :=
  emitCredits_wf (setLink_wf h)

theorem discardFrame_wf {n cause fjob k d} (h : DevWf d) : DevWf (discardFrame n cause fjob k d) :=
  tallyDiscard_wf (takeFrame_wf h)

theorem nackAbroad_wf {n fjob t k d} (h : DevWf d) : DevWf (nackAbroad n fjob t k d) := by
  unfold nackAbroad
  dsimp only
  split
  · exact fabricOut_wf h
  · split
    · exact DevWf.ite (fabricOut_wf h) (portToPort_wf h)
    · exact h

theorem deliverFrame_wf {n fjob j t k d} (h : DevWf d) : DevWf (deliverFrame n fjob j t k d) :=
  DevWf.ite (nackAbroad_wf h) (deliverHere_wf (DevWf.ite (onPort_wf h) h))

theorem handleFrame_wf {n fjob fhops srcRank k d} (h : DevWf d) : DevWf (handleFrame n fjob fhops srcRank k d) := by
  unfold handleFrame
  split
  · exact discardFrame_wf h
  · split
    · exact discardFrame_wf h
    · split
      · exact DevWf.ite (discardFrame_wf h) (DevWf.ite h (deliverFrame_wf (takeFrame_wf h)))
      · split
        · exact DevWf.ite (discardFrame_wf h) (DevWf.ite (discardFrame_wf h) (portToPort_wf (takeFrame_wf h)))
        · exact discardFrame_wf h

theorem execDiscardSummary_wf {x} (h : DevWf x.dev) : OutWf (execDiscardSummary x) :=
  lift_wf h fun _ h1 => each_wf h1 fun _ _ h2 => appendLog_wf h2

theorem windowRead_wf {a n d} (h : DevWf d) : DevWf (windowRead a n d).2 := by
  unfold windowRead
  split
  · exact h
  · split
    · exact h
    · split <;> exact h

theorem windowWrite_wf {a bs d} (h : DevWf d) : DevWf (windowWrite a bs d) :=
  DevWf.ite ⟨h.tiles, hbmWrite_wf h.brim, h.areas, h.jobs⟩ h

theorem execMemReq_wf {port tag write addr len data x} (h : DevWf x.dev) :
    OutWf (execMemReq port tag write addr len data x) := by
  unfold execMemReq
  refine liftAt_wf h fun _ h1 => ?_
  split
  · exact h1
  · split
    · exact windowWrite_wf h1
    · split
      rename_i d e
      have h2 : DevWf d := wf_snd (windowRead_wf h1) e
      exact emit_wf h2

theorem writeEvrCtl_wf {tport enable size clearOvf d} (h : DevWf d) :
    DevWf (writeEvrCtl tport enable size clearOvf d) := by
  unfold writeEvrCtl
  dsimp only
  split <;> exact h

theorem readRegister_wf {b off d} (h : DevWf d) : DevWf (readRegister b off d).2 := by
  unfold readRegister
  split
  · exact windowRead_wf h
  · dsimp only
    split <;> exact h

theorem taintRegister_wf {off v d} (h : DevWf d) : DevWf (taintRegister off v d) := by
  unfold taintRegister
  split
  · exact h
  · exact DevWf.ite h h

theorem writeRegister_wf {tport off v d} (h : DevWf d) : DevWf (writeRegister tport off v d) := by
  unfold writeRegister
  extract_lets d1 hs x
  have h1 : DevWf d1 := taintRegister_wf h
  have hh : ∀ k : HostSide, k.areas = hs.areas → DevWf { d1 with host := k } :=
    fun k e => ⟨h1.tiles, h1.brim, e ▸ h1.areas, h1.jobs⟩
  split
  · exact h1
  · split
    · exact windowWrite_wf h1
    · split
      · exact DevWf.ite (clearDone_wf h1) h1
      · split
        · exact DevWf.ite h1 (hh _ rfl)
        · split
          · exact DevWf.ite h1 (hh _ rfl)
          · split
            · exact writeEvrCtl_wf h1
            · split
              · exact hh _ rfl
              · exact DevWf.ite ⟨h1.tiles, h1.brim, writeN_wf h1.areas, h1.jobs⟩ h1

theorem regAccess_wf {b tport off a d} (h : DevWf d) : DevWf (regAccess b tport off a d) := by
  unfold regAccess
  dsimp only
  split
  · exact writeRegister_wf h
  · exact DevWf.ite h (writeRegister_wf (writeRegister_wf h))
  · refine emit_wf ?_
    split
    · exact h
    · exact readRegister_wf h
  · refine emit_wf ?_
    split
    · exact h
    · exact readRegister_wf (readRegister_wf h)

/-! ### Loads, stores, copies, conversions (R195-R199) -/

theorem loadOp_wf {p ts n rd rs1 imm f d} (h : DevWf d) : ResWf (loadOp p ts n rd rs1 imm f d) :=
  ResWf.ite trivial (ResWf.ite (ResWf.ite (onTile_wf (ctlLoad_wf h) (onSlot_wf (tile_wf (ctlLoad_wf h)))) trivial)
      (withRead_wf h (fun _ _ h1 => onTile_wf h1 (onSlot_wf (tile_wf h1)))))

theorem storeOp_wf {p ts n rd rs1 imm d} (h : DevWf d) : ResWf (storeOp p ts n rd rs1 imm d) :=
  ResWf.ite trivial (ResWf.ite (ResWf.ite trivial (ResWf.ite trivial (onTile_wf h (ctlStore_wf (tile_wf h)))))
      (withWrite_wf h (fun _ h1 => h1)))

theorem execMcopy_wf {t ts rd rs1 rs2 x} (h : DevWf x.dev) : OutWf (execMcopy t ts rd rs1 rs2 x) :=
  liftAt_wf h fun _ h1 => runThread_wf (fun _ h2 => ResWf.ite trivial (ResWf.ite trivial (withRead_wf h2 (fun _ _ h3
      => withWrite_wf h3 (fun _ h4 => h4))))) h1

theorem execCvt_wf {t ts rd rs1 rs2 imm x} (h : DevWf x.dev) : OutWf (execCvt t ts rd rs1 rs2 imm x) :=
  liftAt_wf h fun _ h1 => runThread_wf (fun _ h2 => ResWf.ite trivial (ResWf.ite trivial (ResWf.ite trivial
      (withRead_wf h2 (fun _ _ h3 => withWrite_wf h3 (fun _ h4 => h4)))))) h1

theorem execCvst_wf {t ts rd rs1 rs2 imm x} (h : DevWf x.dev) : OutWf (execCvst t ts rd rs1 rs2 imm x) :=
  liftAt_wf h fun _ h1 => runThread_wf (fun _ h2 => ResWf.ite trivial (ResWf.ite trivial (withWrite_wf h2 (fun _ h3
      => h3)))) h1

theorem execAcc_wf {t ts rd rs1 rs2 imm x} (h : DevWf x.dev) : OutWf (execAcc t ts rd rs1 rs2 imm x) :=
  liftAt_wf h fun _ h1 => runThread_wf (fun _ h2 => ResWf.ite trivial (ResWf.ite trivial (withUpdate_wf h2 (fun _ _
      h3 => withWrite_wf h3 (fun _ h4 => h4))))) h1

theorem execAccv_wf {t ts rd rs1 rs2 imm x} (h : DevWf x.dev) : OutWf (execAccv t ts rd rs1 rs2 imm x) :=
  liftAt_wf h fun _ h1 => runThread_wf (fun _ h2 => ResWf.ite trivial (ResWf.ite trivial (ResWf.ite trivial
      (withRead_wf h2 (fun _ _ h3 => withUpdate_wf h3 (fun _ _ h4 => withWrite_wf h4 (fun _ h5 => h5))))))) h1

/-! ### Packets at their destinations (R208-R266) -/

theorem gainDcc_wf {p k units d} (h : DevWf d) : DevWf (gainDcc p k units d) :=
  DevWf.ite (addCc_wf h) h

theorem submit_wf {p s i q k d} (h : DevWf d) : DevWf (submit p s i q k d) :=
  onTile_wf h (setDmaq_wf (overwrite_wf (tile_wf h)))

theorem putAt_wf {p k d} (h : DevWf d) : OptWf DevWf (putAt p k d) := by
  unfold putAt
  dsimp only
  split
  · exact ackTo_wf (onTile_wf h (netCount_wf (tile_wf h)))
  · split
    · split
      · exact ackTo_wf (gainDcc_wf (remember_wf (submit_wf h)))
      · exact answerTo_wf h
    · split
      · exact answerTo_wf h
      · split
        · exact trivial
        · split
          · exact faultTile_wf h
          · rename_i t' e
            have h1 : TileWf t' := (store_wf (tile_wf h)).some e
            exact ackTo_wf (gainDcc_wf (remember_wf (setTile_wf h h1)))

theorem putAtPort_wf {id d} (h : DevWf d) : DevWf (putAtPort id d) := by
  unfold putAtPort
  split
  · exact h
  · split
    · split
      · exact h
      · dsimp only
        split
        · exact dropFlight_wf h
        · split
          · exact dropFlight_wf h
          · exact portSend_wf (DevWf.ite (dropFlight_wf h) (onRun_wf (holdWrite_wf (dropFlight_wf h))))
    · exact h

theorem execPutPacket_wf {id s} (h : DevWf s.dev) : OutWf (execPutPacket id s) := by
  unfold execPutPacket
  split
  · exact lift_wf h fun _ h1 => putAtPort_wf h1
  · exact atTile_wf (fun _ _ _ h2 => putAt_wf h2) h

theorem getAt_wf {p k d} (h : DevWf d) : OptWf DevWf (getAt p k d) := by
  unfold getAt
  dsimp only
  split
  · exact answerTo_wf h
  · split
    · exact trivial
    · split
      · exact faultTile_wf h
      · rename_i t' e
        have h1 : TileWf t' := (load_wf (tile_wf h)).some e
        exact answerTo_wf (DevWf.ite (onTile_wf (setTile_wf h h1) (netCount_wf (tile_wf (setTile_wf h h1))))
            (remember_wf (setTile_wf h h1)))

theorem raddAt_wf {p k d} (h : DevWf d) : OptWf DevWf (raddAt p k d) := by
  unfold raddAt
  dsimp only
  split
  · exact ackTo_wf (onTile_wf h (netCount_wf (tile_wf h)))
  · split
    · exact answerTo_wf h
    · split
      · exact answerTo_wf h
      · split
        · exact trivial
        · split
          · exact faultTile_wf h
          · rename_i t' e
            have h1 : TileWf t' := (load_wf (tile_wf h)).some e
            split
            · exact faultTile_wf (setTile_wf h h1)
            · rename_i t'1 e1
              have h2 : TileWf t'1 := (store_wf (tile_wf (setTile_wf h h1))).some e1
              exact ackTo_wf (gainDcc_wf (remember_wf (setTile_wf (setTile_wf h h1) h2)))

theorem signalAt_wf {p k d} (h : DevWf d) : OptWf DevWf (signalAt p k d) := by
  unfold signalAt
  dsimp only
  split
  · exact answerTo_wf h
  · split
    · exact answerTo_wf (onTile_wf h (netCount_wf (tile_wf h)))
    · split
      · exact signalAppend_wf h
      · split
        · exact answerTo_wf (remember_wf (signalAppend_wf h))
        · exact answerTo_wf (remember_wf (onTile_wf h (tile_wf h)))

theorem signalDone_wf {p o d} (h : DevWf d) : DevWf (signalDone p o d) :=
  freeSeq_wf (onTile_wf h (wakeCause_wf (tile_wf h)))

theorem signalRespAt_wf {p k d} (h : DevWf d) : OptWf DevWf (signalRespAt p k d) := by
  unfold signalRespAt
  split
  · split
    · exact lateArrival_wf h
    · split
      · exact onTile_wf h (tile_wf h)
      · exact signalDone_wf h
  · exact lateArrival_wf h

theorem noticeAt_wf {p k d} (h : DevWf d) : OptWf DevWf (noticeAt p k d) := by
  unfold noticeAt
  split
  · exact ackTo_wf (onTile_wf h (netCount_wf (tile_wf h)))
  · dsimp only
    split
    · exact signalDone_wf (ackTo_wf (remember_wf h))
    · exact ackTo_wf (remember_wf h)

theorem tokenAt_wf {p k d} (h : DevWf d) : OptWf DevWf (tokenAt p k d) := by
  unfold tokenAt
  split
  · exact trivial
  · split
    · split
      · exact ackTo_wf (onTile_wf h (fifoIn_wf (tile_wf h)))
      · split
        · exact ackTo_wf h
        · exact trivial
    · dsimp only
      split
      · exact ackTo_wf (onTile_wf h (setChan_wf (tile_wf h)))
      · split
        · exact ackTo_wf h
        · exact trivial

theorem creditAt_wf {p k d} (h : DevWf d) : OptWf DevWf (creditAt p k d) := by
  unfold creditAt
  dsimp only
  split
  · split
    · exact h
    · split
      · exact onTile_wf h (tile_wf h)
      · split
        · exact send_wf (onTile_wf h (tile_wf h))
        · exact onTile_wf h (tile_wf h)
  · split
    · exact h
    · exact onTile_wf h (portGain_wf (setPort_wf (tile_wf h)))

theorem treeAck_wf {p n d} (h : DevWf d) : DevWf (treeAck p n d) := by
  unfold treeAck
  dsimp only
  split <;> exact send_wf h

theorem treePart_wf {p k tiles d} (h : DevWf d) : DevWf (treePart p k tiles d) := by
  unfold treePart
  split
  · exact h
  · exact DevWf.ite (treeAck_wf (onTile_wf h (tile_wf h))) (onTile_wf h (tile_wf h))

theorem treeNode_wf {p k d} (h : DevWf d) : DevWf (treeNode p k d) := by
  unfold treeNode
  split
  · exact h
  · exact DevWf.ite (treeAck_wf (each_wf (onTile_wf (onTile_wf h (List.foldlRecOn _ _ (tile_wf h) fun _ h1 _ _ =>
        netCount_wf h1)) (tile_wf (onTile_wf h (List.foldlRecOn _ _ (tile_wf h) fun _ h2 _ _ => netCount_wf h2))))
        (fun _ _ h3 => h3))) (DevWf.ite (each_wf (onTile_wf (onTile_wf h (List.foldlRecOn _ _ (tile_wf h) fun _ h4 _
        _ => netCount_wf h4)) (tile_wf (onTile_wf h (List.foldlRecOn _ _ (tile_wf h) fun _ h5 _ _ => netCount_wf
        h5)))) (fun _ _ h6 => h6)) (each_wf (onTile_wf (onTile_wf h (List.foldlRecOn _ _ (tile_wf h) fun _ h7 _ _ =>
        netCount_wf h7)) (tile_wf (onTile_wf h (List.foldlRecOn _ _ (tile_wf h) fun _ h8 _ _ => netCount_wf h8))))
        (fun _ _ h9 => h9)))

theorem mcastAt_wf {p k d} (h : DevWf d) : OptWf DevWf (mcastAt p k d) := by
  unfold mcastAt
  dsimp only
  split
  · exact treePart_wf (onTile_wf h (netCount_wf (tile_wf h)))
  · split
    · exact answerTo_wf h
    · split
      · exact trivial
      · split
        · exact faultTile_wf h
        · rename_i t' e
          have h1 : TileWf t' := (store_wf (tile_wf h)).some e
          exact treePart_wf (DevWf.ite (addCc_wf (remember_wf (setTile_wf h h1))) (remember_wf (setTile_wf h h1)))

theorem execMcastPacket_wf {id x} (h : DevWf x.dev) : OutWf (execMcastPacket id x) := by
  unfold execMcastPacket
  refine lift_wf h fun _ h1 => ?_
  split
  · exact h1
  · split
    · exact h1
    · split
      · exact DevWf.ite (dropAt_wf h1) (treeNode_wf (dropFlight_wf h1))
      · exact arrive_wf (fun _ _ _ h2 => mcastAt_wf h2) h1
      · exact h1

theorem redAt_wf {p k d} (h : DevWf d) : OptWf DevWf (redAt p k d) := by
  unfold redAt
  dsimp only
  split
  · exact h
  · split
    · exact ackTo_wf (onTile_wf h (netCount_wf (tile_wf h)))
    · split
      · split
        · exact answerTo_wf h
        · exact ackTo_wf (redDown_wf (remember_wf h))
      · split
        · exact trivial
        · exact ackTo_wf (redEnter_wf (remember_wf h))

theorem redOwn_wf {p k d} (h : DevWf d) : OptWf DevWf (redOwn p k d) := by
  unfold redOwn
  dsimp only
  split
  · exact h
  · split
    · exact trivial
    · exact redWrite_wf h

theorem execRedPacket_wf {id x} (h : DevWf x.dev) : OutWf (execRedPacket id x) := by
  unfold execRedPacket
  refine lift_wf h fun _ h1 => ?_
  split
  · exact h1
  · split
    · exact DevWf.ite h1 (arrive_wf (fun _ _ _ h2 => redAt_wf h2) h1)
    · exact DevWf.ite (arrive_wf (fun _ _ _ h3 => redOwn_wf h3) h1) h1
    · exact h1

theorem gainLcc_wf {p o n d} (h : DevWf d) : DevWf (gainLcc p o n d) := by
  unfold gainLcc
  split
  · exact addCc_wf h
  · exact h

theorem ackAt_wf {p k d} (h : DevWf d) : OptWf DevWf (ackAt p k d) := by
  unfold ackAt
  dsimp only
  split
  · split
    · exact onTile_wf h (wakeCause_wf (TileWf.ite (setPort_wf (tile_wf h)) (tile_wf h)))
    · exact lateArrival_wf h
  · split
    · split
      · exact lateArrival_wf h
      · exact freeSeq_wf (gainLcc_wf h)
    · exact lateArrival_wf h

theorem atPort_wf {id ty f d} (hf : ∀ x0 x1 x2 x3, DevWf x3 → DevWf (f x0 x1 x2 x3)) (h : DevWf d) :
    DevWf (atPort id ty f d) := by
  unfold atPort
  split
  · exact h
  · split
    · split
      · exact h
      · split
        · exact hf _ _ _ _ (dropFlight_wf h)
        · exact DevWf.ite (portLate_wf (dropFlight_wf h)) h
    · exact h

theorem atEither_wf {id onPort onTile s} (hf : ∀ d, DevWf d → DevWf (onPort d)) (ho : OutWf (onTile s)) (h : DevWf
    s.dev) :
    OutWf (atEither id onPort onTile s) := by
  unfold atEither
  split
  · exact lift_wf h hf
  · exact ho

theorem ackTile_wf {id x} (h : DevWf x.dev) : OutWf (ackTile id x) := by
  unfold ackTile
  refine lift_wf h fun _ h1 => ?_
  split
  · exact h1
  · split
    · split
      · exact h1
      · split
        · exact treePart_wf (dropFlight_wf h1)
        · exact arrive_wf (fun _ _ _ h2 => ackAt_wf h2) h1
    · exact h1

theorem execAck_wf {id x} (h : DevWf x.dev) : OutWf (execAck id x) :=
  atEither_wf (fun _ h1 => atPort_wf (fun _ _ _ _ h2 => portAcked_wf (portForget_wf h2)) h1) (ackTile_wf h) h

theorem getRespAt_wf {p k d} (h : DevWf d) : OptWf DevWf (getRespAt p k d) := by
  unfold getRespAt
  split
  · exact lateArrival_wf h
  · split
    · exact lateArrival_wf h
    · split
      · exact trivial
      · split
        · exact faultTile_wf h
        · rename_i t' e
          have h1 : TileWf t' := (store_wf (tile_wf h)).some e
          exact freeSeq_wf (gainLcc_wf (setTile_wf h h1))

theorem getRespPort_wf {pid o k d} (h : DevWf d) : DevWf (getRespPort pid o k d) := by
  unfold getRespPort
  split
  · exact portForget_wf h
  · exact portAcked_wf (portForget_wf (holdWrite_wf h))

theorem execGetResp_wf {id s} (h : DevWf s.dev) : OutWf (execGetResp id s) :=
  atEither_wf (fun _ h1 => atPort_wf (fun _ _ _ _ h2 => getRespPort_wf h2) h1) (atTile_wf (fun _ _ _ h3 =>
      getRespAt_wf h3) h) h

theorem nackAt_wf {p k d} (h : DevWf d) : OptWf DevWf (nackAt p k d) := by
  unfold nackAt
  split
  · exact faultTile_wf (freeSeq_wf h)
  · exact lateArrival_wf h

theorem execNack_wf {id x} (h : DevWf x.dev) : OutWf (execNack id x) :=
  atEither_wf (fun _ h1 => atPort_wf (fun _ _ _ _ h2 => portFailed_wf (portForget_wf h2)) h1) (atTile_wf (fun _ _ _
      h3 => nackAt_wf h3) h) h

theorem takeVl3_wf {id ty x} (h : DevWf x.dev) : OutWf (takeVl3 id ty x) := by
  unfold takeVl3
  refine lift_wf h fun _ h1 => ?_
  split
  · exact h1
  · split
    · exact h1
    · split
      · exact DevWf.ite (dropAt_wf h1) (dropFlight_wf h1)
      · exact DevWf.ite h1 (dropFlight_wf h1)
      · exact h1

theorem execRemoteTimeout_wf {tm x} (h : DevWf x.dev) : OutWf (execRemoteTimeout tm x) := by
  unfold execRemoteTimeout
  refine liftAt_wf h fun _ h1 => ?_
  split
  · split
    · exact h1
    · split
      · exact reissue_wf h1
      · exact h1
  · split
    · exact h1
    · split
      · exact reissue_wf h1
      · exact h1
  · split
    · exact DevWf.ite (portReissue_wf h1) h1
    · exact h1

/-! ### Remote operations and counters (R204-R212) -/

theorem withWindow_wf {p k d f} (h : DevWf d) (hf : ∀ x0, DevWf x0 → ResWf (f x0)) : ResWf (withWindow p k d f) :=
  ResWf.ite (hf _ h) (eventOnce_wf (onTile_wf h (tile_wf h)))

theorem countSubmission_wf {p on d} (h : DevWf d) : DevWf (countSubmission p on d) :=
  DevWf.ite (onTile_wf h (tile_wf h)) h

theorem pushOp_wf {p ts op ty rd rs1 rs2 imm cut long sub d} (h : DevWf d) :
    ResWf (pushOp p ts op ty rd rs1 rs2 imm cut long sub d) := by
  unfold pushOp
  dsimp only
  split
  · exact h
  · split
    · exact trivial
    · exact withWindow_wf h fun _ h1 => withRead_wf h1 fun _ _ h2 => each_wf h2 fun _ _ h3 => sendNumbered_wf
          (countSubmission_wf h3)

theorem execGet_wf {t ts rd rs1 rs2 imm x} (h : DevWf x.dev) : OutWf (execGet t ts rd rs1 rs2 imm x) := by
  unfold execGet
  refine liftAt_wf h fun _ h1 => runThread_wf (fun _ h2 => ?_) h1
  dsimp only
  split
  · exact h2
  · split
    · exact trivial
    · split
      · exact trivial
      · exact withWindow_wf h2 fun _ h3 => each_wf h3 fun _ _ h4 => sendNumbered_wf h4

theorem execRadd_wf {t ts rd rs1 rs2 imm x} (h : DevWf x.dev) : OutWf (execRadd t ts rd rs1 rs2 imm x) :=
  liftAt_wf h fun _ h1 => runThread_wf (fun _ h2 => ResWf.ite trivial (ResWf.ite trivial (pushOp_wf h2))) h1

theorem execMcast_wf {t ts rd rs1 rs2 imm x} (h : DevWf x.dev) : OutWf (execMcast t ts rd rs1 rs2 imm x) := by
  unfold execMcast
  refine liftAt_wf h fun _ h1 => runThread_wf (fun _ h2 => ?_) h1
  dsimp only
  split
  · exact h2
  · split
    · exact trivial
    · split
      · exact trivial
      · exact trivial
      · exact ResWf.ite trivial (withWindow_wf h2 (fun _ h3 => withRead_wf h3 (fun _ _ h4 => each_wf h4 (fun _ _ h5
            => sendNumbered_wf h5))))

theorem execSignal_wf {t ts rd rs1 rs2 imm x} (h : DevWf x.dev) : OutWf (execSignal t ts rd rs1 rs2 imm x) := by
  unfold execSignal
  refine liftAt_wf h fun _ h1 => runThread_wf (fun _ h2 => ?_) h1
  dsimp only
  split
  · exact h2
  · split
    · exact trivial
    · exact withWindow_wf h2 fun _ h3 => sendNumbered_wf (onTile_wf h3 (tile_wf h3))

theorem execRedc_wf {t ts rd rs1 rs2 imm x} (h : DevWf x.dev) : OutWf (execRedc t ts rd rs1 rs2 imm x) := by
  unfold execRedc
  refine liftAt_wf h fun _ h1 => runThread_wf (fun _ h2 => ?_) h1
  dsimp only
  split
  · exact h2
  · split
    · exact trivial
    · split
      · exact trivial
      · exact ResWf.ite trivial (ResWf.ite h2 (withWindow_wf h2 (fun _ h3 => withRead_wf h3 (fun _ _ h4 => each_wf h4
            (fun _ _ h5 => redContribute_wf h5)))))

theorem execSetrc_wf {t ts rs1 x} (h : DevWf x.dev) : OutWf (execSetrc t ts rs1 x) := by
  unfold execSetrc
  refine liftAt_wf h fun _ h1 => runThread_wf (fun _ h2 => ?_) h1
  dsimp only
  show DevWf _
  refine onTile_wf ?_ (onSlot_wf (tile_wf ?_))
  · split <;> exact h2
  · split <;> exact h2

/-! ### Scalar and branch instructions (R194) -/

theorem execShi_wf {t ts rd rs1 imm x} (h : DevWf x.dev) : OutWf (execShi t ts rd rs1 imm x) := by
  unfold execShi
  refine liftAt_wf h fun _ h1 => runThread_wf (fun _ h2 => ?_) h1
  dsimp only
  split
  · exact regOp_wf h2
  · exact regOp_wf h2
  · exact regOp_wf h2
  · exact trivial

theorem execJal_wf {t ts rd imm x} (h : DevWf x.dev) : OutWf (execJal t ts rd imm x) :=
  liftAt_wf h fun _ h1 => runThread_wf (fun _ h2 => onTile_wf h2 (onSlot_wf (tile_wf h2))) h1

theorem execJalr_wf {t ts rd rs1 imm x} (h : DevWf x.dev) : OutWf (execJalr t ts rd rs1 imm x) :=
  liftAt_wf h fun _ h1 => runThread_wf (fun _ h2 => onTile_wf h2 (onSlot_wf (tile_wf h2))) h1

/-! ### Opcode 0x60 (R110, R150-R152, R214) -/

theorem vopWriteStop_wf {p ts d v} (h : DevWf d) : OptWf ResWf (vopWriteStop p ts d v) := by
  cases e : vopWriteStop p ts d v with
  | none => trivial
  | some r =>
    obtain ⟨w, _, hw⟩ := List.exists_of_findSome?_eq_some e
    exact (writeStop_wf h).some hw

theorem vopOp_wf {t ts rs1 d} (h : DevWf d) : ResWf (vopOp t ts rs1 d) := by
  unfold vopOp
  dsimp only
  split
  · exact trivial
  · split
    · exact h
    · refine withRead_wf h fun _ _ h1 => ?_
      split
      · exact trivial
      · split
        · exact trivial
        · split
          · exact trivial
          · split
            · exact h1
            · split
              · rename_i r e
                have h2 : ResWf r := (vopWriteStop_wf h1).some e
                exact h2
              · exact onTile_wf h1 (tile_wf h1)

theorem op60_wf {t ts rs1 d} (h : DevWf d) : ResWf (op60 t ts rs1 d) :=
  ResWf.ite (vopOp_wf h) (topOp_wf h)

theorem freeWords_wf {n d} (h : DevWf d) : DevWf (freeWords n d).2 := by
  induction n generalizing d with
  | zero => exact h
  | succ n ih => exact ih (free_wf h)

theorem runVop_wf {p o d} (h : DevWf d) : DevWf (runVop p o d) := by
  unfold runVop
  extract_lets v ts fail
  split
  · exact h
  · split
    · exact insnFault_wf h
    · rename_i t e
      extract_lets d1
      have h1 : DevWf d1 := setTile_wf h ((sweep_wf (tile_wf h)).some e)
      split
      split
      rename_i e2
      have h2 := wf_snd (iteSnd_wf (freeWords_wf h1) h1) e2
      split
      rename_i e3
      have h3 := wf_snd (iteSnd_wf (x := let r := freeWords v.outs _; (r.1.map BitVec.toNat, r.2)) (freeWords_wf h2)
          h2) e3
      extract_lets out
      split
      · exact insnFault_wf h3
      · rename_i e4
        have h4 := wf_fst (storeAll_wf (tile_wf h3)) e4
        exact setTile_wf h3 (List.foldlRecOn (motive := TileWf) _ _ h4 fun _ hx _ _ => takeLines_wf hx)

theorem execVopComplete_wf {t upset x} (h : DevWf x.dev) : OutWf (execVopComplete t upset x) := by
  unfold execVopComplete
  refine liftAt_wf h fun _ h1 => ?_
  split
  · exact h1
  · exact DevWf.ite h1 (DevWf.ite (raiseCheck_wf h1) (runVop_wf h1))

theorem runScout_wf {p q e d} (h : DevWf d) : DevWf (runScout p q e d) := by
  unfold runScout
  dsimp only
  split
  · exact DevWf.ite (queueFault_wf h) h
  · split
    · exact h
    · split
      · exact queueFault_wf h
      · rename_i t' e1
        have h1 : TileWf t' := (sweep_wf (tile_wf h)).some e1
        split
        · exact queueFault_wf h
        · rename_i t e2
          have h2 : TileWf t := wf_fst (storeAll_wf h1) e2
          exact setTile_wf h (popHead_wf (takeLines_wf (count_wf (count_wf h2))))

theorem execScoutComplete_wf {t x} (h : DevWf x.dev) : OutWf (execScoutComplete t x) := by
  unfold execScoutComplete
  refine liftAt_wf h fun _ h1 => ?_
  split
  · exact h1
  · split
    · exact DevWf.ite (runScout_wf h1) h1
    · exact h1

/-! ## One step -/

theorem exec_wf {s : State} (h : DevWf s.dev) (c : Instr) : OutWf (exec c s) := by
  cases c with
  | add | sub | and | or | xor | sll | srl | sra | slt | sltu | mul | mulhu | mins | maxs | addi | andi | ori
  | xori | slti | lui | ccrd => exact liftAt_wf h fun _ h1 => runThread_wf (fun _ h2 => regOp_wf h2) h1
  | shi => exact execShi_wf h
  | beq | bne | blt | bge | bltu | bgeu => exact liftAt_wf h fun _ h1 => runThread_wf (fun _ h2 => branchOp_wf h2) h1
  | jal => exact execJal_wf h
  | jalr => exact execJalr_wf h
  | reservedOpcode => exact liftAt_wf h fun _ h1 => DevWf.ite (insnFault_wf h1) h1
  | lb | lbu | lh | lhu | lw => exact liftAt_wf h fun _ h1 => runThread_wf (fun _ h2 => loadOp_wf h2) h1
  | sb | sh | sw => exact liftAt_wf h fun _ h1 => runThread_wf (fun _ h2 => storeOp_wf h2) h1
  | mcopy => exact execMcopy_wf h
  | cvt => exact execCvt_wf h
  | cvst => exact execCvst_wf h
  | acc => exact execAcc_wf h
  | accv => exact execAccv_wf h
  | oprd => exact execOprd_wf h
  | opcp => exact execOpcp_wf h
  | send => exact execSend_wf h
  | sendr => exact execSendr_wf h
  | predict => exact execPredict_wf h
  | sqput => exact execSqput_wf h
  | sqget => exact execSqget_wf h
  | sqcnt => exact liftAt_wf h fun _ h1 => runThread_wf (fun _ h2 => ResWf.ite trivial (regOp_wf h2)) h1
  | hbarr => exact execHbarr_wf h
  | hbwait => exact execHbwait_wf h
  | hbsync => exact execHbsync_wf h
  | put => exact liftAt_wf h fun _ h1 => runThread_wf (fun _ h2 => pushOp_wf h2) h1
  | get => exact execGet_wf h
  | radd => exact execRadd_wf h
  | mcast => exact execMcast_wf h
  | signal => exact execSignal_wf h
  | redc => exact execRedc_wf h
  | setrc => exact execSetrc_wf h
  | ccwait => exact liftAt_wf h fun _ h1 => runThread_wf (fun _ h2 => ResWf.ite h2 h2) h1
  | cctake => exact liftAt_wf h fun _ h1 => runThread_wf (fun _ h2 => ResWf.ite (setCc_wf h2) h2) h1
  | ccset => exact liftAt_wf h fun _ h1 => runThread_wf (fun _ h2 => setCc_wf h2) h1
  | top | vop => exact liftAt_wf h fun _ h1 => runThread_wf (fun _ h2 => op60_wf h2) h1
  | drain => exact execDrain_wf h
  | discard => exact liftAt_wf h fun _ h1 => runThread_wf (fun _ h2 => ResWf.ite h2 (enqueue_wf h2)) h1
  | twait => exact execTwait_wf h
  | tend => exact execTend_wf h
  | tretire => exact execTretire_wf h
  | yield => exact liftAt_wf h fun _ h1 => runThread_wf (fun _ h2 => onTile_wf h2 (tile_wf h2)) h1
  | raise => exact execRaise_wf h
  | gets => exact execGets_wf h
  | scan => exact liftAt_wf h fun _ h1 => runThread_wf (fun _ _ => trivial) h1
  | issueQueueHead => exact execIssueQueueHead_wf h
  | weightFillComplete => exact execWeightFillComplete_wf h
  | laneBlockComplete => exact execLaneBlockComplete_wf h
  | drainComplete => exact execDrainComplete_wf h
  | scoutComplete => exact execScoutComplete_wf h
  | vopComplete => exact execVopComplete_wf h
  | tokenAdmit => exact execTokenAdmit_wf h
  | instanceFire => exact execInstanceFire_wf h
  | steerForward => exact execSteerForward_wf h
  | steerSpeculate => exact execSteerSpeculate_wf h
  | mergeForward => exact execMergeForward_wf h
  | neighbourToken => exact execNeighbourToken_wf h
  | creditStallTimeout => exact execCreditStallTimeout_wf h
  | consumerStallTimeout => exact execConsumerStallTimeout_wf h
  | jobStopQuiesceEnd => exact execJobStopQuiesceEnd_wf h
  | drydownComplete => exact execDrydownComplete_wf h
  | sqWaitTimeout => exact execSqWaitTimeout_wf h
  | hbWaitTimeout => exact execHbWaitTimeout_wf h
  | hatbandCrossing => exact execHatbandCrossing_wf h
  | crossingSeen => exact execCrossingSeen_wf h
  | retentionCopyDone => exact execRetentionCopyDone_wf h
  | routerForward => exact execRouterForward_wf h
  | egressPortTile => exact execEgressPortTile_wf h
  | putPacket => exact execPutPacket_wf h
  | getReq => exact atTile_wf (fun _ _ _ h1 => getAt_wf h1) h
  | raddPacket => exact atTile_wf (fun _ _ _ h1 => raddAt_wf h1) h
  | signalPacket => exact atTile_wf (fun _ _ _ h1 => signalAt_wf h1) h
  | tokenPacket => exact atTile_wf (fun _ _ _ h1 => tokenAt_wf h1) h
  | ack => exact execAck_wf h
  | getResp => exact execGetResp_wf h
  | signalResp => exact atTile_wf (fun _ _ _ h1 => signalRespAt_wf h1) h
  | notice => exact atTile_wf (fun _ _ _ h1 => noticeAt_wf h1) h
  | creditPacket => exact atTile_wf (fun _ _ _ h1 => creditAt_wf h1) h
  | nack => exact execNack_wf h
  | mcastPacket => exact execMcastPacket_wf h
  | redPacket => exact execRedPacket_wf h
  | mgmtPacket | scanPacket => exact takeVl3_wf h
  | remoteTimeout => exact execRemoteTimeout_wf h
  | seqQuarantineEnd => exact execSeqQuarantineEnd_wf h
  | creditRepeat => exact execCreditRepeat_wf h
  | tableWriteDone => exact execTableWriteDone_wf h
  | epochChangeTimer => exact execEpochChangeTimer_wf h
  | epochRelease => exact execEpochRelease_wf h
  | dmaDescriptorStart => exact execDmaDescriptorStart_wf h
  | dmaPieceDone => exact execDmaPieceDone_wf h
  | dmaComplete => exact execDmaComplete_wf h
  | hbmScrubRead => exact execHbmScrubRead_wf h
  | portCommit => exact execPortCommit_wf h
  | deepChannelForward => exact execDeepChannelForward_wf h
  | stepConfirm => exact execStepConfirm_wf h
  | gateOpen => exact execGateOpen_wf h
  | loadJob => exact liftAt_wf h fun _ h1 => request_wf (fun _ h2 => loadJob_wf h2) h1
  | startJob => exact execStartJob_wf h
  | startDeliveryDone => exact execStartDeliveryDone_wf h
  | pauseJob => exact execPauseJob_wf h
  | boundaryPauseReady | boundaryPauseTimeout => exact liftAt_wf h fun _ h1 => leaveBoundary_wf h1
  | pauseQuiesceDone => exact execPauseQuiesceDone_wf h
  | pauseScanOutDone => exact execPauseScanOutDone_wf h
  | resumeJob => exact execResumeJob_wf h
  | resumeScanInDone => exact execResumeScanInDone_wf h
  | unloadJobKeep | unloadJobDiscard => exact liftAt_wf h fun _ h1 => jobRequest_wf (fun _ _ _ h2 => unload_wf h2) h1
  | jobStatus => exact liftAt_wf h fun _ h1 => jobRequest_wf (fun _ _ _ h2 => answerCmd_wf h2) h1
  | drydown => exact execDrydown_wf h
  | rollbackQuiesceDone => exact execRollbackQuiesceDone_wf h
  | rollbackRestoreDone => exact execRollbackRestoreDone_wf h
  | tilePoll => exact liftAt_wf h fun _ h1 => DevWf.ite h1 (DevWf.ite h1 (losePos_wf (eventTile_wf h1)))
  | takeoverLoadDone => exact execTakeoverLoadDone_wf h
  | fieldShort => exact liftAt_wf h fun _ h1 => DevWf.ite h1 (isolateField_wf h1)
  | replacementScanOutDone => exact execReplacementScanOutDone_wf h
  | replacementResumeDone => exact execReplacementResumeDone_wf h
  | fieldTestStart | fieldTestDone => exact liftAt_wf h fun _ h1 => DevWf.ite h1 h1
  | fieldTestRetest => exact liftAt_wf h fun _ h1 => DevWf.ite (DevWf.ite h1 (condemn_wf (eventTile_wf h1))) h1
  | ledgerInterval => exact execLedgerInterval_wf h
  | suspensionEnd => exact liftAt_wf h fun _ h1 => onField_wf h1
  | regulatorStep => exact liftAt_wf h fun _ h1 => onField_wf (retargetAll_wf h1)
  | idleEntry => exact execIdleEntry_wf h
  | setEnvelope => exact execSetEnvelope_wf h
  | readLedger => exact execReadLedger_wf h
  | powerState => exact execPowerState_wf h
  | powerTransitionDone => exact execPowerTransitionDone_wf h
  | standbyEntry => exact execStandbyEntry_wf h
  | inputApplied => exact execInputApplied_wf h
  | inputQualified => exact execInputQualified_wf h
  | undervoltage => exact execUndervoltage_wf h
  | standbyDomainStop => exact execStandbyDomainStop_wf h
  | coolantEmergency | caseOvertemp => exact liftBoot_wf h fun _ _ h1 => coolingEmergency_wf h1
  | wakeN => exact execWakeN_wf h
  | startConditionsMet => exact execStartConditionsMet_wf h
  | moduleStart => exact execModuleStart_wf h
  | flaconVerify => exact execFlaconVerify_wf h
  | hbmTrainingDone => exact execHbmTrainingDone_wf h
  | opticalTrainingDone => exact execOpticalTrainingDone_wf h
  | fieldWavePowered => exact execFieldWavePowered_wf h
  | neighbourTestDone => exact execNeighbourTestDone_wf h
  | mapBuildDone => exact execMapBuildDone_wf h
  | firmwareBroadcastDone => exact execFirmwareBroadcastDone_wf h
  | flaconFallback => exact execFlaconFallback_wf h
  | hello => exact execHello_wf h
  | identify => exact execIdentify_wf h
  | attest => exact execAttest_wf h
  | fwStage => exact execFwStage_wf h
  | fwCommit => exact execFwCommit_wf h
  | trainLinks => exact execTrainLinks_wf h
  | trainLinksDone => exact execTrainLinksDone_wf h
  | saveTraining => exact execSaveTraining_wf h
  | readEvents => exact execReadEvents_wf h
  | mapRead => exact execMapRead_wf h
  | mapRefineApply => exact execMapRefineApply_wf h
  | mapRefineCommit => exact execMapRefineCommit_wf h
  | setRankTable => exact execSetRankTable_wf h
  | hbmCopy => exact execHbmCopy_wf h
  | hbmCopyWrite => exact execHbmCopyWrite_wf h
  | hbmCopyRead => exact execHbmCopyRead_wf h
  | testControl => exact liftAt_wf h fun _ h1 => request_wf (fun _ h2 => finishCmd_wf h2) h1
  | malformedFrame => exact execMalformedFrame_wf h
  | snapshotExpiry => exact execSnapshotExpiry_wf h
  | doorbellDone => exact liftAt_wf h fun _ h1 => clearDone_wf h1
  | evrEnable => exact liftAt_wf h fun _ h1 => DevWf.ite (writeEvrCtl_wf h1) h1
  | registerWrite => exact OutWf.ite outFault_wf (liftBoot_wf h (fun _ _ h1 => DevWf.ite (regAccess_wf h1) h1))
  | linkBlock => exact execLinkBlock_wf h
  | dataFrame => exact liftAt_wf h fun _ h1 => DevWf.ite (handleFrame_wf h1) h1
  | creditFrame => exact liftAt_wf h fun _ h1 => DevWf.ite h1 (pumpPort_wf (setLink_wf h1))
  | capFrame => exact execCapFrame_wf h
  | laneFrame | linkRetrain => exact liftAt_wf h fun _ h1 => DevWf.ite h1 (setLink_wf h1)
  | memReq => exact execMemReq_wf h
  | laneLoss => exact liftAt_wf h fun _ h1 => DevWf.ite h1 (appendLog_wf (emit_wf (setLink_wf h1)))
  | laneRepeat => exact liftAt_wf h fun _ h1 => DevWf.ite (emit_wf h1) h1
  | linkCreditRepeat => exact liftAt_wf h fun _ h1 => DevWf.ite (emitCredits_wf h1) h1
  | capRepeat => exact liftAt_wf h fun _ h1 => DevWf.ite (sendCap_wf h1) h1
  | linkDown => exact liftAt_wf h fun _ h1 => DevWf.ite h1 (appendLog_wf (setLink_wf h1))
  | linkRetrainDone => exact liftAt_wf h fun _ h1 => DevWf.ite (applyPort_wf h1) h1
  | discardSummary => exact execDiscardSummary_wf h
  | boundaryRecordWritten => exact execBoundaryRecordWritten_wf h
  | generationProgrammed => exact execGenerationProgrammed_wf h
  | hbmOrOpticalSupplyFault => exact execHbmOrOpticalSupplyFault_wf h
  | stackReportsAbove85C => exact liftAt_wf h fun _ h1 => h1
  | tapInstruction => exact execTapInstruction_wf h

theorem step_wf {s : State} (h : DevWf s.dev) : OutWf (step s) := by
  unfold step
  split
  next => exact outNext_wf (by split <;> exact h)
  next c r _ => exact exec_wf (s := { s with pending := r }) h c

/-- Settles O6: a step is one command or one idle step, and each keeps every memory canonical. -/
theorem memoriesStayCanonical : Obligations.MemoriesStayCanonical := by
  intro s t hs ht
  exact memWf_iff.2 (step_wf (memWf_iff.1 hs) t ht)

end Sys2Proof.Proofs.Memories
end

section
/-! PROOFS. What the proofs about single instructions share: an instruction that issues has its own end, a read and a
store that nothing stops, and what these leave of a tile. -/

namespace Sys2Proof.Proofs.Threads

open Sys2Proof Sys2Proof.Machine Sys2Proof.Claim

/-- An instruction that can be issued has its own end. -/
theorem liftAt_runThread {s : State} {t : Pos} {ts : Nat} {w : Word} {f : Dev → Res} {r : Res} (h : Issues s t ts w)
    (hr : f s.dev = r) : liftAt (slotOk t ts) (runThread t ts w f) s = .next (on s fun _ => r.apply t ts w s.dev) := by
  obtain ⟨hok, hissue, hlegal, htag⟩ := h
  rw [liftAt_ok _ _ hok, runThread_own hissue hlegal htag, hr]
  rfl

theorem pcPlus_one (s : State) (t : Pos) (ts : Nat) : pcPlus s t ts 1 = nextPc t.kind (thread s t ts).pc := by
  have h : ((thread s t ts).pc : Int) + 1 = ((thread s t ts).pc + 1 : Nat) := by push_cast; rfl
  rw [pcPlus, nextPc, h, ← Int.natCast_emod, Int.toNat_natCast]

@[simp] theorem tile_apply_done {s : State} {t : Pos} {ts : Nat} {w : Word} {d e : Dev} :
    (on s fun _ => (Res.done e).apply t ts w d).dev.tile t = (e.tile t).onSlot ts fun y => y.resume t.kind :=
  Dev.tile_onTile _ _ _

theorem tile_apply_done_ne {s : State} {t p : Pos} {ts : Nat} {w : Word} {d e : Dev} (h : p.ix ≠ t.ix) :
    (on s fun _ => (Res.done e).apply t ts w d).dev.tile p = e.tile p :=
  Dev.tile_onTile_ne _ _ h

@[simp] theorem thread_apply_done {s : State} {t : Pos} {ts : Nat} {w : Word} {d e : Dev} :
    thread (on s fun _ => (Res.done e).apply t ts w d) t ts = ((e.tile t).slot ts).resume t.kind := by
  simp [thread]

theorem thread_apply_done_ne {s : State} {t : Pos} {ts n : Nat} {w : Word} {d e : Dev} (h : n ≠ ts) :
    thread (on s fun _ => (Res.done e).apply t ts w d) t n = (e.tile t).slot n := by
  simp [thread, Tile.slot_onSlot_ne _ _ h]

/-- The completion of an instruction that has left the slots alone only moves its thread on. -/
theorem onlyAdvances_done {s : State} {t : Pos} {ts : Nat} {w : Word} {d e : Dev}
    (h : (e.tile t).slots = (s.dev.tile t).slots) :
    Claim.OnlyAdvances s (on s fun _ => (Res.done e).apply t ts w d) t ts := by
  have hslot : ∀ n, (e.tile t).slot n = thread s t n := fun n => by rw [Tile.slot, h]; rfl
  have hother : ∀ n, n ≠ ts → thread (on s fun _ => (Res.done e).apply t ts w d) t n = thread s t n :=
    fun n hn => by rw [thread_apply_done_ne hn, hslot]
  refine ⟨fun n r => ?_, ?_, ?_, ?_, hother⟩
  · by_cases hn : n = ts
    · rw [hn, thread_apply_done, Slot.resume_g, hslot]
    · rw [hother n hn]
  · rw [thread_apply_done, hslot, pcPlus_one]; rfl
  · rw [thread_apply_done]; rfl
  · rw [thread_apply_done]; rfl

/-- Positions of one index name one tile. -/
theorem tile_of_ix_eq (d : Dev) {p q : Pos} (h : p.ix = q.ix) : d.tile p = d.tile q := by
  unfold Dev.tile; rw [h]

/-- A property of tiles that holds of the changed tile holds of every tile. -/
theorem forall_tile {d e : Dev} {t : Pos} {P : Tile → Tile → Prop} (ht : P (e.tile t) (d.tile t))
    (ho : ∀ p : Pos, p.ix ≠ t.ix → e.tile p = d.tile p) (hrefl : ∀ x, P x x) (p : Pos) : P (e.tile p) (d.tile p) := by
  by_cases h : p.ix = t.ix
  · rwa [tile_of_ix_eq e h, tile_of_ix_eq d h]
  · rw [ho p h]; exact hrefl _

section
variable (x : Tile) (ws : List Nat)

/-- The correction of single-bit errors changes the list of errors and their count alone (R76). -/
theorem scrub_eq : x.scrub ws = { x with stats := (x.scrub ws).stats, weak := (x.scrub ws).weak } := by
  unfold Tile.scrub
  dsimp only
  split <;> rfl

@[simp] theorem scrub_mem : (x.scrub ws).mem = x.mem := by rw [scrub_eq]
@[simp] theorem scrub_bad : (x.scrub ws).bad = x.bad := by rw [scrub_eq]
@[simp] theorem scrub_slots : (x.scrub ws).slots = x.slots := by rw [scrub_eq]
@[simp] theorem scrub_slot (n : Nat) : (x.scrub ws).slot n = x.slot n := by rw [Tile.slot, scrub_slots]; rfl
@[simp] theorem scrub_flow : (x.scrub ws).flow = x.flow := by rw [scrub_eq]
@[simp] theorem scrub_tensor : (x.scrub ws).tensor = x.tensor := by rw [scrub_eq]
@[simp] theorem scrub_step : (x.scrub ws).step = x.step := by rw [scrub_eq]
@[simp] theorem scrub_granted : (x.scrub ws).granted = x.granted := by rw [scrub_eq]
@[simp] theorem scrub_net : (x.scrub ws).net = x.net := by rw [scrub_eq]
@[simp] theorem scrub_check : (x.scrub ws).check = x.check := by rw [scrub_eq]
@[simp] theorem scrub_ctl : (x.scrub ws).ctl = x.ctl := by rw [scrub_eq]

end

@[simp] theorem rangeForeign_scrub (x : Tile) (ws : List Nat) (own : Option Nat) (a n : Nat) :
    rangeForeign (x.scrub ws) own a n = rangeForeign x own a n := by
  have h : foreignOwner (x.scrub ws) own = foreignOwner x own := by funext l; simp [foreignOwner]
  simp [rangeForeign, h]

@[simp] theorem copyProtected_scrub (d : Dev) (p : Pos) (ws : List Nat) (a n : Nat) :
    copyProtected (d.setTile p ((d.tile p).scrub ws)) p a n = copyProtected d p a n := by
  simp [copyProtected, Dev.jobAt, Dev.job?]

/-- A read of a range that nothing stops (R76, R176, R184). -/
theorem withRead_eq {p : Pos} {ts a n : Nat} {d : Dev} (k : List Byte → Dev → Res) (hn : n ≠ 0)
    (hm : inMem p.kind a n = true) (hf : rangeForeign (d.tile p) ((d.tile p).slot ts).spec a n = false)
    (hb : (wordsOf a n).any (d.tile p).bad.contains = false) :
    withRead p ts a n d k = k ((d.tile p).mem.readN a n) (d.setTile p ((d.tile p).scrub (wordsOf a n))) := by
  simp [withRead, hn, hm, hf, Tile.load, hb]

/-- What lets a thread store a range (R175, R176, R184, R334). -/
theorem writeStop_eq_none_iff {p : Pos} {ts a n : Nat} {d : Dev} : writeStop p ts a n d = none ↔
    n = 0 ∨ (inMem p.kind a n = true
      ∧ (((d.tile p).slot ts).spec = none ∨ ((d.tile p).flow.scratch = true ∧ 0x3C000 ≤ a ∧ a + n ≤ 0x40000))
      ∧ rangeForeign (d.tile p) ((d.tile p).slot ts).spec a n = false ∧ copyProtected d p a n = false) := by
  have hown : (((d.tile p).slot ts).spec.isSome
        && !((d.tile p).flow.scratch && decide (0x3C000 ≤ a ∧ a + n ≤ 0x40000))) = false
      ↔ ((d.tile p).slot ts).spec = none ∨ ((d.tile p).flow.scratch = true ∧ 0x3C000 ≤ a ∧ a + n ≤ 0x40000) := by
    cases ((d.tile p).slot ts).spec <;> simp
  rw [← hown]
  simp only [writeStop]
  by_cases hn : n = 0
  · simp [hn]
  cases inMem p.kind a n
  · simp [hn]
  cases ((d.tile p).slot ts).spec.isSome && !((d.tile p).flow.scratch && decide (0x3C000 ≤ a ∧ a + n ≤ 0x40000))
  · cases rangeForeign (d.tile p) ((d.tile p).slot ts).spec a n
    · cases copyProtected d p a n <;> simp [hn]
    · simp [hn]
  · simp [hn]

/-- A store changes the bytes of its range, the errors of its words, their count and the note of R154 (R76). -/
theorem store_eq {x y : Tile} {a : Nat} {bs : List Byte} (h : x.store a bs = some y) :
    y = { x with mem := x.mem.writeN a bs, bad := x.bad.filter (fun w => !(wordsOf a bs.length).contains w),
                 weak := y.weak, stats := y.stats, maskHit := y.maskHit } := by
  simp only [Tile.store] at h
  split at h
  · cases h
  · cases h
    rw [Tile.noteMask_eq, scrub_eq]

theorem store_isSome {x : Tile} {a : Nat} {bs : List Byte} (h : (partWords a bs.length).any x.bad.contains = false) :
    ∃ y, x.store a bs = some y := by
  simp only [Tile.store, h]
  exact ⟨_, rfl⟩

@[simp] theorem takeLines_mem (own : Option Nat) (a n : Nat) (x : Tile) : (takeLines own a n x).mem = x.mem := by
  cases own <;> rfl
@[simp] theorem takeLines_slots (own : Option Nat) (a n : Nat) (x : Tile) : (takeLines own a n x).slots = x.slots := by
  cases own <;> rfl

/-- A tile after a store of a range that nothing stops. -/
def stored (own : Option Nat) (a : Nat) (bs : List Byte) (x : Tile) : Tile :=
  takeLines own a bs.length ((x.store a bs).getD x)

theorem stored_mem_slots {own : Option Nat} {a : Nat} {bs : List Byte} {x : Tile}
    (h : (partWords a bs.length).any x.bad.contains = false) :
    (stored own a bs x).mem = x.mem.writeN a bs ∧ (stored own a bs x).slots = x.slots := by
  obtain ⟨y, hy⟩ := store_isSome h
  have e := store_eq hy
  simp only [stored, takeLines_mem, takeLines_slots, hy, Option.getD_some]
  exact ⟨congrArg Tile.mem e, by rw [e]⟩

/-- A store of a range that nothing stops (R175, R176, R184, R334). -/
theorem withWrite_eq {s : State} {p : Pos} {ts a : Nat} {bs : List Byte} (k : Dev → Res) (hn : bs.length ≠ 0)
    (h : Claim.Writable s p ts a bs.length) :
    withWrite p ts a bs s.dev k = k (s.dev.setTile p (stored (thread s p ts).spec a bs (s.dev.tile p))) := by
  obtain ⟨hm, hs, hf, hc, hb⟩ := h.resolve_left hn
  obtain ⟨y, hy⟩ := store_isSome hb
  have he : bs.isEmpty = false := by cases bs <;> simp_all
  have hstop : writeStop p ts a bs.length s.dev = none := writeStop_eq_none_iff.2 (.inr ⟨hm, hs, hf, hc⟩)
  simp [withWrite, he, hstop, hy, stored, thread]

end Sys2Proof.Proofs.Threads
end

section
/-! PROOFS. Loads and stores of tile memory (O14, O15). -/

namespace Sys2Proof.Proofs.LoadsAndStores

open Sys2Proof Sys2Proof.Machine Sys2Proof.Claim Sys2Proof.Proofs.Threads

@[simp] theorem length_le (n v : Nat) : (le n v).length = n := by
  induction n generalizing v with
  | zero => rfl
  | succ n ih => simp [le, ih]

section
variable {s : State} {t : Pos} {ts n : Nat} {rd rs1 : Reg} {i : BitVec 15} {w : Word} {a : Nat}

/-- The device after a load has put its value into rd. -/
def loaded (d : Dev) (t : Pos) (ts a n : Nat) (rd : Reg) (f : Nat → Word) : Dev :=
  (d.setTile t ((d.tile t).scrub (wordsOf a n))).onTile t fun x =>
    x.onSlot ts fun y => y.setG rd (f ((d.tile t).mem.readLe a n))

@[simp] theorem loaded_tile {d : Dev} {f : Nat → Word} :
    (loaded d t ts a n rd f).tile t =
      ((d.tile t).scrub (wordsOf a n)).onSlot ts fun y => y.setG rd (f ((d.tile t).mem.readLe a n)) := by
  simp [loaded]

theorem loaded_tile_ne {d : Dev} {f : Nat → Word} {p : Pos} (h : p.ix ≠ t.ix) :
    (loaded d t ts a n rd f).tile p = d.tile p := by
  rw [loaded, Dev.tile_onTile_ne _ _ h, Dev.tile_setTile_ne _ _ h]

/-- A load of a range that nothing stops puts the value into rd. -/
theorem loadOp_eq (f : Nat → Word) (ha : addrOf ((thread s t ts).g rs1) i = a) (hn : n ≠ 0) (hal : a % n = 0)
    (hw : inWindow a = false) (hr : Claim.Readable s t ts a n) :
    loadOp t ts n rd rs1 i f s.dev = .done (loaded s.dev t ts a n rd f) := by
  obtain ⟨hm, hf, hb⟩ := hr.resolve_left hn
  unfold thread at ha hf
  simp [loadOp, ha, hal, hw, withRead_eq _ hn hm hf hb, Mem.readLe, loaded]

/-- A store of a range that nothing stops writes the low bytes of rd. -/
theorem storeOp_eq (ha : addrOf ((thread s t ts).g rs1) i = a) (hn : n ≠ 0) (hal : a % n = 0) (hw : inWindow a = false)
    (hr : Claim.Writable s t ts a n) :
    storeOp t ts n rd rs1 i s.dev =
      .done (s.dev.setTile t (stored (thread s t ts).spec a (le n ((thread s t ts).g rd).toNat) (s.dev.tile t))) := by
  rw [← withWrite_eq .done (by simpa) (by simpa)]
  unfold thread at *
  simp [storeOp, ha, hal, hw]

/-- What `Obligations.LoadsReadTileMemory` says of one load. -/
theorem load_reads {c : Instr} (f : Nat → Word)
    (hc : exec c s = liftAt (slotOk t ts) (runThread t ts w (loadOp t ts n rd rs1 i f)) s) (hi : Issues s t ts w)
    (ha : addrOf ((thread s t ts).g rs1) i = a) (hn : n ≠ 0) (hal : a % n = 0)
    (hw : inWindow a = false) (hr : Claim.Readable s t ts a n) :
    ∃ u, exec c s = .next u
      ∧ (thread u t ts).g rd = (if rd.val = 0 then 0 else f ((s.dev.tile t).mem.readLe a n))
      ∧ (∀ r : Reg, r ≠ rd → (thread u t ts).g r = (thread s t ts).g r) ∧ (thread u t ts).pc = pcPlus s t ts 1
      ∧ (∀ n : Nat, n ≠ ts → thread u t n = thread s t n)
      ∧ (∀ p : Pos, (u.dev.tile p).mem = (s.dev.tile p).mem ∧ (p.ix ≠ t.ix → u.dev.tile p = s.dev.tile p))
      ∧ u.dev.jobs = s.dev.jobs ∧ u.dev.brim = s.dev.brim ∧ u.boot = s.boot := by
  refine ⟨_, hc.trans (liftAt_runThread hi (loadOp_eq f ha hn hal hw hr)), ?_⟩
  refine ⟨?_, fun r hr => ?_, ?_, fun m hm => ?_, fun p => ⟨?_, ?_⟩, rfl, rfl, rfl⟩
  · simp [Slot.g_setG]
  · simp [Slot.g_setG_ne _ _ hr, thread]
  · simp [pcPlus_one, Slot.resume, thread]
  · simp [thread, Tile.slot_onSlot_ne _ _ hm]
  · exact forall_tile (P := fun x y => x.mem = y.mem) (by simp)
      (fun p h => (tile_apply_done_ne h).trans (loaded_tile_ne h)) (fun _ => rfl) p
  · exact fun h => (tile_apply_done_ne h).trans (loaded_tile_ne h)

/-- What `Obligations.StoresWriteTheirBytesOnly` says of one store. -/
theorem store_writes {c : Instr} (hc : exec c s = liftAt (slotOk t ts) (runThread t ts w (storeOp t ts n rd rs1 i)) s)
    (hi : Issues s t ts w) (ha : addrOf ((thread s t ts).g rs1) i = a) (hn : n ≠ 0) (hal : a % n = 0)
    (hw : inWindow a = false) (hr : Claim.Writable s t ts a n) (hwf : (s.dev.tile t).mem.wf = true) :
    ∃ u, exec c s = .next u ∧ Claim.Stored s u t a (le n ((thread s t ts).g rd).toNat)
      ∧ Claim.OnlyAdvances s u t ts := by
  refine ⟨_, hc.trans (liftAt_runThread hi (storeOp_eq ha hn hal hw hr)), ?_⟩
  obtain ⟨-, -, -, -, hb⟩ := hr.resolve_left hn
  obtain ⟨hmem, hslots⟩ := stored_mem_slots (own := (thread s t ts).spec) (a := a)
    (bs := le n ((thread s t ts).g rd).toNat) (x := s.dev.tile t) (by simpa using hb)
  generalize stored (thread s t ts).spec a (le n ((thread s t ts).g rd).toNat) (s.dev.tile t) = x at hmem hslots
  refine ⟨⟨?_, fun b hb => ?_, fun p hp => ?_, ?_, rfl, rfl, rfl, rfl, rfl⟩, onlyAdvances_done (by simpa using hslots)⟩
  · simp only [tile_apply_done, Tile.onSlot_mem, Dev.tile_setTile, hmem]
    exact Mem.readN_writeN a _ hwf
  · simp [hmem, Mem.read_writeN_out _ _ _ hb]
  · rw [tile_apply_done_ne hp, Dev.tile_setTile_ne _ _ hp]
  · simp [hmem, Mem.wf_writeN _ _ hwf]

end

/-- Settles O14: each of the five loads is `loadOp` with its size and its extension. -/
theorem loadsReadTileMemory : Obligations.LoadsReadTileMemory := by
  intro s t ts rd rs1 i e he
  simp only [Claim.loads, List.mem_cons, List.not_mem_nil, or_false] at he
  rcases he with rfl | rfl | rfl | rfl | rfl <;>
    exact fun hi => load_reads _ rfl hi rfl (Nat.succ_ne_zero _)

/-- Settles O15: each of the three stores is `storeOp` with its size. -/
theorem storesWriteTheirBytesOnly : Obligations.StoresWriteTheirBytesOnly := by
  intro s t ts rd rs1 i e he
  simp only [Claim.stores, List.mem_cons, List.not_mem_nil, or_false] at he
  rcases he with rfl | rfl | rfl <;> exact fun hi => store_writes rfl hi rfl (Nat.succ_ne_zero _)

end Sys2Proof.Proofs.LoadsAndStores
end

section
/-! PROOFS. The instructions of the tensor and vector units (O30, O31). -/

namespace Sys2Proof.Proofs.TensorInstructions

open Sys2Proof Sys2Proof.Machine Sys2Proof.Claim Sys2Proof.Proofs.Threads

section
variable {s : State} {t : Pos} {ts : Nat} {w : Word}

/-- An instruction that ends with an entry in the queue of a tile that has kept its slots, step, memory and tensor
unit. -/
theorem queued_done {q : QWork} {d e : Dev} (hslots : (e.tile t).slots = (s.dev.tile t).slots)
    (hstep : (e.tile t).step = (s.dev.tile t).step) (hmem : (e.tile t).mem = (s.dev.tile t).mem)
    (htensor : (e.tile t).tensor = (s.dev.tile t).tensor) :
    Claim.Queued s (on s fun _ => (Res.done (enqueue t ts q e)).apply t ts w d) t ts q := by
  have hslot : (e.tile t).slot ts = thread s t ts := by rw [Tile.slot, hslots]; rfl
  refine ⟨⟨q, ((e.tile t).slot ts).spec, (e.tile t).step, false, {}, [], false⟩, ?_, rfl, ?_, hstep, rfl, ?_, ?_,
    onlyAdvances_done ?_⟩
  · simp [enqueue, htensor]
  · rw [hslot]
  · simp [enqueue, hmem]
  · simp [enqueue, htensor]
  · simp [enqueue, hslots]

/-- A thread that goes on with nothing else done. -/
theorem done_eq_goesTo :
    (on s fun _ => (Res.done s.dev).apply t ts w s.dev) = on s (goesTo t ts (pcPlus s t ts 1)) := by
  rw [pcPlus_one]; rfl

end

/-- Settles O31: the branches of DRAIN, DISCARD and TWAIT. -/
theorem accordInstructions : Obligations.AccordInstructions := by
  intro s t ts rd rs1 rs2 i x y
  refine ⟨fun hi => ?_, fun hi hfull => ?_, fun hi => ⟨?_, ?_, ?_⟩⟩
  · intro w f hdst hrows hcols hbad hfull
    have hin : ¬ (4096 < f.m0 + f.rows ∨ 4096 < f.n0 + f.cols) := by omega
    refine ⟨_, liftAt_runThread hi ?_, queued_done (e := s.dev) rfl rfl rfl rfl⟩
    exact (if_neg (not_not.2 hdst)).trans ((if_neg hin).trans
      ((if_neg (Bool.eq_false_iff.1 hbad)).trans (if_neg (Bool.eq_false_iff.1 hfull))))
  · exact ⟨_, liftAt_runThread hi (if_neg (Bool.eq_false_iff.1 hfull)), queued_done (e := s.dev) rfl rfl rfl rfl⟩
  · intro hall hbusy
    refine (liftAt_runThread hi ?_).trans (congrArg _ done_eq_goesTo)
    exact (if_neg (Bool.eq_false_iff.1 hall)).trans (if_neg (Bool.eq_false_iff.1 hbusy))
  · intro hall ha hempty
    refine (liftAt_runThread hi ?_).trans (congrArg _ done_eq_goesTo)
    exact (if_pos hall).trans ((if_neg (not_not.2 ha)).trans (if_pos (List.isEmpty_iff.2 hempty)))
  · rintro (⟨hall, hbusy⟩ | ⟨hall, ha, hne⟩)
    · exact liftAt_runThread hi (r := .wait 10 s.dev)
        ((if_neg (Bool.eq_false_iff.1 hall)).trans (if_pos hbusy))
    · exact liftAt_runThread hi (r := .wait 10 s.dev)
        ((if_pos hall).trans ((if_neg (not_not.2 ha)).trans (if_neg (mt List.isEmpty_iff.1 hne))))

/-! ## TOP and VOP -/

/-- The checks of a descriptor look at the tile's registers alone. -/
theorem badDesc_scrub (x : Tile) (ws : List Nat) (e : TDesc) (n : Nat) : badDesc (x.scrub ws) e n = badDesc x e n := by
  rw [scrub_eq]; rfl

theorem writeStop_scrub {p : Pos} {ts a n : Nat} {d : Dev} {ws : List Nat} :
    writeStop p ts a n (d.setTile p ((d.tile p).scrub ws)) = none ↔ writeStop p ts a n d = none := by
  simp [writeStop_eq_none_iff]

theorem vopWriteStop_scrub {p : Pos} {ts : Nat} {d : Dev} {ws : List Nat} {v : VDesc} :
    vopWriteStop p ts (d.setTile p ((d.tile p).scrub ws)) v = none ↔ vopWriteStop p ts d v = none := by
  simp [vopWriteStop, List.findSome?_eq_none_iff, writeStop_scrub]

theorem setTile_setTile (d : Dev) (p : Pos) (x y : Tile) : (d.setTile p x).setTile p y = d.setTile p y := by
  simp [Dev.setTile]

theorem take_readN (m : Mem) (a : Nat) {k n : Nat} (h : k ≤ n) : (m.readN a n).take k = m.readN a k := by
  simp [Mem.readN, ← List.map_take, List.take_range, Nat.min_eq_left h]

section
variable {s : State} {t : Pos} {ts : Nat}

/-- The block count read from the header, when nothing stops its read. -/
theorem readNblk_eq {e : TDesc} {ws : List Nat} (k : Nat → Dev → Res)
    (h : e.sparse = 3 ∧ e.mode = 0 → Claim.Readable s t ts (16 * e.metaAddr) 16) : ∃ vs,
    readNblk t ts e (s.dev.setTile t ((s.dev.tile t).scrub ws)) k =
      k (Claim.headerBlocks (s.dev.tile t).mem e) (s.dev.setTile t (((s.dev.tile t).scrub ws).scrub vs)) := by
  by_cases he : e.sparse = 3 ∧ e.mode = 0
  · obtain ⟨hm, hf, hb⟩ := (h he).resolve_left (by decide)
    unfold thread at hf
    refine ⟨wordsOf (16 * e.metaAddr) 16, ?_⟩
    rw [readNblk, if_pos he, withRead_eq _ (by decide) hm (by simpa using hf) (by simpa using hb)]
    simp [Claim.headerBlocks, he, take_readN, Mem.readLe, setTile_setTile]
  · refine ⟨[], ?_⟩
    rw [readNblk, if_neg he]
    simp [Claim.headerBlocks, he, Tile.scrub]

/-- The end of TOP, when its descriptor has been read: the checks that follow, and the entry (R93, R98). -/
def topEnd (t : Pos) (ts : Nat) (ws : List Word) (n : Nat) (d : Dev) : Res :=
  if badDesc (d.tile t) (tdesc ws) n then .fault 0x0104 0
  else if (tdesc ws).mode = 1 ∧ ¬ (d.tile t).granted then .fault 0x0105 0
  else if (tdesc ws).prov != ((d.tile t).slot ts).spec.isSome then .fault 0x0603 0
  else if (tdesc ws).prov ∧ scoutOutside (tdesc ws) then .fault 0x0602 0
  else .done (enqueue t ts (.tensor ws n) d)

theorem topEnd_eq {ws : List Word} {n : Nat} {d : Dev} (hbad : badDesc (d.tile t) (tdesc ws) n = false)
    (hgrant : (tdesc ws).mode = 1 → (d.tile t).granted = true)
    (hprov : (tdesc ws).prov = ((d.tile t).slot ts).spec.isSome)
    (hscout : (tdesc ws).prov = true → scoutOutside (tdesc ws) = false) :
    topEnd t ts ws n d = .done (enqueue t ts (.tensor ws n) d) := by
  have hg : ¬ ((tdesc ws).mode = 1 ∧ ¬ (d.tile t).granted = true) := fun h => h.2 (hgrant h.1)
  have hs : ¬ ((tdesc ws).prov = true ∧ scoutOutside (tdesc ws) = true) := fun h => by simp [hscout h.1] at h
  rw [topEnd, if_neg (Bool.eq_false_iff.1 hbad), if_neg hg, if_neg (by simp [hprov]), if_neg hs]

/-- TOP reads its descriptor, then the header of a block-sparse operand, then ends. -/
theorem topOp_read {r : Reg} {d : Dev} {a : Nat} (ha : (((d.tile t).slot ts).g r).toNat = a) (hal : a % 16 = 0)
    (hfull : queueFull (d.tile t) = false) (hm : inMem t.kind a 32 = true)
    (hf : rangeForeign (d.tile t) ((d.tile t).slot ts).spec a 32 = false)
    (hb : (wordsOf a 32).any (d.tile t).bad.contains = false) :
    topOp t ts r d = readNblk t ts (tdesc (wordsLe ((d.tile t).mem.readN a 32)))
      (d.setTile t ((d.tile t).scrub (wordsOf a 32))) (topEnd t ts (wordsLe ((d.tile t).mem.readN a 32))) := by
  subst ha
  refine (if_neg (not_not.2 hal)).trans ((if_neg (Bool.eq_false_iff.1 hfull)).trans ?_)
  exact withRead_eq _ (by decide) hm hf hb

/-- TOP with every check met puts its operation into the queue (R78, R93, R98, R131). -/
theorem topOp_eq {r : Reg} {ws : List Word} {e : TDesc} {n : Nat} {a : Nat} (ha : ((thread s t ts).g r).toNat = a)
    (hws : wordsLe ((s.dev.tile t).mem.readN a 32) = ws) (he : tdesc ws = e)
    (hn : Claim.headerBlocks (s.dev.tile t).mem e = n)
    (hal : a % 16 = 0) (hr : Claim.Readable s t ts a 32) (hfull : queueFull (s.dev.tile t) = false)
    (hhead : e.sparse = 3 ∧ e.mode = 0 → Claim.Readable s t ts (16 * e.metaAddr) 16)
    (hbad : badDesc (s.dev.tile t) e n = false) (hgrant : e.mode = 1 → (s.dev.tile t).granted = true)
    (hprov : e.prov = (thread s t ts).spec.isSome) (hscout : e.prov = true → scoutOutside e = false) : ∃ us vs,
    topOp t ts r s.dev =
      .done (enqueue t ts (.tensor ws n) (s.dev.setTile t (((s.dev.tile t).scrub us).scrub vs))) := by
  obtain ⟨hm, hf, hb⟩ := hr.resolve_left (by decide)
  subst hws he hn
  obtain ⟨vs, hvs⟩ := readNblk_eq (ws := wordsOf a 32) (topEnd t ts (wordsLe ((s.dev.tile t).mem.readN a 32))) hhead
  refine ⟨wordsOf a 32, vs, (topOp_read ha hal hfull hm hf hb).trans (hvs.trans (topEnd_eq ?_ ?_ ?_ hscout))⟩
  · simpa [badDesc_scrub] using hbad
  · simpa using hgrant
  · simpa [thread] using hprov

/-- A tile whose vector unit works at an operation that a thread waits for. -/
def vopStarted (ts : Nat) (r : Reg) (ws : List Word) (x : Tile) : Tile :=
  { (x.onSlot ts (fun s => { s with st := .waiting, wait := some .vector })) with
    tensor := { x.tensor with vop := some { slot := ts, insn := encA 0x60 0 r 0 0, step := x.step, desc := ws } } }

theorem vopStarted_slot (r : Reg) (ws : List Word) (x : Tile) :
    (vopStarted ts r ws x).slot ts = { x.slot ts with st := .waiting, wait := some .vector } :=
  Tile.slot_onSlot x ts (fun s => { s with st := .waiting, wait := some .vector })

theorem tile_apply_stay {w : Word} {d e : Dev} {x : Tile} :
    (on s fun _ => (Res.stay (e.setTile t x)).apply t ts w d).dev.tile t = x :=
  Dev.tile_setTile _ _ _

theorem thread_apply_stay {w : Word} {d e : Dev} {x : Tile} :
    thread (on s fun _ => (Res.stay (e.setTile t x)).apply t ts w d) t ts = x.slot ts := by
  rw [thread, tile_apply_stay]

/-- VOP with every check met starts the vector unit (R110, R214). -/
theorem vopOp_eq {r : Reg} {ws : List Word} {v : VDesc} {a : Nat} (ha : ((thread s t ts).g r).toNat = a)
    (hws : wordsLe ((s.dev.tile t).mem.readN a 32) = ws) (hv : vdesc ws = v) (hk : t.kind = 1)
    (hal : a % 16 = 0) (hr : Claim.Readable s t ts a 32) (hidle : (s.dev.tile t).tensor.vop = none)
    (hbad : v.bad = false)
    (hin : (v.reads ++ v.writes).all (fun z => z.1 % 4 == 0 && inMem 1 z.1 z.2) = true)
    (hown : v.reads.all (fun z => !rangeForeign (s.dev.tile t) (thread s t ts).spec z.1 z.2) = true)
    (hstop : vopWriteStop t ts s.dev v = none) : ∃ us,
    vopOp t ts r s.dev = .stay (s.dev.setTile t (vopStarted ts r ws ((s.dev.tile t).scrub us))) := by
  obtain ⟨hm, hf, hb⟩ := hr.resolve_left (by decide)
  unfold thread at *
  have hz : ∀ z ∈ v.reads ++ v.writes, z.1 % 4 = 0 ∧ inMem t.kind z.1 z.2 = true := fun z h => by
    simpa [hk] using List.all_eq_true.1 hin z h
  have hin4 : (v.reads ++ v.writes).any (fun z => z.1 % 4 ≠ 0) = false :=
    List.any_eq_false.2 fun z h => by simp [(hz z h).1]
  have hinMem : (v.reads ++ v.writes).any (fun z => !inMem t.kind z.1 z.2) = false :=
    List.any_eq_false.2 fun z h => by simp [(hz z h).2]
  have hforeign : v.reads.any (fun z => rangeForeign (s.dev.tile t) ((s.dev.tile t).slot ts).spec z.1 z.2) = false := by
    simpa using hown
  refine ⟨wordsOf a 32, ?_⟩
  simp only [vopOp, ha, hal, hidle, withRead_eq _ (by decide : 32 ≠ 0) hm hf hb, hws, hv, hbad, hin4, hinMem]
  simp only [Dev.tile_setTile, scrub_slot, rangeForeign_scrub, hforeign, vopWriteStop_scrub.2 hstop]
  simp [Dev.onTile, setTile_setTile, vopStarted]

end

/-- Settles O30: TOP by `topOp_eq`, VOP by `vopOp_eq`. -/
theorem tensorAndVectorOperationsIssue : Obligations.TensorAndVectorOperationsIssue := by
  intro s t ts r hi a x ws hal hr
  refine ⟨fun hk => ?_, fun hk => ?_⟩
  · intro e n hfull hhead hbad hgrant hprov hscout
    obtain ⟨us, vs, h⟩ := topOp_eq (r := r) rfl rfl rfl rfl hal hr hfull hhead hbad hgrant hprov hscout
    have hk1 : t.kind ≠ 1 := by omega
    exact ⟨_, liftAt_runThread hi ((if_neg hk1).trans h), queued_done (by simp) (by simp) (by simp) (by simp)⟩
  · intro v hidle hbad hin hown hstop
    obtain ⟨us, h⟩ := vopOp_eq (r := r) rfl rfl rfl hk hal hr hidle hbad hin hown hstop
    refine ⟨_, liftAt_runThread hi ((if_pos hk).trans h), ?_, ?_, ?_, ?_, _, congrArg (·.tensor.vop) tile_apply_stay,
      rfl, rfl, scrub_step _ _⟩
    · rw [thread_apply_stay, vopStarted_slot]
    · rw [thread_apply_stay, vopStarted_slot]
    · rw [thread_apply_stay, vopStarted_slot, scrub_slot]; rfl
    · rw [tile_apply_stay]; exact scrub_mem _ _

end Sys2Proof.Proofs.TensorInstructions
end

section
/-! PROOFS. The head of the issue queue (O32). -/

namespace Sys2Proof.Proofs.QueueHead

open Sys2Proof Sys2Proof.Machine Sys2Proof.Claim

/-! ## Accords -/

theorem acc_setAcc_ne (x : Tile) {n m : Nat} (a : Accord) (h : m ≠ n) : (x.setAcc n a).acc m = x.acc m :=
  Tab.get_set_ne _ _ _ h

/-- A list of accords opened one after the other (R97). -/
def openAccs (spec : Option Nat) (int : Bool) (l : List Nat) (x : Tile) : Tile :=
  l.foldl (fun x a => x.setAcc a (openAcc spec int (x.acc a))) x

/-- An accord as `openAcc` leaves it. -/
def Opened (spec : Option Nat) (a : Accord) : Prop :=
  a.vals = [] ∧ a.st = if spec.isSome then .openProv else .opened

theorem openAccs_queue (spec : Option Nat) (int : Bool) (l : List Nat) (x : Tile) :
    (openAccs spec int l x).tensor.queue = x.tensor.queue := by
  induction l generalizing x with
  | nil => rfl
  | cons a l ih => exact ih _

/-- What is open stays open, and each accord of the list is open in the end. -/
theorem openAccs_opened {spec : Option Nat} {int : Bool} {l : List Nat} {x : Tile} {b : Nat}
    (h : b ∈ l ∨ Opened spec (x.acc b)) : Opened spec ((openAccs spec int l x).acc b) := by
  induction l generalizing x with
  | nil => exact h.resolve_left List.not_mem_nil
  | cons a l ih =>
    refine ih ?_
    by_cases hb : b = a
    · subst hb
      rw [Tile.acc_setAcc]
      exact .inr ⟨rfl, rfl⟩
    · rw [acc_setAcc_ne _ _ hb]
      simpa [hb] using h

/-! ## The head -/

section
variable {s : State} {t : Pos} {q : QEntry} {r : List QEntry}

/-- ISSUE_QUEUE_HEAD of a live tile whose head has not started takes the step of its head. -/
theorem exec_issueQueueHead (hok : t.ok = true) (hlive : s.dev.live t = true)
    (hq : (s.dev.tile t).tensor.queue = q :: r) (hrun : q.running = false) :
    exec (.issueQueueHead t) s = .next { s with dev := headStep t (narrowAt s.dev t) q s.dev } := by
  refine (liftAt_ok _ s hok).trans ?_
  simp [hq, hlive, hrun]

/-- The pass that a head starts with when no mask is read. -/
theorem beginPass_eq {e : TDesc} {x : Tile} (hmask : e.useMask = false) (hprog : q.prog = {}) :
    beginPass q e x = some ({ q with running := true, mask := [], draining := false },
      if e.init then openAccs q.spec e.int (passAccs e 0) x else x) := by
  simp [beginPass, hmask, hprog, openAccs]

/-- A tensor operation that nothing stops starts its first pass (R94, R97). -/
theorem headStep_tensor {narrow : Bool} {d : Dev} {ws : List Word} {n : Nat} {e : TDesc} (hw : q.work = .tensor ws n)
    (he : tdesc ws = e) (hmode : e.mode ≠ 2) (hmask : e.useMask = false)
    (hdrain : (passAccs e 0).all (fun a => ((d.tile t).acc a).st != .draining) = true)
    (hstart : (passAccs e 0).all (fun a => startStop q.spec e.init e.int ((d.tile t).acc a) == none) = true)
    (hprog : q.prog = {}) :
    headStep t narrow q d = d.setTile t (((if e.init then openAccs q.spec e.int (passAccs e 0) (d.tile t)
      else d.tile t).watchMask (some e)).setHead { q with running := true, mask := [], draining := false }) := by
  have h1 : (passAccs e 0).any (fun a => ((d.tile t).acc a).st == .draining) = false := by
    simpa [bne] using hdrain
  have h2 : (passAccs e 0).findSome? (fun a => startStop q.spec e.init e.int ((d.tile t).acc a)) = none := by
    simpa [List.findSome?_eq_none_iff] using hstart
  simp [headStep, hw, he, hmode, h1, h2, beginPass_eq hmask hprog]

/-- The tile after a DISCARD of an accord has left the queue. -/
def discarded (n : Nat) (x : Tile) : Tile :=
  let y := x.setAcc n { x.acc n with st := .free, vals := [] }
  wakeCause 10 (popHead { y with tensor := { y.tensor with
    pendingDrains := y.tensor.pendingDrains.filter (·.accord != n) } })

theorem discarded_queue (n : Nat) (x : Tile) : (discarded n x).tensor.queue = x.tensor.queue.drop 1 := rfl

theorem discarded_acc (n : Nat) (x : Tile) : (discarded n x).acc n = { x.acc n with st := .free, vals := [] } :=
  Tile.acc_setAcc x n { x.acc n with st := .free, vals := [] }

/-- A DISCARD of an OPEN accord frees it (R97). -/
theorem headStep_discard {narrow : Bool} {d : Dev} {w : Word} (hw : q.work = .discard w) (hspec : q.spec = none)
    (hopen : ((d.tile t).acc (bits w.toNat 0 3)).st = .opened) :
    headStep t narrow q d = d.setTile t (discarded (bits w.toNat 0 3) (d.tile t)) := by
  simp [headStep, hw, hspec, hopen, discarded]

end

/-- Settles O32: the two cases of `headStep` that start work. -/
theorem issueQueueHeadStartsWork : Obligations.IssueQueueHeadStartsWork := by
  intro s t q r hok hlive hq hrun x
  refine ⟨fun ws n hw => ?_, fun w hw hspec hopen => ?_⟩
  · intro e hmode hmask hdrain hstart hprog
    have hx := exec_issueQueueHead hok hlive hq hrun
    rw [headStep_tensor hw rfl hmode hmask hdrain hstart hprog] at hx
    refine ⟨_, hx, ⟨{ q with running := true, mask := [], draining := false }, ?_, rfl, rfl, rfl⟩, fun hinit a ha => ?_⟩
    · have hqueue : (if e.init then openAccs q.spec e.int (passAccs e 0) x else x).tensor.queue = q :: r := by
        split
        · rw [openAccs_queue]; exact hq
        · exact hq
      rw [Dev.tile_setTile]
      exact congrArg (_ :: List.drop 1 ·) hqueue
    · rw [Dev.tile_setTile, if_pos hinit]
      exact openAccs_opened (.inl ha)
  · have hx := exec_issueQueueHead hok hlive hq hrun
    rw [headStep_discard hw hspec hopen] at hx
    refine ⟨_, hx, ?_, ?_⟩
    · rw [Dev.tile_setTile, discarded_queue, hq]; rfl
    · rw [Dev.tile_setTile, discarded_acc]

end Sys2Proof.Proofs.QueueHead
end

section
/-! PROOFS. The end of a drain (O34). -/

namespace Sys2Proof.Proofs.Drains

open Sys2Proof Sys2Proof.Machine Sys2Proof.Claim Sys2Proof.Proofs.Threads

/-! ## Stores and events -/

theorem store_of_no_error {x : Tile} (a : Nat) (bs : List Byte) (h : x.bad = []) :
    ∃ y, x.store a bs = some y ∧ y.bad = [] ∧ y.mem = x.mem.writeN a bs ∧ y.tensor = x.tensor := by
  obtain ⟨y, hy⟩ := store_isSome (x := x) (a := a) (bs := bs) (by simp [h])
  have e := store_eq hy
  exact ⟨y, hy, (congrArg Tile.bad e).trans (by rw [h]; rfl), congrArg Tile.mem e, by rw [e]⟩

/-- A run of stores inside a memory without errors writes all its bytes in order. -/
theorem storeAll_of_no_error {k : Nat} {l : List (Nat × List Byte)} {x : Tile} (h : x.bad = [])
    (hin : ∀ w ∈ l, inMem k w.1 w.2.length = true) :
    ∃ y, storeAll k l x = (y, none) ∧ y.mem = l.foldl (fun m w => m.writeN w.1 w.2) x.mem ∧ y.tensor = x.tensor := by
  induction l generalizing x with
  | nil => exact ⟨x, rfl, rfl, rfl⟩
  | cons w l ih =>
    obtain ⟨z, hz, hbad, hmem, htensor⟩ := store_of_no_error w.1 w.2 h
    obtain ⟨y, hy, hymem, hytensor⟩ := ih hbad fun v hv => hin v (List.mem_cons_of_mem _ hv)
    refine ⟨y, ?_, by rw [hymem, hmem]; rfl, hytensor.trans htensor⟩
    rw [storeAll, hin w List.mem_cons_self, hz]
    exact hy

/-- An event changes a tile in the list of reported events alone. -/
theorem eventOnce_tile (p : Pos) (code detail : Nat) (d : Dev) :
    ∃ l, (eventOnce p code detail d).tile p = { d.tile p with once := l } := by
  unfold eventOnce
  split
  · exact ⟨_, rfl⟩
  · exact ⟨_, ((Reports.appendLog ..).tile p).trans (Dev.tile_onTile _ _ _)⟩

/-- A tile at the end of a drain, but for a count of saturations (R97). -/
def drainEnded (j : DrainJob) (sat : Bool) (x : Tile) : Tile :=
  let y := x.setAcc j.accord { x.acc j.accord with st := .free, vals := [] }
  let z := { y with tensor := { y.tensor with drains := y.tensor.drains.drop 1 } }
  wakeCause 10 ((if sat then z.count 7 1 else z).count 6 1)

theorem drainEnded_mem (j : DrainJob) (sat : Bool) (x : Tile) : (drainEnded j sat x).mem = x.mem := by
  cases sat <;> rfl

theorem drainEnded_drains (j : DrainJob) (sat : Bool) (x : Tile) :
    (drainEnded j sat x).tensor.drains = x.tensor.drains.drop 1 := by
  cases sat <;> rfl

theorem drainEnded_acc (j : DrainJob) (sat : Bool) (x : Tile) : ((drainEnded j sat x).acc j.accord).st = .free := by
  have h := Tile.acc_setAcc x j.accord { x.acc j.accord with st := .free, vals := [] }
  cases sat <;> exact congrArg Accord.st h

/-- The end of a drain frees its accord and takes the drain from the front; a saturation is an event besides (R97). -/
theorem endDrain_tile (p : Pos) (j : DrainJob) (d : Dev) :
    ∃ sat l, (endDrain p j d).tile p = { drainEnded j sat (d.tile p) with once := l } := by
  refine ⟨((d.tile p).acc j.accord).int && ((d.tile p).acc j.accord).sat, ?_⟩
  unfold endDrain
  extract_lets a sat d1
  have h1 : d1.tile p = drainEnded j sat (d.tile p) := Dev.tile_onTile _ _ _
  split
  · obtain ⟨l, hl⟩ := eventOnce_tile p 0x0103 0 d1
    exact ⟨l, by rw [hl, h1]⟩
  · exact ⟨_, h1⟩

/-! ## The drain -/

theorem drawOf_scrub (d : Dev) (p : Pos) (ws : List Nat) (k : Nat) :
    drawOf (d.setTile p ((d.tile p).scrub ws)) p k = drawOf d p k := by
  have hr : ((d.tile p).scrub ws).rank = (d.tile p).rank := by rw [scrub_eq]
  have hc : ((d.tile p).scrub ws).rc = (d.tile p).rc := by rw [scrub_eq]
  simp [drawOf, Dev.jobAt, Dev.job?, hr, hc]

theorem narrowAt_scrub (d : Dev) (p : Pos) (ws : List Nat) :
    narrowAt (d.setTile p ((d.tile p).scrub ws)) p = narrowAt d p := by
  simp [narrowAt, Dev.jobAt, Dev.job?]

theorem copyProtected_congr {d e : Dev} {p : Pos} (hj : e.jobs = d.jobs) (hn : (e.tile p).net = (d.tile p).net)
    (hc : (e.tile p).check = (d.tile p).check) (a n : Nat) : copyProtected e p a n = copyProtected d p a n := by
  simp [copyProtected, Dev.jobAt, Dev.job?, hj, hn, hc]

/-- A drain without block output that nothing stops: its writes, then its end (R97, R100, R101). -/
theorem runDrain_eq {s : State} {t : Pos} {j : DrainJob} (h0 : j.mode ≠ some 0) (h1 : j.mode ≠ some 1)
    (hbad : (s.dev.tile t).bad = [])
    (hreads : (finReads (s.dev.tile t).mem j ((s.dev.tile t).acc j.accord).int ((s.dev.tile t).acc j.accord)).all
      (fun z => inMem t.kind z.1 z.2) = true)
    (hwrites : (Claim.drainWrites s t j).all
      (fun w => inMem t.kind w.1 w.2.length && !copyProtected s.dev t w.1 w.2.length) = true) :
    ∃ e : Dev, runDrain t j s.dev = endDrain t j e
      ∧ (e.tile t).mem = (Claim.drainWrites s t j).foldl (fun (m : Mem) w => m.writeN w.1 w.2) (s.dev.tile t).mem
      ∧ (e.tile t).tensor = (s.dev.tile t).tensor := by
  unfold runDrain
  extract_lets d0 x acc reads fail blocks
  have hr : ¬ reads.any (fun r => !inMem t.kind r.1 r.2) = true := by
    simpa [reads, x, d0, acc] using hreads
  have hs : x.sweep reads = some (x.scrub (reads.map (fun r => wordsOf r.1 r.2)).flatten.eraseDups) := by
    simp [Tile.sweep, x, d0, hbad]
  rw [if_neg hr]
  split
  next h => rw [hs] at h; cases h
  next y h =>
    obtain rfl : _ = y := Option.some.inj (hs.symm.trans h)
    extract_lets d1 _ w rows base d2 ws held
    have hblocks : blocks = false := by simp [blocks, h0, h1]
    have hws : ws = Claim.drainWrites s t j := by
      have hw : w = { drawOf s.dev t j.cw.stream with step := j.step } :=
        congrArg (fun w : Draw => { w with step := j.step }) (drawOf_scrub s.dev t _ _)
      have hrows : rows = (List.range j.rows).map (fun r => finRow (narrowAt s.dev t) w j
          ((List.range j.cols).map (stageVal (s.dev.tile t).mem j ((s.dev.tile t).acc j.accord) r)) r) := by
        simp only [rows, d1, d0, x, acc, narrowAt_scrub, scrub_mem]
      simp only [ws, hblocks, hrows, hw, Claim.drainWrites, Bool.false_eq_true, if_false, beq_iff_eq]
    have hd2 : (d2.tile t).mem = x.mem ∧ (d2.tile t).bad = x.bad ∧ (d2.tile t).tensor = x.tensor
        ∧ (d2.tile t).net = x.net ∧ (d2.tile t).check = x.check ∧ d2.jobs = s.dev.jobs := by
      simp only [d2]
      split <;> simp [d1, d0]
    clear_value d2 ws
    obtain ⟨hmem, hbad2, htensor, hnet, hcheck, hjobs⟩ := hd2
    subst hws
    simp only [List.all_eq_true, Bool.and_eq_true, Bool.not_eq_true'] at hwrites
    have hheld : held = false := by
      simp only [held, hblocks]
      simpa [copyProtected_congr hjobs hnet hcheck] using fun a b h => (hwrites (a, b) h).2
    obtain ⟨y, hy, hymem, hytensor⟩ := storeAll_of_no_error (hbad2.trans hbad) fun w h => (hwrites w h).1
    refine ⟨d2.setTile t y, ?_, ?_, ?_⟩
    · simp [hheld, hy, hblocks]
    · rw [Dev.tile_setTile, hymem, hmem]
    · rw [Dev.tile_setTile, hytensor, htensor]

/-- Settles O34: `runDrain_eq` up to the end of the drain, and `endDrain_tile`. -/
theorem drainCompleteWritesTheAccord : Obligations.DrainCompleteWritesTheAccord := by
  intro s t j r hok hlive hdrains h0 h1 hbad hreads hwrites
  obtain ⟨e, he, hmem, htensor⟩ := runDrain_eq h0 h1 hbad hreads hwrites
  obtain ⟨sat, l, hend⟩ := endDrain_tile t j e
  have hx : exec (.drainComplete t none) s = .next { s with dev := endDrain t j e } := by
    refine (liftAt_ok _ s hok).trans ?_
    simp [hdrains, hlive, he]
  refine ⟨_, hx, ?_, ?_, ?_⟩
  · rw [hend]; exact drainEnded_acc j sat _
  · rw [hend]; exact (drainEnded_drains j sat _).trans (by rw [htensor, hdrains]; rfl)
  · rw [hend]; exact (drainEnded_mem j sat _).trans hmem

end Sys2Proof.Proofs.Drains
end

section
/-! PROOFS. Accumulating stores (O19): reads that nothing stops, then one store. -/

namespace Sys2Proof.Proofs.AccumulatingStores

open Sys2Proof Sys2Proof.Machine Sys2Proof.Claim Sys2Proof.Proofs.Threads

/-! ## A device after reads of one tile -/

/-- A device after reads of ranges of a tile, each of which corrects the single-bit errors of its words (R76). -/
inductive AfterReads (t : Pos) (d : Dev) : Dev → Prop
  | start : AfterReads t d d
  | read {e : Dev} (ws : List Nat) : AfterReads t d e → AfterReads t d (e.setTile t ((e.tile t).scrub ws))

namespace AfterReads

variable {t : Pos} {d e : Dev}

/-- Reads change the list of single-bit errors and their count alone (R76). -/
theorem tile_eq (h : AfterReads t d e) :
    e.tile t = { d.tile t with stats := (e.tile t).stats, weak := (e.tile t).weak } := by
  induction h with
  | start => rfl
  | read ws _ ih => rw [Dev.tile_setTile, scrub_eq, ih]

theorem mem_eq (h : AfterReads t d e) : (e.tile t).mem = (d.tile t).mem := by rw [h.tile_eq]

theorem bad_eq (h : AfterReads t d e) : (e.tile t).bad = (d.tile t).bad := by rw [h.tile_eq]

theorem flow_eq (h : AfterReads t d e) : (e.tile t).flow = (d.tile t).flow := by rw [h.tile_eq]

theorem slots_eq (h : AfterReads t d e) : (e.tile t).slots = (d.tile t).slots := by rw [h.tile_eq]

theorem slot_eq (h : AfterReads t d e) (n : Nat) : (e.tile t).slot n = (d.tile t).slot n := by
  rw [Tile.slot, h.slots_eq]; rfl

theorem rangeForeign_eq (h : AfterReads t d e) (own : Option Nat) (a n : Nat) :
    rangeForeign (e.tile t) own a n = rangeForeign (d.tile t) own a n := by
  rw [h.tile_eq]; rfl

theorem copyProtected_eq (h : AfterReads t d e) (a n : Nat) : copyProtected e t a n = copyProtected d t a n := by
  induction h with
  | start => rfl
  | read ws _ ih => simpa using ih

theorem drawOf_eq (h : AfterReads t d e) (k : Nat) : drawOf e t k = drawOf d t k := by
  induction h with
  | start => rfl
  | read ws _ ih => rw [Drains.drawOf_scrub, ih]

theorem narrowAt_eq (h : AfterReads t d e) : narrowAt e t = narrowAt d t := by
  induction h with
  | start => rfl
  | read ws _ ih => rw [Drains.narrowAt_scrub, ih]

theorem tile_ne (h : AfterReads t d e) {p : Pos} (hp : p.ix ≠ t.ix) : e.tile p = d.tile p := by
  induction h with
  | start => rfl
  | read ws _ ih => rw [Dev.tile_setTile_ne _ _ hp, ih]

/-- What a store claims to keep outside the tiles is kept by reads. -/
theorem outside_eq (h : AfterReads t d e) :
    e.jobs = d.jobs ∧ e.brim = d.brim ∧ e.map = d.map ∧ e.host = d.host := by
  induction h with
  | start => exact ⟨rfl, rfl, rfl, rfl⟩
  | read ws _ ih => simpa using ih

variable {s : State} {ts a n : Nat}

theorem readable (h : AfterReads t s.dev e) (hr : Claim.Readable s t ts a n) :
    Claim.Readable (on s fun _ => e) t ts a n := by
  simpa only [Claim.Readable, thread, on, h.slot_eq, h.rangeForeign_eq, h.bad_eq] using hr

theorem writable (h : AfterReads t s.dev e) (hw : Claim.Writable s t ts a n) :
    Claim.Writable (on s fun _ => e) t ts a n := by
  simpa only [Claim.Writable, thread, on, h.slot_eq, h.flow_eq, h.rangeForeign_eq, h.copyProtected_eq, h.bad_eq] using hw

/-- A read that nothing stops goes on with the bytes of its range, and is one more read of the tile. -/
theorem withRead_next (h : AfterReads t s.dev e) (hr : Claim.Readable s t ts a n) :
    ∃ e', AfterReads t s.dev e' ∧ ∀ k, withRead t ts a n e k = k ((s.dev.tile t).mem.readN a n) e' := by
  by_cases hn : n = 0
  · subst hn
    exact ⟨e, h, fun _ => rfl⟩
  · obtain ⟨hm, hf, hb⟩ := (h.readable hr).resolve_left hn
    exact ⟨_, h.read (wordsOf a n), fun k => h.mem_eq ▸ withRead_eq k hn hm hf hb⟩

/-- A range that a thread may store and read is updated from its bytes (R184, R198). -/
theorem withUpdate_next (h : AfterReads t s.dev e) (hr : Claim.Readable s t ts a n) (hw : Claim.Writable s t ts a n) :
    ∃ e', AfterReads t s.dev e' ∧ ∀ k, withUpdate t ts a n e k = k ((s.dev.tile t).mem.readN a n) e' := by
  have hstop : writeStop t ts a n e = none := writeStop_eq_none_iff.2 <|
    (h.writable hw).imp_right fun ⟨hm, hs, hf, hc, _⟩ => ⟨hm, hs, hf, hc⟩
  simpa only [withUpdate, hstop] using h.withRead_next hr

end AfterReads

/-! ## The store that ends the instruction -/

section
variable {s : State} {t : Pos} {ts a : Nat} {w : Word} {bs : List Byte} {e : Dev}

/-- The end of an instruction that has changed nothing but the bytes of one range and the notes that go with them. -/
theorem stored_done (hmem : (e.tile t).mem = (s.dev.tile t).mem.writeN a bs)
    (hother : ∀ p : Pos, p.ix ≠ t.ix → e.tile p = s.dev.tile p)
    (hout : e.jobs = s.dev.jobs ∧ e.brim = s.dev.brim ∧ e.map = s.dev.map ∧ e.host = s.dev.host)
    (hwf : (s.dev.tile t).mem.wf = true) :
    Claim.Stored s (on s fun _ => (Res.done e).apply t ts w s.dev) t a bs := by
  obtain ⟨hjobs, hbrim, hmap, hhost⟩ := hout
  refine ⟨?_, fun b hb => ?_, fun p hp => (tile_apply_done_ne hp).trans (hother p hp), ?_, hjobs, hbrim, hmap, hhost,
    rfl⟩
  · rw [tile_apply_done, Tile.onSlot_mem, hmem, Mem.readN_writeN a bs hwf]
  · rw [tile_apply_done, Tile.onSlot_mem, hmem, Mem.read_writeN_out _ _ _ hb]
  · rw [tile_apply_done, Tile.onSlot_mem, hmem, Mem.wf_writeN a bs hwf]

/-- A store that nothing stops, after reads of the tile, writes its bytes; a store of no bytes ends at once. -/
theorem withWrite_done (h : AfterReads t s.dev e) (hw : Claim.Writable s t ts a bs.length) :
    ∃ e', withWrite t ts a bs e .done = .done e' ∧ (e'.tile t).mem = (s.dev.tile t).mem.writeN a bs
      ∧ (e'.tile t).slots = (s.dev.tile t).slots ∧ (∀ p : Pos, p.ix ≠ t.ix → e'.tile p = s.dev.tile p)
      ∧ e'.jobs = s.dev.jobs ∧ e'.brim = s.dev.brim ∧ e'.map = s.dev.map ∧ e'.host = s.dev.host := by
  cases bs with
  | nil => exact ⟨e, rfl, h.mem_eq, h.slots_eq, fun _ => h.tile_ne, h.outside_eq⟩
  | cons b bs =>
    obtain ⟨-, -, -, -, hb⟩ := (h.writable hw).resolve_left (Nat.succ_ne_zero _)
    obtain ⟨hmem, hslots⟩ := stored_mem_slots (own := (thread (on s fun _ => e) t ts).spec) hb
    refine ⟨_, withWrite_eq (s := on s fun _ => e) .done (Nat.succ_ne_zero _) (h.writable hw), ?_, ?_, fun p hp => ?_,
      h.outside_eq⟩
    · rw [Dev.tile_setTile, hmem, ← h.mem_eq]; rfl
    · rw [Dev.tile_setTile, hslots, ← h.slots_eq]; rfl
    · rw [Dev.tile_setTile_ne _ _ hp, ← h.tile_ne hp]; rfl

/-- An instruction that comes down to a store that nothing stops, after reads of its tile. -/
theorem store_ends {f : Dev → Res} {n : Nat} (hi : Issues s t ts w) (h : AfterReads t s.dev e)
    (hf : f s.dev = withWrite t ts a bs e .done) (hn : bs.length = n) (hw : Claim.Writable s t ts a n)
    (hwf : (s.dev.tile t).mem.wf = true) :
    ∃ u, liftAt (slotOk t ts) (runThread t ts w f) s = .next u ∧ Claim.Stored s u t a bs
      ∧ Claim.OnlyAdvances s u t ts := by
  obtain ⟨e', he', hmem, hslots, hother, hout⟩ := withWrite_done h (hn ▸ hw)
  exact ⟨_, liftAt_runThread hi (hf.trans he'), stored_done hmem hother hout hwf, onlyAdvances_done hslots⟩

end

/-! ## Elements and long sums -/

theorem fmtSize_pos (f : Nat) : 0 < fmtSize f := by
  unfold fmtSize
  split
  · decide
  · split <;> decide

theorem length_readN (m : Mem) (a n : Nat) : (m.readN a n).length = n := by simp [Mem.readN]

/-- A range of `n` whole elements holds `n` codes. -/
theorem length_elems_readN (m : Mem) (f a n : Nat) : (elems f (m.readN a (n * fmtSize f))).length = n := by
  simp [elems, length_readN, Nat.mul_div_cancel n (fmtSize_pos f)]

theorem length_unelems (f : Nat) (cs : List Nat) : (unelems f cs).length = cs.length * fmtSize f := by
  simp [unelems, List.length_flatten, Function.comp_def]

theorem length_tileLongSums (d : Dev) (p : Pos) (stream f : Nat) (long : Bool) (a : Nat) (olds : List Nat)
    (vs : List Val) : (tileLongSums d p stream f long a olds vs).length = min olds.length vs.length := by
  simp [tileLongSums]

/-- A long sum draws by the tile's job and place, which reads leave alone (R70, R118). -/
theorem AfterReads.tileLongSum_eq {t : Pos} {d e : Dev} (h : AfterReads t d e) :
    tileLongSum e t = tileLongSum d t := by
  unfold tileLongSum
  simp only [h.drawOf_eq, h.narrowAt_eq]

theorem AfterReads.tileLongSums_eq {t : Pos} {d e : Dev} (h : AfterReads t d e) :
    tileLongSums e t = tileLongSums d t := by
  unfold tileLongSums
  rw [h.tileLongSum_eq]

/-! ## ACC and ACCV -/

/-- Settles O19: ACC is an update of one element; ACCV reads its source, then updates its destination. -/
theorem accumulatingStoresAdd : Obligations.AccumulatingStoresAdd := by
  intro s t ts rd rs1 rs2 i
  constructor
  · intro a f hi hf hal hr hw hwf
    obtain ⟨e, he, hupdate⟩ := AfterReads.start.withUpdate_next hr hw
    have hfmt : ¬ (!longFmt f) = true := by simp [hf]
    rw [exists_congr fun _ => and_congr_right' and_comm, ← he.tileLongSum_eq]
    exact store_ends hi he ((if_neg hfmt).trans ((if_neg (not_not.2 hal)).trans (hupdate _)))
      (LoadsAndStores.length_le _ _) hw hwf
  · intro src dst cnt stream df sf m hi hdf hsf hsrc hdst hov hrs hrd hw hwf out
    obtain ⟨e₁, he₁, hread⟩ := AfterReads.start.withRead_next hrs
    obtain ⟨e, he, hupdate⟩ := he₁.withUpdate_next hrd hw
    have hfmt : ¬ (!longFmt df || !accvSrcOk df sf) = true := by simp [hdf, hsf]
    have hal : ¬ (src % fmtSize sf ≠ 0 ∨ dst % fmtSize df ≠ 0) := by simp [hsrc, hdst]
    have hlen : out.length = cnt * fmtSize df := by
      simp only [out, m, length_unelems, length_tileLongSums, List.length_map, length_elems_readN, Nat.min_self]
    simp only [out, ← he.tileLongSums_eq] at hlen ⊢
    exact store_ends hi he ((if_neg hfmt).trans ((if_neg hal).trans ((if_neg (Bool.eq_false_iff.1 hov)).trans
      ((hread _).trans (hupdate _))))) hlen hw hwf

end Sys2Proof.Proofs.AccumulatingStores
end

section
/-! PROOFS. Neighbour links (O38): what a device comes to when the token in turn crosses. -/

namespace Sys2Proof.Proofs.NeighbourLinks

open Sys2Proof Sys2Proof.Machine Sys2Proof.Claim Sys2Proof.Proofs.Threads

/-- A consumer after a token has entered its channel (R166). -/
def entered (ch : Nat) (k : NTok) (x : Tile) : Tile :=
  x.setChan ch { x.chan ch with toks := (x.chan ch).toks ++ [k.tok], next := (k.num + 1) % 4096 }

/-- A device after the oldest token of a channel has left its link (R166). -/
def leftLink (j ci : Nat) (d : Dev) : Dev :=
  { d with wafer := { d.wafer with links := removeFirst (fun k => k.j == j && k.ci == ci) d.wafer.links } }

theorem tile_leftLink (j ci : Nat) (d : Dev) (p : Pos) : (leftLink j ci d).tile p = d.tile p := rfl

/-- A sound frame whose token is in turn leaves the link and enters the consumer's channel (R166). -/
theorem exec_neighbourToken_inTurn {s : State} {j ci : Nat} {k : NTok} {jb : Job} {c : ChanRec} {a b : Pos} (hj : j < 32)
    (hlink : s.dev.wafer.links.find? (fun k => k.j == j && k.ci == ci) = some k) (hjob : s.dev.job? j = some jb)
    (hchan : jb.chan ci = some c) (hprod : jb.posOf s.dev.map c.prod = some a) (hcons : jb.posOf s.dev.map c.cons = some b)
    (htakes : takesTraffic s.dev b k.sbit = true) (hturn : k.num = ((s.dev.tile b).chan c.ch).next) :
    exec (.neighbourToken j ci true false false) s = .next (on s fun d => (leftLink j ci d).onTile b (entered c.ch k)) := by
  refine (liftAt_ok _ s (decide_eq_true hj)).trans ?_
  simp [hlink, hjob, hchan, hprod, hcons, htakes, ← hturn, on, leftLink]
  rfl

/-- Settles O38: `exec_neighbourToken_inTurn`. -/
theorem neighbourTokenCrosses : Obligations.NeighbourTokenCrosses := by
  intro s j ci k jb c a b hj hlink hjob hchan hprod hcons htakes hturn
  refine ⟨_, exec_neighbourToken_inTurn hj hlink hjob hchan hprod hcons htakes hturn, ?_, rfl, fun p => ⟨?_, ?_⟩⟩
  · simp [on, entered, tile_leftLink]
  · refine forall_tile (t := b) (P := fun x y => x.mem = y.mem) ?_ (fun q hq => Dev.tile_onTile_ne _ _ hq) (fun _ => rfl) p
    simp [entered, tile_leftLink]
  · exact fun hp => Dev.tile_onTile_ne _ _ hp

end Sys2Proof.Proofs.NeighbourLinks
end

section
/-! PROOFS. What a fault of a tile whose job can fault leaves in the log, in the tile and in the job (R191, R235). -/

namespace Sys2Proof.Proofs.Faults

open Sys2Proof Sys2Proof.Machine Sys2Proof.Claim

/-! ## The event log -/

/-- The newest elements of a list stay. -/
theorem keepLast_append {α : Type} (l : List α) {m : List α} {n : Nat} (h : m.length ≤ n) :
    keepLast n (l ++ m) = l.drop (l.length + m.length - n) ++ m := by
  rw [keepLast, List.length_append, List.drop_append_of_le_length (by omega)]

theorem ringPut_log (r : LogRec) (d : Dev) : (ringPut r d).host.log = d.host.log := by
  rw [ringPut]
  dsimp only
  split
  · rfl
  · split <;> rfl

theorem pushOut_host (r : LogRec) (d : Dev) : (pushOut r d).host = d.host := by
  have h : ∀ (l : List Session) (f : Session → Emit) (e : Dev), (e.each l fun s d => d.emit (f s)).host = e.host := by
    intro l f
    induction l with
    | nil => exact fun _ => rfl
    | cons x l ih => exact fun e => ih (e.emit (f x))
  exact h _ _ d

theorem respond_log (r : Req) (opcode flags status refusal logSeq : Nat) (payload : List Byte) (d : Dev) :
    (respond r opcode flags status refusal logSeq payload d).host.log = d.host.log := by
  rw [respond]
  dsimp only
  split <;> rfl

/-- A record is numbered next and stands at the end of the log (R422). -/
theorem appendLog_log (code origin : Nat) (stopped : Bool) (job loc detail count : Nat) (d : Dev) :
    ∃ l : LogRec, (appendLog code origin stopped job loc detail count d).host.log = keepLast 4096 (d.host.log ++ [l])
      ∧ l.code = code ∧ l.detail = detail ∧ l.seq = d.host.nextSeq := by
  rw [appendLog]
  dsimp only
  rw [pushOut_host, ringPut_log]
  dsimp only [Dev.stamp_host]
  exact ⟨_, rfl, rfl, rfl, rfl⟩

/-- The newest record outlives the record and the response of a command that completes. -/
theorem mem_log_finishCmd {l : LogRec} {old : List LogRec} {d : Dev} (hd : d.host.log = old ++ [l]) (r : Req)
    (opcode status refusal : Nat) (payload : List Byte) : l ∈ (finishCmd r opcode status refusal payload d).host.log := by
  rw [finishCmd, respond_log, cmdRecord]
  split
  · simp [hd]
  · obtain ⟨m, hm, -⟩ := appendLog_log 0 2 false r.job (opcode + 2 ^ 16 * status + 2 ^ 24 * trCode r.tr) refusal 1 d
    rw [hm, hd, List.append_assoc, keepLast_append _ (by simp)]
    simp

/-- The newest record outlives the stop of a job, which may end a PAUSE_JOB in progress (R316). -/
theorem mem_log_stopJob {l : LogRec} {old : List LogRec} {d : Dev} (hd : d.host.log = old ++ [l]) (k code : Nat) (c : RC)
    (step : Nat) (b : Bool) : l ∈ (stopJob k code c step b d).host.log := by
  have hmem : l ∈ d.host.log := by simp [hd]
  rw [stopJob]
  split
  · exact hmem
  · dsimp only
    split
    · split
      · exact mem_log_finishCmd (d := d.onJob k fun j => j.stopped code c step d.now b) hd ..
      · exact hmem
    · exact hmem

/-! ## A fault of a tile whose job runs -/

section
variable {s : State} {d : Dev} {t : Pos} {j : Job}

theorem jslot_of_jobAt (h : d.jobAt t = some j) : (d.tile t).net.jslot = some j.slot ∧ d.job? j.slot = some j := by
  rw [Dev.jobAt] at h
  split at h
  · next k hk =>
    have hslot : j.slot = k := by simpa using List.find?_some h
    exact ⟨hslot ▸ hk, hslot ▸ h⟩
  · cases h

@[simp] theorem recordFault_mem (x : Tile) (code : Nat) (a : FaultAt) : (x.recordFault code a).mem = x.mem := by
  rw [Tile.recordFault_eq]

@[simp] theorem recordFault_slots (x : Tile) (code : Nat) (a : FaultAt) : (x.recordFault code a).slots = x.slots := by
  rw [Tile.recordFault_eq]

@[simp] theorem recordFault_net (x : Tile) (code : Nat) (a : FaultAt) : (x.recordFault code a).net = x.net := by
  rw [Tile.recordFault_eq]

/-- A fault of a tile whose job can fault is recorded, logged, and stops the job (R191). -/
theorem faultTile_eq (hj : d.jobAt t = some j) (hf : j.faults = true) (code detail : Nat) (a : FaultAt) :
    faultTile t code detail a d = stopJob j.slot code (d.tile t).rc (d.tile t).step true
      (appendLog code 1 true j.id (rcWord (d.tile t).rc) detail 1 (d.onTile t fun x => x.recordFault code a)) := by
  rw [faultTile, hj]
  exact if_pos hf

theorem tile_faultTile (hj : d.jobAt t = some j) (hf : j.faults = true) (code detail : Nat) (a : FaultAt) :
    (faultTile t code detail a d).tile t = (d.tile t).recordFault code a := by
  rw [faultTile_eq hj hf, Dev.tile, stopJob_wafer]
  exact ((Reports.appendLog ..).tile t).trans (Dev.tile_onTile _ _ _)

/-- The job of a tile that faults is halted by the fault (R191, R235). -/
theorem jobAt_faultTile (hj : d.jobAt t = some j) (hf : j.faults = true) (code detail : Nat) (a : FaultAt) :
    ∃ now, (faultTile t code detail a d).jobAt t = some (j.stopped code (d.tile t).rc (d.tile t).step now true) := by
  obtain ⟨hslot, hjob⟩ := jslot_of_jobAt hj
  apply Exists.intro
  rw [Dev.jobAt, tile_faultTile hj hf, recordFault_net, hslot]
  dsimp only
  rw [faultTile_eq hj hf, stopJob_job, (Reports.appendLog ..).job?]
  exact congrArg (Option.map _) hjob

/-- Only the fault registers of the tile and its job's state change: the job is halted, its gates are closed (R191, R235). -/
theorem faulted_faultTile (hj : s.dev.jobAt t = some j) (hf : j.faults = true) (code detail : Nat) (a : FaultAt) :
    Claim.Faulted s (on s (faultTile t code detail a)) t a.slot code := by
  have htile : (on s (faultTile t code detail a)).dev.tile t = _ := tile_faultTile hj hf code detail a
  refine ⟨fun p => ?_, fun h => ?_, fun h => ?_, fun j' hj' => ?_⟩
  · rcases faultTile_tile t code detail a s.dev p with h | h <;> simp [on, h]
  · rw [htile, Tile.recordFault, h]; rfl
  · rw [htile, Tile.recordFault, if_pos h]
  · obtain rfl : j = j' := Option.some.inj (hj.symm.trans hj')
    obtain ⟨now, hnow⟩ := jobAt_faultTile hj hf code detail a
    exact ⟨_, hnow, rfl, rfl, rfl, rfl, rfl⟩

theorem logged_faultTile (hj : s.dev.jobAt t = some j) (hf : j.faults = true) (code detail : Nat) (a : FaultAt) :
    Claim.Logged s (on s (faultTile t code detail a)) code detail := by
  obtain ⟨l, hl, hcode, hdetail, hseq⟩ := appendLog_log code 1 true j.id (rcWord (s.dev.tile t).rc) detail 1
    (s.dev.onTile t fun x => x.recordFault code a)
  rw [keepLast_append _ (by simp)] at hl
  refine ⟨l, ?_, hcode, hdetail, hseq⟩
  rw [on, faultTile_eq hj hf]
  exact mem_log_stopJob hl ..

end

end Sys2Proof.Proofs.Faults
end

section
/-! PROOFS. Bounds that stop a job (O39): every one of them raises a fault of its tile while the job of the tile runs. -/

namespace Sys2Proof.Proofs.Bounds

open Sys2Proof Sys2Proof.Machine Sys2Proof.Claim Sys2Proof.Proofs.Faults

/-- Counters count only in a tile whose job runs (R235). -/
theorem faults_of_timersRun {d : Dev} {t : Pos} (h : d.timersRun t = true) : ∃ j, d.jobAt t = some j ∧ j.faults = true := by
  rw [Dev.timersRun] at h
  cases hj : d.jobAt t with
  | none => simp [hj] at h
  | some j =>
    refine ⟨j, rfl, ?_⟩
    simp only [hj, Bool.and_eq_true, Bool.or_eq_true] at h
    obtain ⟨-, ⟨⟨⟨hst, hstop⟩, hphase⟩, -⟩, -⟩ := h
    simp only [Job.faults, Job.running, hst, hstop]
    rcases hphase with hphase | hphase <;> simp [hphase]

/-- A command that raises a fault of a tile whose counters run stops the tile's job (R183, R191). -/
theorem stops_of_timersRun {s : State} {t : Pos} (h : s.dev.timersRun t = true) (code detail : Nat) (a : FaultAt)
    {o : Out_} (ho : o = .next (on s (faultTile t code detail a))) :
    ∃ u, o = .next u ∧ Claim.Faulted s u t a.slot code ∧ Claim.Logged s u code detail := by
  obtain ⟨j, hj, hf⟩ := faults_of_timersRun h
  exact ⟨_, ho, faulted_faultTile hj hf .., logged_faultTile hj hf ..⟩

/-- Settles O39: each expiry is a fault of its tile, of which `stops_of_timersRun` says what it leaves. A consumer stall has no
thread: slot 0 in FAULT_INFO is log 83. -/
theorem expiredBoundsStopTheJob : Obligations.ExpiredBoundsStopTheJob := by
  intro s t ht hrun
  refine ⟨fun port n y w hport hw => ?_, fun ch w hch hw => ?_, fun ts hts hw hiso => ?_, fun ts k w hts hw hiso hgate => ?_⟩
  · refine stops_of_timersRun hrun 0x0203 port (waitAt y n w) ((liftAt_ok _ s (by simp [ht, hport])).trans ?_)
    simp [hw, hrun, on]
  · refine stops_of_timersRun hrun 0x0203 (0x20 + ch) { insn := w } ((liftAt_ok _ s (by simp [ht, hch])).trans ?_)
    simp [hw, hrun, on]
  · obtain ⟨w, hw⟩ := Option.isSome_iff_exists.1 hw
    refine stops_of_timersRun hrun 0x0206 0 (waitAt (thread s t ts) ts w) ((liftAt_ok _ s hts).trans ?_)
    rw [thread] at hw ⊢
    simp [hw, hrun, hiso, on]
  · refine stops_of_timersRun hrun 0x0204 0 (waitAt (thread s t ts) ts w) ((liftAt_ok _ s hts).trans ?_)
    rw [thread] at hw ⊢
    simp [hw, hrun, hiso, hgate, on]

end Sys2Proof.Proofs.Bounds
end

section
/-! PROOFS. The fields of an instruction word (O8). -/

namespace Sys2Proof.Proofs.WordFields

open Sys2Proof Sys2Proof.Machine Sys2Proof.Claim

/-- A field of a number is a quotient and a remainder. -/
theorem bits_eq (x lo len : Nat) : bits x lo len = x / 2 ^ lo % 2 ^ len := by rw [bits, Nat.shiftRight_eq_div_pow]

/-- A word is its opcode in the top seven bits over the 25 bits of its other fields (R187). -/
theorem encA_toNat {op : Nat} (hop : op < 128) (rd rs1 rs2 : Reg) (imm : BitVec 10) :
    (encA op rd rs1 rs2 imm).toNat = op * 2 ^ 25 + rd.val * 2 ^ 20 + rs1.val * 2 ^ 15 + rs2.val * 2 ^ 10 + imm.toNat := by
  rw [encA, BitVec.toNat_ofNat, Nat.mod_eq_of_lt]
  omega

theorem encI_toNat {op : Nat} (hop : op < 128) (rd rs1 : Reg) (imm : BitVec 15) :
    (encI op rd rs1 imm).toNat = op * 2 ^ 25 + rd.val * 2 ^ 20 + rs1.val * 2 ^ 15 + imm.toNat := by
  rw [encI, BitVec.toNat_ofNat, Nat.mod_eq_of_lt]
  omega

theorem encU_toNat {op : Nat} (hop : op < 128) (rd : Reg) (imm : BitVec 20) :
    (encU op rd imm).toNat = op * 2 ^ 25 + rd.val * 2 ^ 20 + imm.toNat := by
  rw [encU, BitVec.toNat_ofNat, Nat.mod_eq_of_lt]
  omega

theorem encQ_toNat {op : Nat} (hop : op < 128) (rd rs1 rs2 : Reg) (qf : BitVec 4) (qid : BitVec 6) :
    (encQ op rd rs1 rs2 qf qid).toNat =
      op * 2 ^ 25 + rd.val * 2 ^ 20 + rs1.val * 2 ^ 15 + rs2.val * 2 ^ 10 + qf.toNat * 64 + qid.toNat := by
  rw [encQ, BitVec.toNat_ofNat, Nat.mod_eq_of_lt]
  omega

/-- Settles O8: no field reaches into the next, so each is the quotient and remainder that `bits_eq` names. -/
theorem wordFieldsComeBack : Obligations.WordFieldsComeBack := by
  refine ⟨fun op rd rs1 rs2 imm hop => ?_, fun op rd rs1 imm hop => ?_, fun op rd imm hop => ?_,
    fun op rd rs1 rs2 qf qid hop => ?_⟩
  · simp only [opOf, encA_toNat hop, bits_eq]
    omega
  · simp only [opOf, encI_toNat hop, bits_eq]
    omega
  · simp only [opOf, encU_toNat hop, bits_eq]
    omega
  · simp only [opOf, encQ_toNat hop, bits_eq]
    omega

end Sys2Proof.Proofs.WordFields
end

section
/-! PROOFS. What the proofs about thread instructions share: the ends of an instruction as `goesTo` and `writesReg`, and
a fault of an instruction that issues. -/

namespace Sys2Proof.Proofs.InstructionEnds

open Sys2Proof Sys2Proof.Machine Sys2Proof.Claim Sys2Proof.Proofs.Threads Sys2Proof.Proofs.Faults

variable {s : State} {t : Pos} {ts : Nat} {w : Word} {d e : Dev}

/-! ## Completion -/

/-- A register write and the way on are two changes of one slot. -/
theorem writesReg_eq_goesTo (rd : Reg) (v : Word) (pc : Nat) :
    writesReg t ts rd v pc d = goesTo t ts pc (d.onTile t fun x => x.onSlot ts fun y => y.setG rd v) := by
  simp only [writesReg, goesTo, Dev.onTile_onTile, Tile.onSlot_onSlot]

/-- An instruction that has left its pc alone goes on at the next word. -/
theorem done_eq_goesTo (h : ((e.tile t).slot ts).pc = (thread s t ts).pc) :
    (Res.done e).apply t ts w d = goesTo t ts (pcPlus s t ts 1) e := by
  rw [pcPlus_one, ← h]
  rfl

theorem jump_eq_goesTo (pc : Nat) : (Res.jump e pc).apply t ts w d = goesTo t ts (pc % kindProg t.kind) e := rfl

theorem kindProg_pos (k : Nat) : 0 < kindProg k := by
  unfold kindProg
  split <;> decide

/-- A pc counted modulo the program size lies in the program (R185). -/
theorem pcPlus_mod (n : Int) : pcPlus s t ts n % kindProg t.kind = pcPlus s t ts n := by
  refine Nat.mod_eq_of_lt ?_
  have h := Int.emod_lt_of_pos (((thread s t ts).pc : Int) + n) (Int.natCast_pos.2 (kindProg_pos t.kind))
  have h0 := Int.emod_nonneg (((thread s t ts).pc : Int) + n) (Int.natCast_pos.2 (kindProg_pos t.kind)).ne'
  unfold pcPlus
  omega

/-- An instruction that issues, writes rd and ends goes on at the next word (R188, R189). -/
theorem write_issued {f : Dev → Res} {rd : Reg} {v : Word} (hi : Issues s t ts w)
    (hf : f s.dev = .done (s.dev.onTile t fun x => x.onSlot ts fun y => y.setG rd v)) :
    liftAt (slotOk t ts) (runThread t ts w f) s = .next (on s (writesReg t ts rd v (pcPlus s t ts 1))) := by
  rw [liftAt_runThread hi hf, done_eq_goesTo (s := s) (by simp [thread])]
  exact congrArg (fun d => Host.Outcome.next { s with dev := d }) (writesReg_eq_goesTo ..).symm

theorem regOp_issued (hi : Issues s t ts w) (rd : Reg) (f : Slot → Word) :
    liftAt (slotOk t ts) (runThread t ts w (regOp t ts rd f)) s =
      .next (on s (writesReg t ts rd (f (thread s t ts)) (pcPlus s t ts 1))) := write_issued hi rfl

/-- An instruction that issues and ends with no slot changed goes on at the next word. -/
theorem done_issued {f : Dev → Res} (hi : Issues s t ts w) (g : Dev → Dev) (hf : f s.dev = .done (g s.dev))
    (h : ((g s.dev).tile t).slots = (s.dev.tile t).slots) :
    liftAt (slotOk t ts) (runThread t ts w f) s = .next (on s fun d => goesTo t ts (pcPlus s t ts 1) (g d)) := by
  rw [liftAt_runThread hi hf, done_eq_goesTo (s := s) (by rw [Tile.slot, h]; rfl)]
  rfl

/-- An instruction that issues and has nothing to do goes on at the next word. -/
theorem skip_issued {f : Dev → Res} (hi : Issues s t ts w) (hf : f s.dev = .done s.dev) :
    liftAt (slotOk t ts) (runThread t ts w f) s = .next (on s (goesTo t ts (pcPlus s t ts 1))) :=
  done_issued hi id hf rfl

/-- An instruction that issues and waits for a cause leaves its slot waiting to try the word again (log 3). -/
theorem wait_issued {f : Dev → Res} {c : Nat} (hi : Issues s t ts w) (hf : f s.dev = .wait c s.dev) :
    liftAt (slotOk t ts) (runThread t ts w f) s = .next (on s fun d => d.onTile t fun x => x.onSlot ts fun y =>
      { y with st := .waiting, wait := some (.retry c w) }) := liftAt_runThread hi hf

/-- An instruction that issues and has dealt with its tile itself. -/
theorem stay_issued {f : Dev → Res} {g : Tile → Tile} (hi : Issues s t ts w) (hf : f s.dev = .stay (s.dev.onTile t g)) :
    liftAt (slotOk t ts) (runThread t ts w f) s = .next (on s fun d => d.onTile t g) := liftAt_runThread hi hf

/-! ## Faults -/

/-- A tile that may issue belongs to a job that can fault. -/
theorem faults_of_live (h : d.live t = true) : ∃ j, d.jobAt t = some j ∧ j.faults = true := by
  rw [Dev.live] at h
  split at h
  · next j hj =>
    simp only [Bool.and_eq_true, Bool.or_eq_true] at h
    obtain ⟨⟨⟨⟨⟨⟨hst, hstop⟩, hphase⟩, -⟩, -⟩, -⟩, -⟩ := h
    refine ⟨j, hj, ?_⟩
    simp only [Job.faults, Job.running, hst, hstop]
    rcases hphase with hphase | hphase <;> simp [hphase]
  · cases h

/-- Where a fault of a thread is (R191). -/
def faultPlace (s : State) (t : Pos) (ts : Nat) (v : Word) : FaultAt :=
  { slot := ts, pc := (thread s t ts).pc, tag := (thread s t ts).tag, insn := v }

/-- The fault of a thread that may issue halts its job and changes no slot and no memory (R191). -/
theorem faulted_insnFault (h : canIssue t ts w s.dev = true) (v : Word) (code detail : Nat) :
    Claim.Faulted s (on s (insnFault t ts v code detail)) t ts code := by
  rw [canIssue, Bool.and_eq_true] at h
  obtain ⟨j, hj, hf⟩ := faults_of_live h.1
  have heq : insnFault t ts v code detail s.dev = faultTile t code detail (faultPlace s t ts v) s.dev := rfl
  have hfault := faulted_faultTile hj hf code detail (faultPlace s t ts v)
  rw [on, heq]
  exact hfault

/-- An instruction that issues and comes to a fault. -/
theorem fault_issued {f : Dev → Res} {code detail : Nat} (hi : Issues s t ts w) (hf : f s.dev = .fault code detail) :
    ∃ u, liftAt (slotOk t ts) (runThread t ts w f) s = .next u ∧ Claim.Faulted s u t ts code := by
  obtain ⟨-, hc, -, -⟩ := id hi
  exact ⟨_, liftAt_runThread hi hf, faulted_insnFault hc w code detail⟩

/-- A word that the kind does not allow faults, whatever its instruction (R188). -/
theorem fault_illegal {f : Dev → Res} (hok : slotOk t ts = true) (hc : canIssue t ts w s.dev = true)
    (hl : wordLegal t.kind w = false) :
    ∃ u, liftAt (slotOk t ts) (runThread t ts w f) s = .next u ∧ Claim.Faulted s u t ts 0x0104 := by
  refine ⟨_, liftAt_ok _ s hok, ?_⟩
  have h : runThread t ts w f s.dev = insnFault t ts w 0x0104 0 s.dev := by simp [runThread, hc, hl]
  rw [h]
  exact faulted_insnFault hc w 0x0104 0

/-- Settles O12: the word is not legal in either case; RESERVED_OPCODE tests that itself. -/
theorem illegalWordsFault : Obligations.IllegalWordsFault := by
  intro s t ts w hok hc
  refine ⟨fun hl => ?_, fun hw => ?_⟩
  · refine ⟨_, (liftAt_ok _ s hok).trans ?_, faulted_insnFault hc w 0x0104 0⟩
    simp [hc, hl, on]
  · subst hw
    exact fault_illegal hok hc rfl

end Sys2Proof.Proofs.InstructionEnds
end

section
/-! PROOFS. Scalar and branch instructions (O9-O11, O13). -/

namespace Sys2Proof.Proofs.Scalar

open Sys2Proof Sys2Proof.Machine Sys2Proof.Claim Sys2Proof.Proofs.Threads Sys2Proof.Proofs.InstructionEnds

/-! ## Results as the claims write them -/

theorem minS_eq (a b : Word) : (if b.slt a then b else a) = BitVec.ofInt 32 (min a.toInt b.toInt) := by
  simp only [BitVec.slt_iff_toInt_lt]
  split
  · next h => rw [min_eq_right h.le, BitVec.ofInt_toInt]
  · next h => rw [min_eq_left (not_lt.1 h), BitVec.ofInt_toInt]

theorem maxS_eq (a b : Word) : (if a.slt b then b else a) = BitVec.ofInt 32 (max a.toInt b.toInt) := by
  simp only [BitVec.slt_iff_toInt_lt]
  split
  · next h => rw [max_eq_right h.le, BitVec.ofInt_toInt]
  · next h => rw [max_eq_left (not_lt.1 h), BitVec.ofInt_toInt]

theorem addSigned_eq (a : Word) (i : BitVec 15) : a + i.signExtend 32 = BitVec.ofInt 32 (a.toInt + i.toInt) := by
  rw [BitVec.ofInt_add, BitVec.ofInt_toInt, BitVec.signExtend]

/-! ## What each instruction does with its slot -/

/-- The instruction is register work: rd takes a function of the slot. -/
def IsRegOp (c : Instr) (t : Pos) (ts : Nat) (w : Word) (rd : Reg) (f : Slot → Word) : Prop :=
  exec c = liftAt (slotOk t ts) (runThread t ts w (regOp t ts rd f))

theorem IsRegOp.congr {c : Instr} {t : Pos} {ts : Nat} {w : Word} {rd : Reg} {f g : Slot → Word} (hc : IsRegOp c t ts w rd f)
    (h : ∀ y, f y = g y) : IsRegOp c t ts w rd g := funext h ▸ hc

section
variable {t : Pos} {ts : Nat} {rd rs1 rs2 : Reg} {i : BitVec 15}

/-- The three-register instructions are register work with the result of R194. -/
theorem isRegOp_of_threeReg : ∀ e ∈ Claim.threeReg t ts rd rs1 rs2,
    IsRegOp e.1 t ts (encA e.2.1 rd rs1 rs2 0) rd fun y => e.2.2 (y.g rs1) (y.g rs2) := by
  simp only [Claim.threeReg, List.forall_mem_cons, List.not_mem_nil, false_imp_iff, implies_true, and_true]
  refine ⟨rfl, rfl, rfl, rfl, rfl, rfl, rfl, rfl, ?slt, ?sltu, rfl, rfl, ?mins, ?maxs⟩
  case slt => exact IsRegOp.congr rfl fun y => by simp only [BitVec.slt_iff_toInt_lt]
  case sltu => exact IsRegOp.congr rfl fun y => by simp only [BitVec.ult_iff_lt, BitVec.lt_def]
  case mins => exact IsRegOp.congr rfl fun y => minS_eq _ _
  case maxs => exact IsRegOp.congr rfl fun y => maxS_eq _ _

/-- The instructions with an immediate are register work with the result of R194. -/
theorem isRegOp_of_immediate : ∀ e ∈ Claim.immediate t ts rd rs1 i,
    IsRegOp e.1 t ts (encI e.2.1 rd rs1 i) rd fun y => e.2.2 (y.g rs1) := by
  simp only [Claim.immediate, List.forall_mem_cons, List.not_mem_nil, false_imp_iff, implies_true, and_true]
  refine ⟨?addi, ?andi, ?ori, ?xori, ?slti⟩
  case addi => exact IsRegOp.congr rfl fun y => addSigned_eq _ i
  case andi => exact IsRegOp.congr rfl fun y => by rw [BitVec.ofNat_toNat]
  case ori => exact IsRegOp.congr rfl fun y => by rw [BitVec.ofNat_toNat]
  case xori => exact IsRegOp.congr rfl fun y => by rw [BitVec.ofNat_toNat]
  case slti =>
    refine IsRegOp.congr rfl fun y => ?_
    simp only [BitVec.slt_iff_toInt_lt, BitVec.toInt_signExtend_of_le (by decide : 15 ≤ 32)]

/-- LUI puts its immediate above twelve zero bits (R194). -/
theorem isRegOp_lui (k : BitVec 20) :
    IsRegOp (.lui t ts rd k) t ts (encU 0x16 rd k) rd fun _ => BitVec.ofNat 32 (k.toNat * 4096) :=
  IsRegOp.congr rfl fun _ => BitVec.eq_of_toNat_eq (by simp [Nat.shiftLeft_eq])

/-- The conditional branches branch on the condition of R194. -/
theorem branchOp_of_branches : ∀ e ∈ Claim.branches t ts rd rs1 i, ∃ c : Slot → Bool,
    (∀ y, c y = true ↔ e.2.2 (y.g rd) (y.g rs1))
      ∧ exec e.1 = liftAt (slotOk t ts) (runThread t ts (encI e.2.1 rd rs1 i) (branchOp t ts i c)) := by
  simp only [Claim.branches, List.forall_mem_cons, List.not_mem_nil, false_imp_iff, implies_true, and_true]
  refine ⟨⟨_, fun y => ?beq, rfl⟩, ⟨_, fun y => ?bne, rfl⟩, ⟨_, fun y => ?blt, rfl⟩, ⟨_, fun y => ?bge, rfl⟩,
    ⟨_, fun y => ?bltu, rfl⟩, ⟨_, fun y => ?bgeu, rfl⟩⟩
  case beq => exact beq_iff_eq
  case bne => exact bne_iff_ne
  case blt => exact BitVec.slt_iff_toInt_lt
  case bge => simp [BitVec.slt_iff_toInt_lt, ← Bool.not_eq_true]
  case bltu => exact BitVec.ult_iff_lt
  case bgeu => simp [BitVec.ult_iff_lt, ← Bool.not_eq_true, BitVec.le_def]

end

/-! ## Results and targets -/

/-- Settles O9: each is register work with its result. -/
theorem threeRegisterInstructionsWriteTheirResult : Obligations.ThreeRegisterInstructionsWriteTheirResult := by
  intro s t ts rd rs1 rs2 e he hi
  rw [isRegOp_of_threeReg e he]
  exact regOp_issued hi rd _

/-- Settles O10: register work, but for the reserved selection of SHI. -/
theorem immediateInstructionsWriteTheirResult : Obligations.ImmediateInstructionsWriteTheirResult := by
  intro s t ts rd rs1
  refine ⟨fun i e he hi => ?_, fun k hi => ?_, fun i hi => ?_⟩
  · rw [isRegOp_of_immediate e he]
    exact regOp_issued hi rd _
  · rw [isRegOp_lui]
    exact regOp_issued hi rd _
  · have hx : exec (.shi t ts rd rs1 i) s = execShi t ts rd rs1 i s := rfl
    rw [hx, execShi]
    generalize bits i.toNat 5 2 = selection
    match selection with
    | 0 => exact regOp_issued hi rd _
    | 1 => exact regOp_issued hi rd _
    | 2 => exact regOp_issued hi rd _
    | _ + 3 => exact liftAt_runThread hi rfl

/-- A branch that issues goes to its target when its condition holds, else to the next word (R188, R194). -/
theorem branchOp_issued {s : State} {t : Pos} {ts : Nat} {w : Word} (hi : Issues s t ts w) (i : BitVec 15)
    (c : Slot → Bool) : liftAt (slotOk t ts) (runThread t ts w (branchOp t ts i c)) s =
      .next (on s (goesTo t ts (pcPlus s t ts (if c (thread s t ts) then i.toInt else 1)))) := by
  cases hc : c (thread s t ts) with
  | true =>
    rw [liftAt_runThread hi (if_pos hc), jump_eq_goesTo]
    exact congrArg (fun pc => Host.Outcome.next (on s (goesTo t ts pc))) (pcPlus_mod i.toInt)
  | false =>
    rw [liftAt_runThread hi (if_neg (Bool.eq_false_iff.1 hc)), done_eq_goesTo (s := s) rfl]
    rfl

/-- An instruction that writes rd and jumps (R194). -/
theorem jump_issued {s : State} {t : Pos} {ts : Nat} {w : Word} {f : Dev → Res} {rd : Reg} {v : Word} {pc : Nat}
    (hi : Issues s t ts w) (hf : f s.dev = .jump (s.dev.onTile t fun x => x.onSlot ts fun y => y.setG rd v) pc) :
    liftAt (slotOk t ts) (runThread t ts w f) s = .next (on s (writesReg t ts rd v (pc % kindProg t.kind))) := by
  rw [liftAt_runThread hi hf, jump_eq_goesTo]
  exact congrArg (fun d => Host.Outcome.next { s with dev := d }) (writesReg_eq_goesTo ..).symm

/-- Settles O11: branches by `branchOp_issued`, JAL and JALR by `jump_issued`. -/
theorem branchesAndJumpsGoWhereTheySay : Obligations.BranchesAndJumpsGoWhereTheySay := by
  intro s t ts rd rs1 i
  refine ⟨fun e he hi => ?_, fun hi => ?_, fun hi => jump_issued hi rfl⟩
  · obtain ⟨c, hc, hx⟩ := branchOp_of_branches e he
    rw [← hc, hx, branchOp_issued hi]
    exact ⟨fun h => by rw [if_pos h], fun h => by rw [if_neg h]⟩
  · exact (jump_issued hi rfl).trans
      (congrArg (fun pc => Host.Outcome.next (on s (writesReg t ts rd _ pc))) (pcPlus_mod i.toInt))

/-! ## What stays -/

/-- What a scalar instruction of a thread leaves alone: memory, the other slots, the thread's registers but rd, HBM, map and
energy. -/
structure KeepsRest (t : Pos) (ts : Nat) (rd : Reg) (d e : Dev) : Prop where
  mem : ∀ p : Pos, (e.tile p).mem = (d.tile p).mem
  slot : ∀ (p : Pos) (n : Nat), (p.ix ≠ t.ix ∨ n ≠ ts) → (e.tile p).slot n = (d.tile p).slot n
  reg : ∀ r : Reg, r ≠ rd → ((e.tile t).slot ts).g r = ((d.tile t).slot ts).g r
  hbm : e.brim.hbm = d.brim.hbm
  map : e.map = d.map
  energy : e.energy = d.energy

namespace KeepsRest

variable {t : Pos} {ts : Nat} {rd : Reg} {d e f : Dev}

theorem refl (d : Dev) : KeepsRest t ts rd d d := ⟨fun _ => rfl, fun _ _ _ => rfl, fun _ _ => rfl, rfl, rfl, rfl⟩

theorem trans (h : KeepsRest t ts rd d e) (k : KeepsRest t ts rd e f) : KeepsRest t ts rd d f where
  mem p := (k.mem p).trans (h.mem p)
  slot p n hp := (k.slot p n hp).trans (h.slot p n hp)
  reg r hr := (k.reg r hr).trans (h.reg r hr)
  hbm := k.hbm.trans h.hbm
  map := k.map.trans h.map
  energy := k.energy.trans h.energy

/-- A change of the thread's slot that leaves its registers alone, but rd. -/
theorem onSlot {f : Slot → Slot} (hf : ∀ (y : Slot) (r : Reg), r ≠ rd → (f y).g r = y.g r) :
    KeepsRest t ts rd d (d.onTile t fun x => x.onSlot ts f) where
  mem := forall_tile (P := fun x y => x.mem = y.mem) (by simp) (fun _ hp => Dev.tile_onTile_ne _ _ hp) fun _ => rfl
  slot p n hp := by
    by_cases hix : p.ix = t.ix
    · rw [tile_of_ix_eq _ hix, tile_of_ix_eq d hix, Dev.tile_onTile]
      exact Tile.slot_onSlot_ne _ _ (hp.resolve_left (not_not.2 hix))
    · rw [Dev.tile_onTile_ne _ _ hix]
  reg r hr := by rw [Dev.tile_onTile, Tile.slot_onSlot, hf _ r hr]
  hbm := rfl
  map := rfl
  energy := rfl

theorem setG (f : Slot → Word) : KeepsRest t ts rd d (d.onTile t fun x => x.onSlot ts fun y => y.setG rd (f y)) :=
  onSlot fun y _ hr => Slot.g_setG_ne y _ hr

/-- A fault changes fault registers and a job (R191). -/
theorem faultTile (p : Pos) (code detail : Nat) (a : FaultAt) : KeepsRest t ts rd d (faultTile p code detail a d) := by
  have h : ∀ q, ((Machine.faultTile p code detail a d).tile q).mem = (d.tile q).mem
      ∧ ((Machine.faultTile p code detail a d).tile q).slots = (d.tile q).slots := fun q => by
    rcases faultTile_tile p code detail a d q with h | h <;> simp [h]
  have hslot : ∀ q n, ((Machine.faultTile p code detail a d).tile q).slot n = (d.tile q).slot n := fun q n => by
    rw [Tile.slot, (h q).2]; rfl
  exact ⟨fun q => (h q).1, fun q n _ => hslot q n, fun r _ => by rw [hslot], faultTile_hbm .., faultTile_map ..,
    faultTile_energy ..⟩

end KeepsRest

/-- An end that completes the instruction, here or at a jump, with the rest kept. -/
inductive Completes (t : Pos) (ts : Nat) (rd : Reg) (d : Dev) : Res → Prop
  | done {e : Dev} (h : KeepsRest t ts rd d e) : Completes t ts rd d (.done e)
  | jump {e : Dev} {pc : Nat} (h : KeepsRest t ts rd d e) : Completes t ts rd d (.jump e pc)

/-- An instruction that completes with the rest kept keeps it when it cannot issue, is illegal or stalls too. -/
theorem runThread_keepsRest {t : Pos} {ts : Nat} {w : Word} {rd : Reg} {f : Dev → Res} {d : Dev}
    (hf : Completes t ts rd d (f d)) : KeepsRest t ts rd d (runThread t ts w f d) := by
  rcases runThread_cases t ts w f d with h | h | h | h <;> rw [h]
  · exact .refl d
  · exact .faultTile ..
  · exact .onSlot fun _ _ _ => rfl
  · generalize f d = r at hf
    cases hf with
    | done h => exact h.trans (.onSlot fun _ _ _ => rfl)
    | jump h => exact h.trans (.onSlot fun _ _ _ => rfl)

theorem completes_regOp (t : Pos) (ts : Nat) (rd : Reg) (f : Slot → Word) (d : Dev) :
    Completes t ts rd d (regOp t ts rd f d) := .done (.setG f)

theorem completes_branchOp (t : Pos) (ts : Nat) (rd : Reg) (i : BitVec 15) (c : Slot → Bool) (d : Dev) :
    Completes t ts rd d (branchOp t ts i c d) := by
  unfold branchOp
  dsimp only
  split
  · exact .jump (.refl d)
  · exact .done (.refl d)

/-- Every scalar and branch instruction completes with the rest kept. -/
theorem exec_completes {t : Pos} {ts : Nat} {rd rs1 rs2 : Reg} {i : BitVec 15} {c : Instr}
    (hc : c ∈ (Claim.threeReg t ts rd rs1 rs2).map (·.1) ∨ c ∈ (Claim.immediate t ts rd rs1 i).map (·.1)
      ∨ c ∈ (Claim.branches t ts rd rs1 i).map (·.1) ∨ c = .jal t ts rd i ∨ c = .jalr t ts rd rs1 i) :
    ∃ w f, exec c = liftAt (slotOk t ts) (runThread t ts w f) ∧ ∀ d, Completes t ts rd d (f d) := by
  rcases hc with hc | hc | hc | rfl | rfl
  · obtain ⟨e, he, rfl⟩ := List.mem_map.1 hc
    exact ⟨_, _, isRegOp_of_threeReg e he, completes_regOp t ts rd _⟩
  · obtain ⟨e, he, rfl⟩ := List.mem_map.1 hc
    exact ⟨_, _, isRegOp_of_immediate e he, completes_regOp t ts rd _⟩
  · obtain ⟨e, he, rfl⟩ := List.mem_map.1 hc
    obtain ⟨c, -, hx⟩ := branchOp_of_branches e he
    exact ⟨_, _, hx, completes_branchOp t ts rd i c⟩
  · exact ⟨_, _, rfl, fun d => .jump (.setG _)⟩
  · exact ⟨_, _, rfl, fun d => .jump (.setG _)⟩

/-- Settles O13: what an instruction keeps when it completes, `runThread` keeps whatever it comes to. -/
theorem scalarInstructionsKeepEverythingElse : Obligations.ScalarInstructionsKeepEverythingElse := by
  intro s u t ts rd rs1 rs2 i c hc hu
  obtain ⟨w, f, hx, hf⟩ := exec_completes hc
  obtain ⟨-, hboot, hdev⟩ := liftAt_keeps (hx ▸ hu)
  have h : KeepsRest t ts rd s.dev u.dev := hdev ▸ runThread_keepsRest (hf s.dev)
  exact ⟨fun p a => by rw [h.mem], h.slot, h.reg, h.hbm, h.map, h.energy, hboot⟩

end Sys2Proof.Proofs.Scalar
end

section
/-! PROOFS. Accesses to the control window, misaligned accesses, copies and conversions (O16-O18). -/

namespace Sys2Proof.Proofs.MemoryInstructions

open Sys2Proof Sys2Proof.Machine Sys2Proof.Claim Sys2Proof.Proofs.Threads Sys2Proof.Proofs.InstructionEnds
  Sys2Proof.Proofs.AccumulatingStores

/-! ## The control window -/

section
variable {s : State} {t : Pos} {ts n : Nat} {rd rs1 : Reg} {i : BitVec 15}

/-- A store to the window changes registers of the window alone (R186). -/
theorem ctlStore_slots (p : Pos) (off : Nat) (v : Word) (x : Tile) : (ctlStore p off v x).slots = x.slots := by
  unfold ctlStore
  dsimp only
  split <;> split <;> rfl

theorem ctlLoad_eq {d : Dev} {p : Pos} {off : Nat} (h : (d.tile p).taint.get 0 off = 0) :
    ctlLoad d p off = (ctlRead d p off, d) := if_pos h

/-- A load of a window register with no free bit puts it into rd (R186). -/
theorem loadOp_window (f : Nat → Word) (hal : addrOf ((thread s t ts).g rs1) i % 4 = 0)
    (hw : inWindow (addrOf ((thread s t ts).g rs1) i) = true)
    (htaint : (s.dev.tile t).taint.get 0 (addrOf ((thread s t ts).g rs1) i - windowBase) = 0) :
    loadOp t ts 4 rd rs1 i f s.dev = .done (s.dev.onTile t fun x => x.onSlot ts fun y =>
      y.setG rd (ctlRead s.dev t (addrOf ((thread s t ts).g rs1) i - windowBase))) := by
  unfold thread at *
  simp [loadOp, hal, hw, ctlLoad_eq htaint]

/-- A store of a window register under no tag (R175, R186). -/
theorem storeOp_window (hal : addrOf ((thread s t ts).g rs1) i % 4 = 0)
    (hw : inWindow (addrOf ((thread s t ts).g rs1) i) = true) (hspec : (thread s t ts).spec = none) :
    storeOp t ts 4 rd rs1 i s.dev = .done (s.dev.onTile t
      (ctlStore t (addrOf ((thread s t ts).g rs1) i - windowBase) ((thread s t ts).g rd))) := by
  unfold thread at *
  simp [storeOp, hal, hw, hspec]

/-- An access that is misaligned, or narrower than a word in the window. -/
def BadAccess (a n : Nat) : Prop := a % n ≠ 0 ∨ (inWindow a = true ∧ n ≠ 4)

theorem loadOp_bad (f : Nat → Word) (h : BadAccess (addrOf ((thread s t ts).g rs1) i) n) :
    loadOp t ts n rd rs1 i f s.dev = .fault 0x0405 0 := by
  unfold thread at h
  rcases h with h | ⟨hw, hn⟩
  · exact if_pos h
  · simp [loadOp, hw, hn]

theorem storeOp_bad (h : BadAccess (addrOf ((thread s t ts).g rs1) i) n) :
    storeOp t ts n rd rs1 i s.dev = .fault 0x0405 0 := by
  unfold thread at h
  rcases h with h | ⟨hw, hn⟩
  · exact if_pos h
  · simp [storeOp, hw, hn]

/-- Each load is `loadOp` with its size and extension (R195). -/
theorem exec_of_loads : ∀ e ∈ Claim.loads t ts rd rs1 i, exec e.1 =
    liftAt (slotOk t ts) (runThread t ts (encI e.2.1 rd rs1 i) (loadOp t ts e.2.2.1 rd rs1 i e.2.2.2)) := by
  simp only [Claim.loads, List.forall_mem_cons, List.not_mem_nil, false_imp_iff, implies_true, and_true]
  exact ⟨rfl, rfl, rfl, rfl, rfl⟩

/-- Each store is `storeOp` with its size (R195). -/
theorem exec_of_stores : ∀ e ∈ Claim.stores t ts rd rs1 i, exec e.1 =
    liftAt (slotOk t ts) (runThread t ts (encI e.2.1 rd rs1 i) (storeOp t ts e.2.2 rd rs1 i)) := by
  simp only [Claim.stores, List.forall_mem_cons, List.not_mem_nil, false_imp_iff, implies_true, and_true]
  exact ⟨rfl, rfl, rfl⟩

end

/-- Settles O16: the window's cases of `loadOp` and `storeOp`, and the bad accesses of both. -/
theorem windowAccessesAndAlignment : Obligations.WindowAccessesAndAlignment := by
  intro s t ts rd rs1 i a
  refine ⟨fun hi hal hw htaint => ?_, fun hi hal hw hspec => ?_, fun e he hi hbad => ?_⟩
  · exact write_issued hi (loadOp_window _ hal hw htaint)
  · refine done_issued hi (·.onTile t _) (storeOp_window hal hw hspec) ?_
    rw [Dev.tile_onTile, ctlStore_slots]
  · rcases List.mem_append.1 he with he | he
    · obtain ⟨l, hl, rfl⟩ := List.mem_map.1 he
      rw [exec_of_loads l hl]
      exact fault_issued hi (loadOp_bad _ hbad)
    · rw [exec_of_stores e he]
      exact fault_issued hi (storeOp_bad hbad)

/-! ## MCOPY, CVT and CVST -/

/-- Settles O17: a read, then a store of what was read. -/
theorem mcopyCopiesItsRange : Obligations.McopyCopiesItsRange := by
  intro s t ts rd rs1 rs2 src dst n hi hsrc hdst hn hov hr hw hwf
  obtain ⟨e, he, hread⟩ := AfterReads.start.withRead_next hr
  have hal : ¬ (src % 4 ≠ 0 ∨ dst % 4 ≠ 0) := by simp [hsrc, hdst]
  have hlen : ¬ (n % 4 ≠ 0 ∨ badOverlap src n dst n = true) := by simp [hn, hov]
  exact store_ends hi he ((if_neg hal).trans ((if_neg hlen).trans (hread _))) (length_readN _ _ _) hw hwf

/-- Settles O18: CVT is a read, then a store of the converted codes; CVST stores one. -/
theorem conversionsStoreConvertedElements : Obligations.ConversionsStoreConvertedElements := by
  intro s t ts rd rs1 rs2 i
  constructor
  · intro src dst cnt stream sf df rnd hi hsf hdf hrnd hsrc hdst hov hr hw hwf out
    obtain ⟨e, he, hread⟩ := AfterReads.start.withRead_next hr
    have hfmt : ¬ (!fmtOk sf || !fmtOk df || badRnd t.kind rnd) = true := by simp [hsf, hdf, hrnd]
    have hal : ¬ (src % fmtSize sf ≠ 0 ∨ dst % fmtSize df ≠ 0) := by simp [hsrc, hdst]
    have hlen : out.length = cnt * fmtSize df := by
      simp only [out, length_unelems, List.length_map, List.length_zipIdx, length_elems_readN]
    simp only [out, Claim.draw, ← he.drawOf_eq, ← he.narrowAt_eq] at hlen ⊢
    exact store_ends hi he ((if_neg hfmt).trans ((if_neg hal).trans ((if_neg (Bool.eq_false_iff.1 hov)).trans
      (hread _)))) hlen hw hwf
  · intro dst df e hi hdf hrnd hal hw hwf
    have hfmt : ¬ (!fmtOk df || badRnd t.kind (bits i.toNat 4 2)) = true := by simp [hdf, hrnd]
    rw [exists_congr fun _ => and_congr_right' and_comm]
    exact store_ends hi .start ((if_neg hfmt).trans (if_neg (not_not.2 hal))) (LoadsAndStores.length_le _ _) hw hwf

end Sys2Proof.Proofs.MemoryInstructions
end

section
/-! PROOFS. Operand reads, sends and PREDICT (O20-O22). -/

namespace Sys2Proof.Proofs.OperandsAndSends

open Sys2Proof Sys2Proof.Machine Sys2Proof.Claim Sys2Proof.Proofs.Threads Sys2Proof.Proofs.InstructionEnds
  Sys2Proof.Proofs.AccumulatingStores

/-! ## Operands -/

/-- A little-endian field is its first byte and the field behind it; bytes beyond the list are 0 (R200). -/
theorem fieldLe_succ (bs : List Byte) (k n : Nat) :
    fieldLe bs k (n + 1) = (bs.getD k 0).toNat + 256 * fieldLe bs (k + 1) n := by
  by_cases hk : k < bs.length
  · rw [Machine.fieldLe, slice, List.drop_eq_getElem_cons hk, List.take_succ_cons, ofLe, List.getD_eq_getElem _ _ hk]
    rfl
  · have h0 : bs.drop k = [] := List.drop_eq_nil_of_le (not_lt.1 hk)
    have h1 : bs.drop (k + 1) = [] := List.drop_eq_nil_of_le (by omega)
    simp [Machine.fieldLe, slice, h0, h1, ofLe, not_lt.1 hk]

theorem payloadWord_eq (bs : List Byte) (k : Nat) : Claim.payloadWord bs k = BitVec.ofNat 32 (fieldLe bs k 4) := by
  have h0 : fieldLe bs (k + 4) 0 = 0 := by simp [Machine.fieldLe, slice, ofLe]
  rw [Claim.payloadWord, fieldLe_succ, fieldLe_succ, fieldLe_succ, fieldLe_succ, h0]
  congr 1
  ring

/-- A number at or beyond n_ops names no operand (R200). -/
theorem operandOf_eq_none {x : Tile} {y : Slot} {k : TaskSt} {q : Nat} (hk : taskOf x y = some k) (hq : k.decl.nOps ≤ q) :
    operandOf x y q = none := by
  simp [operandOf, hk, not_lt.2 hq]

section
variable {s : State} {t : Pos} {ts a : Nat} {w : Word} {bs : List Byte} {d e : Dev}

/-- What follows a store that nothing stops goes on with the device that the store leaves. -/
theorem withWrite_next (hw : Claim.Writable s t ts a bs.length) (he : withWrite t ts a bs s.dev .done = .done e)
    (k : Dev → Res) : withWrite t ts a bs s.dev k = k e := by
  have hstop : writeStop t ts a bs.length s.dev = none := writeStop_eq_none_iff.2 <|
    hw.imp_right fun ⟨hm, hs, hf, hc, _⟩ => ⟨hm, hs, hf, hc⟩
  simp only [withWrite, hstop] at he ⊢
  split at he
  · next hb =>
    obtain rfl := Res.done.inj he
    exact if_pos hb
  · next hb =>
    rw [if_neg hb]
    split at he
    · cases he
    · obtain rfl := Res.done.inj he
      rfl

end

/-- Settles O20: OPRD is a register write, OPCP a store and a register write, and a number at or beyond n_ops finds no operand. -/
theorem operandReads : Obligations.OperandReads := by
  intro s t ts rd rs1 q
  refine ⟨fun hi => ⟨fun bs hbs => ?_, fun k hk hq => ?_⟩, fun hi => ⟨fun bs hbs hal hw hwf => ?_, fun k hk hq => ?_⟩⟩
  · refine write_issued hi ?_
    unfold thread at hbs ⊢
    simp [hbs, payloadWord_eq, bits]
  · refine fault_issued hi (detail := 0) ?_
    have hnone : operandOf (s.dev.tile t) ((s.dev.tile t).slot ts) (q.toNat % 4) = none := operandOf_eq_none hk hq
    simp only [hnone]
  · obtain ⟨e, he, hmem, hslots, hother, hjobs, hbrim, hmap, hhost⟩ := withWrite_done .start hw
    have hput := withWrite_next hw he fun d =>
      .done (d.onTile t fun x => x.onSlot ts fun y => y.setG rd (BitVec.ofNat 32 bs.length))
    refine ⟨_, liftAt_runThread hi (Eq.trans ?_ hput),
      stored_done ?_ (fun p hp => ?_) ⟨hjobs, hbrim, hmap, hhost⟩ hwf, ?_, ?_⟩
    · unfold thread at hbs hal ⊢
      simp [hbs, hal]
    · simpa using hmem
    · rw [Dev.tile_onTile_ne _ _ hp, hother p hp]
    · simp [Slot.g_setG]
    · have hslot : (e.tile t).slot ts = thread s t ts := by rw [Tile.slot, hslots]; rfl
      simp [pcPlus_one, hslot]
  · refine fault_issued hi (detail := 0) ?_
    have hnone : operandOf (s.dev.tile t) ((s.dev.tile t).slot ts) (q.toNat % 4) = none := operandOf_eq_none hk hq
    simp only [hnone]

/-! ## PREDICT -/

/-- A unit that is not declared, a MERGE, and a prediction without speculation fault (R202). -/
theorem predict_bad {s : State} {t : Pos} {ts : Nat} {qf : BitVec 4} {q : BitVec 6} (hi : Issues s t ts (encQ 0x34 0 0 0 qf q))
    (h : ∀ k, (s.dev.tile t).flow.steers[bits q.toNat 0 4]? = some k →
      k.decl.merge = true ∨ (bits qf.toNat 0 2 ≠ 0 ∧ (s.dev.tile t).flow.scratch = false)) :
    ∃ u, exec (.predict t ts qf q) s = .next u ∧ Claim.Faulted s u t ts 0x0104 := by
  refine fault_issued hi (detail := 0) ?_
  dsimp only
  split
  · rfl
  · next k hk =>
    refine if_pos ((h k hk).imp_right (And.imp_right ?_))
    simp

/-- Settles O22: the branches of PREDICT. -/
theorem predictSetsThePredictor : Obligations.PredictSetsThePredictor := by
  intro s t ts qf q hi x n v
  refine ⟨fun hnone => predict_bad hi ?_, fun k hk hbad => predict_bad hi ?_, fun k hk hmerge hv => ?_⟩
  · exact fun k hk => absurd (hnone.symm.trans hk) nofun
  · rintro k' hk'
    obtain rfl := Option.some.inj (hk.symm.trans hk')
    exact hbad
  · have hok : ¬ (k.decl.merge = true ∨ (v ≠ 0 ∧ ¬ x.flow.scratch = true)) := by
      rcases hv with hv | hv <;> simp [hmerge, hv]
    have hlt : n < x.flow.steers.length := (List.getElem?_eq_some_iff.1 hk).1
    refine ⟨_, liftAt_runThread hi (r := .done (s.dev.onTile t fun x => { x with flow := { x.flow with
      steers := x.flow.steers.set n { k with predict := v } } })) ?_, ?_, fun m hm => ?_, ?_, ?_, onlyAdvances_done ?_⟩
    · simp only [x, n] at hk
      simp only [hk]
      exact if_neg hok
    · simp [hlt, x]
    · simp [List.getElem?_set_ne hm.symm, x]
    · simp [x]
    · simp [x]
    · simp

end Sys2Proof.Proofs.OperandsAndSends
end

section
/-! PROOFS. Sends (O21): a port that is open sends its token. -/

namespace Sys2Proof.Proofs.Sends

open Sys2Proof Sys2Proof.Machine Sys2Proof.Claim Sys2Proof.Proofs.Threads Sys2Proof.Proofs.InstructionEnds
  Sys2Proof.Proofs.AccumulatingStores

/-! ## What reads leave alone -/

section
variable {t : Pos} {d e : Dev}

theorem jobAt_afterReads (h : AfterReads t d e) : e.jobAt t = d.jobAt t := by
  obtain ⟨hjobs, -⟩ := h.outside_eq
  rw [Dev.jobAt, h.tile_eq]
  simp only [Dev.job?, hjobs]
  rfl

theorem map_afterReads (h : AfterReads t d e) : e.map = d.map := by
  obtain ⟨-, -, hmap, -⟩ := h.outside_eq
  exact hmap

theorem net_afterReads (h : AfterReads t d e) : (e.tile t).net = (d.tile t).net := by rw [h.tile_eq]

theorem port_afterReads (h : AfterReads t d e) (n : Nat) : (e.tile t).port n = (d.tile t).port n := by
  rw [Tile.port, h.flow_eq]
  rfl

theorem portLocal_afterReads (h : AfterReads t d e) (n : Nat) : portLocal e t n = portLocal d t n := by
  simp only [portLocal, port_afterReads h, jobAt_afterReads h, map_afterReads h]

theorem portMesh_afterReads (h : AfterReads t d e) (n : Nat) : portMesh e t n = portMesh d t n := by
  simp only [portMesh, port_afterReads h, jobAt_afterReads h, map_afterReads h]

theorem maskedOut_afterReads (h : AfterReads t d e) (y : Slot) (n : Nat) :
    maskedOut (e.tile t) y n = maskedOut (d.tile t) y n := by
  simp only [maskedOut, taskOf, h.flow_eq]

theorem sendBuffered_afterReads (h : AfterReads t d e) : sendBuffered (e.tile t) = sendBuffered (d.tile t) := by
  simp only [sendBuffered, net_afterReads h]

theorem tokenFree_afterReads (h : AfterReads t d e) (n num : Nat) :
    (e.tile t).tokenFree n num = (d.tile t).tokenFree n num := by
  simp only [Tile.tokenFree, net_afterReads h, port_afterReads h]

/-- A port that is open stays open over reads. -/
theorem portOpen_afterReads {s : State} {ts n : Nat} (h : AfterReads t s.dev e) (ho : Claim.PortOpen s t ts n) :
    Claim.PortOpen (on s fun _ => e) t ts n := by
  simpa only [Claim.PortOpen, thread, on, h.slot_eq, maskedOut_afterReads h, port_afterReads h, portLocal_afterReads h,
    portMesh_afterReads h, sendBuffered_afterReads h, tokenFree_afterReads h] using ho

theorem wafer_afterReads (h : AfterReads t d e) : e.wafer = { d.wafer with tiles := e.wafer.tiles } := by
  induction h with
  | start => rfl
  | read ws _ ih => rw [Dev.setTile, ih]

end

/-! ## A token leaves -/

section
variable {p : Pos} {n ci : Nat} {k : Token} {d : Dev} {j : Job} {r : ChanRec}

/-- An output port after it has given out a number (R259). -/
def numbered (n : Nat) (x : Tile) : Tile := x.setPort n { x.port n with num := ((x.port n).num + 1) % 4096 }

theorem credit_numbered (n : Nat) (x : Tile) : ((numbered n x).port n).credit = (x.port n).credit := by
  rw [numbered, Tile.port_setPort]

/-- The token that goes onto a neighbour link (R166). -/
def linkToken (p : Pos) (n ci : Nat) (k : Token) (j : Job) (d : Dev) : NTok :=
  { j := j.slot, ci := ci, tok := k, num := ((d.tile p).port n).num, sbit := (d.tile p).sbit, fails := 0 }

/-- The packet that carries a token over the mesh (R241, R259). -/
def tokenPacket (p : Pos) (n ch : Nat) (k : Token) (q : Pos) (d : Dev) : Packet :=
  { (d.tile p).packet p .token (d.addrOf q) (tokenBytes k ch) with seq := ((d.tile p).port n).num, tag := n }

/-- The packet as the send buffer keeps it (R166). -/
def tokenOut (p : Pos) (n ch : Nat) (k : Token) (q : Pos) (d : Dev) : Out :=
  { pkt := tokenPacket p n ch k q d, timer := true, reissued := false, lcc := none, units := 0, local_ := 0, target := 0,
    op := 0 }

/-- A tile whose send buffer keeps one more packet. -/
def buffered (o : Out) (x : Tile) : Tile := { x with net := { x.net with outs := x.net.outs ++ [o] } }

/-- A local channel takes the token at once (R166). -/
theorem putToken_loc (hci : ((d.tile p).port n).ci = some ci) (hj : d.jobAt p = some j) (hr : j.chan ci = some r)
    (hpath : chanPath d.map j r = .loc) : putToken p n k d =
      d.onTile p fun x => x.setChan r.ch { x.chan r.ch with toks := (x.chan r.ch).toks ++ [k] } := by
  simp only [putToken, hci, hj, hr, hpath]

/-- A neighbour channel puts the token onto its link (R166). -/
theorem putToken_neighbour (hci : ((d.tile p).port n).ci = some ci) (hj : d.jobAt p = some j) (hr : j.chan ci = some r)
    (hpath : chanPath d.map j r = .neighbour) : putToken p n k d =
      ({ d with wafer := { d.wafer with links := d.wafer.links ++ [linkToken p n ci k j d] } } : Dev).onTile p
        (numbered n) := by
  simp only [putToken, hci, hj, hr, hpath]
  rfl

/-- A mesh channel sends the token as a packet that the send buffer keeps (R166). -/
theorem putToken_mesh {q : Pos} (hci : ((d.tile p).port n).ci = some ci) (hj : d.jobAt p = some j)
    (hr : j.chan ci = some r) (hpath : chanPath d.map j r = .mesh) (hq : j.posOf d.map r.cons = some q) :
    putToken p n k d = (d.onTile p fun x => buffered (tokenOut p n r.ch k q d) (numbered n x)).send p
      (tokenPacket p n r.ch k q d) := by
  simp only [putToken, hci, hj, hr, hpath, reduceCtorEq, if_false, hq]
  rfl

theorem addrOf_congr {d e : Dev} (h : e.map = d.map) (q : Pos) : e.addrOf q = d.addrOf q := by
  rw [Dev.addrOf, h]
  rfl

theorem tile_send (p q : Pos) (k : Packet) (d : Dev) : (d.send p k).tile q = d.tile q := rfl

/-- A token that leaves changes no slot and no credit of its port. -/
theorem putToken_keeps_slots_credit (p : Pos) (n : Nat) (k : Token) (d : Dev) :
    ((putToken p n k d).tile p).slots = (d.tile p).slots
      ∧ (((putToken p n k d).tile p).port n).credit = ((d.tile p).port n).credit := by
  unfold putToken
  dsimp only
  split
  · split
    · exact ⟨rfl, rfl⟩
    · split
      · rw [Dev.tile_onTile]
        exact ⟨rfl, rfl⟩
      · rw [Dev.tile_onTile]
        exact ⟨rfl, credit_numbered n (d.tile p)⟩
      · split
        · exact ⟨rfl, rfl⟩
        · rw [tile_send, Dev.tile_onTile]
          exact ⟨rfl, credit_numbered n (d.tile p)⟩
  · exact ⟨rfl, rfl⟩

end

/-! ## An open port -/

/-- A tile whose port has given one credit (R167). -/
def charged (n : Nat) (x : Tile) : Tile := x.setPort n { x.port n with credit := (x.port n).credit - 1, waiting := false }

section
variable {s : State} {t : Pos} {ts n : Nat} {e : Dev}

/-- An open port sends its token at the cost of one credit (R167, R201). -/
theorem sendToken_eq (ho : Claim.PortOpen s t ts n) (tag : Nat) (ref : Bool) (data : List Byte) :
    sendToken t ts n tag ref data s.dev =
      .done (putToken t n { tag := tag, ref := ref, prov := (thread s t ts).spec, data := data }
        (s.dev.onTile t (charged n))) := by
  obtain ⟨hmask, hci, hloc, hcredit, hmesh⟩ := ho
  unfold thread at hmask hloc
  have hlocal : ¬ (((s.dev.tile t).slot ts).spec.isSome && !portLocal s.dev t n) = true := by
    rcases hloc with hloc | hloc <;> simp [hloc]
  have hbuffer : ¬ (portMesh s.dev t n && (decide (256 ≤ sendBuffered (s.dev.tile t))
      || !(s.dev.tile t).tokenFree n ((s.dev.tile t).port n).num)) = true := by
    rcases hmesh with hmesh | ⟨hroom, hfree⟩
    · simp [hmesh]
    · simp [hroom, hfree]
  have hconnected : ¬ ((s.dev.tile t).port n).ci.isNone = true := by simpa [Option.isSome_iff_ne_none] using hci
  exact (if_neg (Bool.eq_false_iff.1 hmask)).trans ((if_neg hconnected).trans ((if_neg hlocal).trans
    ((if_neg hcredit.ne').trans (if_neg hbuffer))))

/-- What a token that leaves meets, when the port has been charged after reads of the tile. -/
structure ReadyToSend (s : State) (t : Pos) (n : Nat) (d : Dev) : Prop where
  credit : ((d.tile t).port n).credit = ((s.dev.tile t).port n).credit - 1
  ci : ((d.tile t).port n).ci = ((s.dev.tile t).port n).ci
  num : ((d.tile t).port n).num = ((s.dev.tile t).port n).num
  chan : ∀ m, (d.tile t).chan m = (s.dev.tile t).chan m
  slots : (d.tile t).slots = (s.dev.tile t).slots
  job : d.jobAt t = s.dev.jobAt t
  map : d.map = s.dev.map
  links : d.wafer.links = s.dev.wafer.links
  flights : d.wafer.flights = s.dev.wafer.flights

theorem ready_charged (h : AfterReads t s.dev e) : ReadyToSend s t n (e.onTile t (charged n)) := by
  have hport : ((e.onTile t (charged n)).tile t).port n =
      { (s.dev.tile t).port n with credit := ((s.dev.tile t).port n).credit - 1, waiting := false } := by
    rw [Dev.tile_onTile, charged, Tile.port_setPort, port_afterReads h]
  constructor
  case credit => rw [hport]
  case ci => rw [hport]
  case num => rw [hport]
  case chan => exact fun m => by rw [Dev.tile_onTile, Tile.chan, charged, Tile.setPort_flow_chans, h.flow_eq]; rfl
  case slots => rw [Dev.tile_onTile, charged, Tile.setPort_slots, h.slots_eq]
  case job => rw [← jobAt_afterReads h, Dev.jobAt, Dev.tile_onTile]; rfl
  case map => rw [Dev.onTile_map, map_afterReads h]
  case links => rw [Dev.onTile_wafer_links, wafer_afterReads h]
  case flights => rw [Dev.onTile_wafer_flights, wafer_afterReads h]

/-- The token that an open port sends is on its way, at the cost of one credit (R166, R167). -/
theorem tokenSent_done {w : Word} {d d0 : Dev} {k : Token} (hr : ReadyToSend s t n d)
    (hcredit : 0 < ((s.dev.tile t).port n).credit) :
    Claim.TokenSent s (on s fun _ => (Res.done (putToken t n k d)).apply t ts w d0) t n k := by
  refine ⟨?_, fun ci j r hci hj hch => ?_⟩
  · rw [tile_apply_done]
    obtain ⟨-, hkept⟩ := putToken_keeps_slots_credit t n k d
    exact (congrArg (· + 1) (hkept.trans hr.credit)).trans (Nat.sub_add_cancel hcredit)
  · rw [← hr.ci] at hci
    rw [← hr.job] at hj
    rw [← hr.map, ← hr.num, ← hr.links, ← hr.flights, ← hr.chan]
    refine ⟨fun hpath => ?_, fun hpath => ?_, fun hpath q hq => ?_⟩
    · rw [tile_apply_done, putToken_loc hci hj hch hpath, Dev.tile_onTile]
      exact congrArg Chan.toks (Tile.chan_setChan ..)
    · refine ⟨linkToken t n ci k j d, ?_, rfl, rfl, rfl, rfl⟩
      rw [putToken_neighbour hci hj hch hpath]
      rfl
    · rw [tile_apply_done, putToken_mesh hci hj hch hpath hq]
      refine ⟨{ id := d.wafer.nextId, pkt := tokenPacket t n r.ch k q d, place := .router t localSide, retargeted := false },
        rfl, rfl, rfl, rfl, rfl, addrOf_congr hr.map q, ?_⟩
      rw [tile_send, Dev.tile_onTile]
      simp [buffered, tokenOut]

/-- An instruction that comes down to a send on an open port, after reads of its tile. -/
theorem send_ends {w : Word} {f : Dev → Res} {tag : Nat} {ref : Bool} {data : List Byte} (hi : Issues s t ts w)
    (h : AfterReads t s.dev e) (hf : f s.dev = sendToken t ts n tag ref data e) (ho : Claim.PortOpen s t ts n) :
    ∃ u, liftAt (slotOk t ts) (runThread t ts w f) s = .next u ∧ (thread u t ts).pc = pcPlus s t ts 1
      ∧ Claim.TokenSent s u t n { tag := tag, ref := ref, prov := (thread s t ts).spec, data := data } := by
  have hslot : thread (on s fun _ => e) t ts = thread s t ts := h.slot_eq ts
  have hsend := hf.trans (sendToken_eq (portOpen_afterReads h ho) tag ref data)
  rw [hslot] at hsend
  obtain ⟨-, -, -, hcredit, -⟩ := ho
  have hready : ReadyToSend s t n (e.onTile t (charged n)) := ready_charged h
  refine ⟨_, liftAt_runThread hi hsend, ?_, tokenSent_done hready hcredit⟩
  obtain ⟨hslots, -⟩ := putToken_keeps_slots_credit t n
    { tag := tag, ref := ref, prov := (thread s t ts).spec, data := data } (e.onTile t (charged n))
  obtain ⟨-, hpc, -⟩ := onlyAdvances_done (s := s) (ts := ts) (w := w) (d := s.dev) (hslots.trans hready.slots)
  exact hpc

end

/-- Settles O21: SEND reads its payload and sends it, SENDR sends one of three payloads. -/
theorem sendsSendOneToken : Obligations.SendsSendOneToken := by
  intro s t ts rs1 rs2 qf q
  constructor
  · intro h a bs hi hzero hlen href hr ho
    obtain ⟨e, he, hread⟩ := AfterReads.start.withRead_next hr
    have hhead : ¬ (bits h 24 8 ≠ 0 ∨ bits h 16 7 > 64 ∨ (bit h 23 = true ∧ bits h 16 7 ≠ 8)) := by
      rintro (hbad | hbad | ⟨hset, hbad⟩)
      · exact hbad hzero
      · omega
      · exact hbad (href hset).1
    have hpayload : ¬ (bit h 23 = true ∧ fieldLe bs 6 2 = 0) := fun hbad => (href hbad.1).2 hbad.2
    exact send_ends hi he ((if_neg hhead).trans ((hread _).trans (if_neg hpayload))) ho
  · intro v n hi hn ho
    have hlt : n < 4 := Nat.mod_lt _ (by decide)
    have hx : exec (.sendr t ts rs1 rs2 qf q) s = execSendr t ts rs1 rs2 qf q s := rfl
    have hbits : bits qf.toNat 0 2 = n := rfl
    rw [hx, execSendr]
    simp only [hbits]
    clear_value n
    match n, hn, hlt with
    | 0, _, _ => exact send_ends hi .start rfl ho
    | 1, _, _ => exact send_ends hi .start rfl ho
    | 2, _, _ => exact send_ends hi .start rfl ho
    | 3, hn, _ => exact absurd rfl hn

end Sys2Proof.Proofs.Sends
end

section
/-! PROOFS. Hatband instructions (O24, O25). -/

namespace Sys2Proof.Proofs.HatbandLines

open Sys2Proof Sys2Proof.Machine Sys2Proof.Claim Sys2Proof.Proofs.Threads Sys2Proof.Proofs.InstructionEnds

/-- Settles O24: enrolment is what each of the three tests first. -/
theorem hatbandNeedsEnrolment : Obligations.HatbandNeedsEnrolment := by
  intro s t ts q h
  have hno : (!enrolled (s.dev.tile t) q.toNat) = true := by simp [h]
  exact ⟨fun hi => fault_issued hi (if_pos hno), fun hi => fault_issued hi (if_pos hno),
    fun hi => fault_issued hi (if_pos hno)⟩

/-- A line on which a tile is enrolled is one of 32 (R225). -/
theorem lt_of_enrolled {x : Tile} {k : Nat} (h : enrolled x k = true) : k < 32 := by
  rw [enrolled, Bool.and_eq_true] at h
  exact BitVec.lt_of_getLsbD h.2

/-- The arrive bit of a line is set by an arrive (R227). -/
theorem pending_setPending {k : Nat} (x : Tile) (h : k < 32) : (setPending k x).sync.pending.getLsbD k = true := by
  have hbit : (BitVec.ofNat 32 (2 ^ k)).getLsbD k = true := by
    rw [BitVec.getLsbD_ofNat, decide_eq_true h, Nat.testBit_two_pow_self]
    rfl
  rw [setPending, BitVec.getLsbD_or, hbit, Bool.or_true]

/-- Settles O25: HBARR and HBWAIT by what the line's arrive bit is, HBSYNC when nothing holds the arrive back. -/
theorem hatbandInstructions : Obligations.HatbandInstructions := by
  intro s t ts q h x held
  have hin : ¬ (!enrolled x q.toNat) = true := by simp [x, h]
  refine ⟨fun hi => ⟨fun hp hh => ?_, fun hp => ?_, fun hp hh => ?_⟩, fun hi => ⟨fun hp => ?_, fun hp => ?_⟩,
    fun hi hgo => ?_⟩
  · refine done_issued hi (·.onTile t (setPending q.toNat)) ((if_neg hin).trans
      ((if_neg (Bool.eq_false_iff.1 hp)).trans (if_neg hh))) ?_
    rw [Dev.tile_onTile]
    rfl
  · exact skip_issued hi ((if_neg hin).trans (if_pos hp))
  · exact wait_issued hi ((if_neg hin).trans ((if_neg (Bool.eq_false_iff.1 hp)).trans (if_pos hh)))
  · exact skip_issued hi ((if_neg hin).trans (if_neg (Bool.eq_false_iff.1 hp)))
  · exact stay_issued hi ((if_neg hin).trans (if_pos hp))
  · have hfree : ¬ ((!pendingOn x q.toNat) = true ∧ q.toNat = 0 ∧ arriveHeld x = true) := by
      simpa only [Bool.not_eq_true'] using hgo
    refine ⟨_, stay_issued hi ((if_neg hin).trans (if_neg hfree)), ?_, ?_, ?_, ?_⟩
    · rw [on, Dev.tile_onTile]
      exact pending_setPending x (lt_of_enrolled h)
    all_goals rw [on, thread, Dev.tile_onTile, Tile.slot_onSlot]; rfl

end Sys2Proof.Proofs.HatbandLines
end

section
/-! PROOFS. Completion counters and REMOTE_CTX (O26). -/

namespace Sys2Proof.Proofs.Counters

open Sys2Proof Sys2Proof.Machine Sys2Proof.Claim Sys2Proof.Proofs.Threads Sys2Proof.Proofs.InstructionEnds

/-! ## Held signals leave the counters alone -/

section
variable {p : Pos} {d : Dev}

theorem cc_faultTile (code detail : Nat) (a : FaultAt) :
    ((faultTile p code detail a d).tile p).net.cc = (d.tile p).net.cc := by
  rcases faultTile_tile p code detail a d p with h | h <;> simp [h]

theorem net_sqAppend (q : Nat) (v : Word) (x : Tile) : (sqAppend p q v x).net = x.net := by
  unfold sqAppend
  dsimp only
  split <;> rfl

theorem cc_signalAppend (q : Nat) (v : Word) : ((signalAppend p q v d).tile p).net.cc = (d.tile p).net.cc := by
  unfold signalAppend
  split
  · exact cc_faultTile ..
  · rw [Dev.tile_onTile, net_sqAppend]

theorem cc_sendNumbered (k : Packet) (lcc : Option Nat) (units loc target op : Nat) :
    ((sendNumbered p k lcc units loc target op d).tile p).net.cc = (d.tile p).net.cc := by
  unfold sendNumbered
  dsimp only
  split
  · rw [launch, Sends.tile_send, Dev.tile_onTile]
  · rw [Dev.tile_onTile]

theorem cc_releaseSig (g : HeldSig) : ((releaseSig p g d).tile p).net.cc = (d.tile p).net.cc := by
  unfold releaseSig
  dsimp only
  split
  · exact cc_signalAppend ..
  · rw [cc_sendNumbered, cc_signalAppend]

/-- Signals that are released leave the counters as they are (R208). -/
theorem cc_releaseSignals : ((releaseSignals p d).tile p).net.cc = (d.tile p).net.cc := by
  have h : ∀ (l : List HeldSig) (e : Dev), ((e.each l (releaseSig p)).tile p).net.cc = (e.tile p).net.cc := by
    intro l
    induction l with
    | nil => exact fun _ => rfl
    | cons g l ih => exact fun e => (ih _).trans (cc_releaseSig g)
  unfold releaseSignals
  dsimp only
  rw [h, Dev.tile_onTile]

/-- A counter that is set holds the value, saturated, and the others stay (R209). -/
theorem cc_setCc (n v : Nat) :
    ((setCc p n v d).tile p).net.cc = (d.tile p).net.cc.set n (BitVec.ofNat 32 (min v 0xFFFFFFFF)) := by
  rw [setCc, cc_releaseSignals, Dev.tile_onTile]

end

/-- A counter instruction that issues and sets its counter. -/
theorem setCc_issued {s : State} {t : Pos} {ts n : Nat} {w v : Word} {f : Dev → Res} (hi : Issues s t ts w)
    (hf : f s.dev = .done (setCc t n v.toNat s.dev)) :
    ∃ u, liftAt (slotOk t ts) (runThread t ts w f) s = .next u ∧ (u.dev.tile t).net.cc.get 0 n = v
      ∧ ∀ m, m ≠ n → (u.dev.tile t).net.cc.get 0 m = (s.dev.tile t).net.cc.get 0 m := by
  have hv : BitVec.ofNat 32 (min v.toNat 0xFFFFFFFF) = v := by
    rw [min_eq_left (Nat.le_of_lt_succ v.isLt), BitVec.ofNat_toNat, BitVec.setWidth_eq]
  refine ⟨_, liftAt_runThread hi hf, ?_, fun m hm => ?_⟩
  · rw [tile_apply_done, Tile.onSlot_net, cc_setCc, Tab.get_set_self, hv]
  · rw [tile_apply_done, Tile.onSlot_net, cc_setCc, Tab.get_set_ne _ _ _ hm]

/-! ## REMOTE_CTX -/

/-- The reserved bits of REMOTE_CTX, whatever they come to read, leave its fields alone (R206). -/
theorem ctx_fields (v x : Word) :
    ((v &&& 0x3FFFFFFF) ||| (x &&& (v &&& 0xC0000000))) &&& 0x3FFFFFFF = v &&& 0x3FFFFFFF := by
  have hdisjoint : (0xC0000000 : Word) &&& 0x3FFFFFFF = 0#32 := by decide
  rw [BitVec.and_or_distrib_right, BitVec.and_assoc, BitVec.and_self, BitVec.and_assoc, BitVec.and_assoc, hdisjoint,
    BitVec.and_zero, BitVec.and_zero, BitVec.or_zero]

section
variable {s : State} {t : Pos} {ts : Nat} {w : Word} {d e : Dev}

/-- The completion of an instruction that has changed what is neither register nor pc of its slot. -/
theorem onlyAdvances_onSlot {f : Slot → Slot} (h : e.tile t = (s.dev.tile t).onSlot ts f)
    (hg : ∀ (y : Slot) (r : Reg), (f y).g r = y.g r) (hpc : ∀ y : Slot, (f y).pc = y.pc) :
    Claim.OnlyAdvances s (on s fun _ => (Res.done e).apply t ts w d) t ts := by
  have hown : thread (on s fun _ => (Res.done e).apply t ts w d) t ts = (f (thread s t ts)).resume t.kind := by
    rw [thread_apply_done, h, Tile.slot_onSlot]
    rfl
  have hother : ∀ n, n ≠ ts → thread (on s fun _ => (Res.done e).apply t ts w d) t n = thread s t n := fun n hn => by
    rw [thread_apply_done_ne hn, h, Tile.slot_onSlot_ne _ _ hn]
    rfl
  refine ⟨fun n r => ?_, ?_, ?_, ?_, hother⟩
  · by_cases hn : n = ts
    · rw [hn, hown, Slot.resume_g, hg]
    · rw [hother n hn]
  · rw [hown, Slot.resume_pc, hpc, pcPlus_one]
  · rw [hown, Slot.resume_st]
  · rw [hown, Slot.resume_wait]

/-- SETRC with the context that it comes to: one that agrees with rs1 in the fields, and is rs1 where no reserved bit is set
(R206). -/
theorem setrc_issued {r : Reg} (hi : Issues s t ts (encA 0x56 0 r 0 0)) : ∃ (c : Word) (d' : Dev),
    (d'.tile t = s.dev.tile t)
      ∧ c &&& 0x3FFFFFFF = (thread s t ts).g r &&& 0x3FFFFFFF
      ∧ ((thread s t ts).g r &&& 0xC0000000 = 0 → c = (thread s t ts).g r)
      ∧ exec (.setrc t ts r) s = .next (on s fun _ => (Res.done (d'.onTile t fun x => x.onSlot ts fun y =>
          { y with ctx := c })).apply t ts (encA 0x56 0 r 0 0) s.dev) := by
  by_cases hb : (thread s t ts).g r &&& 0xC0000000 = 0
  · refine ⟨(thread s t ts).g r, s.dev, rfl, rfl, fun _ => rfl, liftAt_runThread hi ?_⟩
    unfold thread at hb ⊢
    simp only [hb, if_true]
  · refine ⟨_, s.dev.free.2, rfl, ctx_fields _ s.dev.free.1, fun h => absurd h hb, liftAt_runThread hi ?_⟩
    unfold thread at hb ⊢
    simp only [hb, if_false]

end

/-- Settles O26: CCWAIT and CCTAKE by `ccReached`, CCTAKE and CCSET by `cc_setCc`, SETRC by `setrc_issued`. -/
theorem counterInstructions : Obligations.CounterInstructions := by
  intro s t ts r q n c v
  have hn : bits q.toNat 0 4 = n := rfl
  have hreached : ccReached s.dev t ts r (bits q.toNat 0 4) = decide (v.toNat ≤ c.toNat) := rfl
  have hgo (h : v.toNat ≤ c.toNat) : ccReached s.dev t ts r (bits q.toNat 0 4) = true := hreached.trans (decide_eq_true h)
  have hstay (h : c.toNat < v.toNat) : ¬ ccReached s.dev t ts r (bits q.toNat 0 4) = true := by simpa [hreached] using h
  refine ⟨fun hi => ?_, fun hi => ⟨fun h => ?_, fun h => ?_⟩, fun hi => ⟨fun h => ?_, fun h => ?_⟩,
    fun hi => ?_, fun hi => ?_⟩
  · exact write_issued hi rfl
  · exact skip_issued hi (if_pos (hgo h))
  · exact wait_issued hi (if_neg (hstay h))
  · refine setCc_issued hi ((if_pos (hgo h)).trans ?_)
    rw [BitVec.toNat_sub_of_le (BitVec.le_def.2 h)]
    rfl
  · exact wait_issued hi (if_neg (hstay h))
  · exact setCc_issued hi rfl
  · obtain ⟨k, d, htile, hfields, hwhole, hx⟩ := setrc_issued hi
    refine ⟨_, hx, ?_, ?_, ?_, ?_⟩
    · simpa [htile] using hfields
    · simpa [htile] using hwhole
    · simp [htile]
    · exact onlyAdvances_onSlot (f := fun y => { y with ctx := k }) (by rw [Dev.tile_onTile, htile]) (fun _ _ => rfl) fun _ => rfl

end Sys2Proof.Proofs.Counters
end

section
/-! PROOFS. Sync queues (O23): the rules of a queue's operations, and what SQPUT and SQGET come to. -/

namespace Sys2Proof.Proofs.SyncQueues

open Sys2Proof Sys2Proof.Machine Sys2Proof.Claim Sys2Proof.Proofs.Threads Sys2Proof.Proofs.InstructionEnds

/-! ## Operations of a queue -/

section
variable {p : Pos} {ts q : Nat} {v : Word} {x : Tile}

theorem sqAppend_of_no_waiter (h : (x.sq q).waiters = []) :
    sqAppend p q v x = x.setSq q { x.sq q with
      toks := (x.sq q).toks ++ [v], puts := satInc 0xFFFF (x.sq q).puts 1 } := by
  rw [sqAppend]
  dsimp only
  rw [h]

/-- The head waiter takes the token and goes on (R219). -/
theorem sqAppend_of_waiter {n : Nat} {rd : Reg} {w : List (Nat × Reg)} (h : (x.sq q).waiters = (n, rd) :: w) :
    sqAppend p q v x = (x.setSq q { x.sq q with
      waiters := w, puts := satInc 0xFFFF (x.sq q).puts 1, gets := satInc 0xFFFF (x.sq q).gets 1 }).onSlot n
        fun y => (y.setG rd v).resume p.kind := by
  rw [sqAppend]
  dsimp only
  rw [h]

@[simp] theorem sq_onSlot (n m : Nat) (f : Slot → Slot) : (x.onSlot n f).sq m = x.sq m := rfl

@[simp] theorem slot_setSq (n m : Nat) (k : SQ) : (x.setSq n k).slot m = x.slot m := rfl

@[simp] theorem sq_leavePut : (leavePut ts q x).sq q =
    { x.sq q with putWait := (x.sq q).putWait.filter (· != ts) } := Tile.sq_setSq ..

@[simp] theorem slots_leavePut : (leavePut ts q x).slots = x.slots := rfl

@[simp] theorem slot_leavePut (n : Nat) : (leavePut ts q x).slot n = x.slot n := rfl

@[simp] theorem mem_leavePut : (leavePut ts q x).mem = x.mem := rfl

@[simp] theorem sq_wakePuts : (wakePuts q x).sq q = { x.sq q with putWait := [] } :=
  Tile.sq_setSq x q { x.sq q with putWait := [] }

/-- What a change of a table's values keeps of each, it keeps of the value under a key, or of the default. -/
theorem get_map_eq {α β : Type} {F : α → β} {g : Nat × α → Nat × α} (hkey : ∀ e, (g e).1 = e.1)
    (hval : ∀ e, F (g e).2 = F e.2) (d : α) (m : Tab α) (a : Nat) : F (Tab.get d (m.map g) a) = F (Tab.get d m a) := by
  induction m with
  | nil => rfl
  | cons e r ih =>
    simp only [List.map_cons, Tab.get, hkey]
    split
    · exact hval e
    · exact ih

/-- A thread that waited to put tries its SQPUT again at the same pc (R220). -/
@[simp] theorem pc_slot_wakePuts (n : Nat) : ((wakePuts q x).slot n).pc = (x.slot n).pc := by
  refine get_map_eq (F := Slot.pc) (fun e => ?_) (fun e => ?_) {} x.slots n
  · dsimp only
    split <;> rfl
  · dsimp only
    split
    · split <;> rfl
    · rfl

end

/-! ## What the instructions come to -/

section
variable {s : State} {t : Pos} {ts : Nat} {r : Reg} {q : BitVec 6}

/-- SQPUT in a queue that need not wait and has puts left appends its token (R218, R220, R223). -/
theorem sqput_issued (hi : Issues s t ts (encQ 0x40 0 r 0 0 q)) (hq : q.toNat < kindSqs t.kind)
    (hroom : ¬ (((s.dev.tile t).sq q.toNat).full = true ∧ ((s.dev.tile t).sq q.toNat).waiters.isEmpty = true))
    (hover : ((s.dev.tile t).sq q.toNat).overPut = false) :
    exec (.sqput t ts r q) s = .next (on s fun _ => (Res.done (s.dev.onTile t fun x =>
      sqAppend t q.toNat ((x.slot ts).g r) (leavePut ts q.toNat x))).apply t ts (encQ 0x40 0 r 0 0 q) s.dev) :=
  liftAt_runThread hi ((if_neg hq.not_ge).trans ((if_neg hroom).trans (if_neg (Bool.eq_false_iff.1 hover))))

/-- A put for which no thread waits puts its token last in the queue (R218). -/
theorem sqput_no_waiter (hi : Issues s t ts (encQ 0x40 0 r 0 0 q)) (hq : q.toNat < kindSqs t.kind)
    (hover : ((s.dev.tile t).sq q.toNat).overPut = false) (hnone : ((s.dev.tile t).sq q.toNat).waiters = [])
    (hroom : ((s.dev.tile t).sq q.toNat).full = false) :
    ∃ u, exec (.sqput t ts r q) s = .next u
      ∧ ((u.dev.tile t).sq q.toNat).toks = ((s.dev.tile t).sq q.toNat).toks ++ [(thread s t ts).g r]
      ∧ ((u.dev.tile t).sq q.toNat).puts = min 0xFFFF (((s.dev.tile t).sq q.toNat).puts + 1)
      ∧ (u.dev.tile t).mem = (s.dev.tile t).mem ∧ Claim.OnlyAdvances s u t ts := by
  have happend : ∀ v, sqAppend t q.toNat v (leavePut ts q.toNat (s.dev.tile t)) = _ :=
    fun v => sqAppend_of_no_waiter (by rw [sq_leavePut]; exact hnone)
  refine ⟨_, sqput_issued hi hq (by simp [hroom]) hover, ?_, ?_, ?_, onlyAdvances_done ?_⟩
  · simp [happend, thread]
  · simp [happend, satInc]
  · simp [happend]
  · simp [happend]

/-- A put for which threads wait hands its token to the head waiter, which goes on, as the issuer does (R219). -/
theorem sqput_waiter {n : Nat} {rd : Reg} {w : List (Nat × Reg)} (hi : Issues s t ts (encQ 0x40 0 r 0 0 q))
    (hq : q.toNat < kindSqs t.kind) (hover : ((s.dev.tile t).sq q.toNat).overPut = false)
    (hhead : ((s.dev.tile t).sq q.toNat).waiters = (n, rd) :: w) (hn : n ≠ ts) :
    ∃ u, exec (.sqput t ts r q) s = .next u ∧ ((u.dev.tile t).sq q.toNat).toks = ((s.dev.tile t).sq q.toNat).toks
      ∧ ((u.dev.tile t).sq q.toNat).waiters = w
      ∧ (thread u t n).g rd = (if rd.val = 0 then 0 else (thread s t ts).g r)
      ∧ (thread u t n).st = .running ∧ (thread u t n).pc = nextPc t.kind (thread s t n).pc
      ∧ (thread u t ts).pc = pcPlus s t ts 1 := by
  have happend : ∀ v, sqAppend t q.toNat v (leavePut ts q.toNat (s.dev.tile t)) = _ :=
    fun v => sqAppend_of_waiter (by rw [sq_leavePut]; exact hhead)
  refine ⟨_, sqput_issued hi hq (by simp [hhead]) hover, ?_, ?_, ?_, ?_, ?_, ?_⟩
  · simp [happend]
  · simp [happend]
  · rw [thread_apply_done_ne hn]
    simp [happend, Slot.g_setG, thread]
  · rw [thread_apply_done_ne hn]
    simp [happend]
  · rw [thread_apply_done_ne hn]
    simp [happend, thread]
  · simp [happend, Tile.slot_onSlot_ne _ _ hn.symm, pcPlus_one, thread]

/-- A put to a full queue for which no thread waits is tried again at the same pc (R220). -/
theorem sqput_full (hi : Issues s t ts (encQ 0x40 0 r 0 0 q)) (hq : q.toNat < kindSqs t.kind)
    (hnone : ((s.dev.tile t).sq q.toNat).waiters = []) (hfull : ((s.dev.tile t).sq q.toNat).full = true) :
    ∃ u, exec (.sqput t ts r q) s = .next u ∧ ((u.dev.tile t).sq q.toNat).toks = ((s.dev.tile t).sq q.toNat).toks
      ∧ (thread u t ts).wait = some (.retry 6 (encQ 0x40 0 r 0 0 q)) ∧ (thread u t ts).pc = (thread s t ts).pc := by
  have hwait : ((s.dev.tile t).sq q.toNat).full = true ∧ ((s.dev.tile t).sq q.toNat).waiters.isEmpty = true := by
    simp [hfull, hnone]
  refine ⟨_, liftAt_runThread hi ((if_neg hq.not_ge).trans (if_pos hwait)), ?_, ?_, ?_⟩
  · simp [on, Res.apply]
  · simp [on, Res.apply, thread, Slot.retry]
  · simp [on, Res.apply, thread]

/-- A get from a queue with tokens takes the oldest (R218). -/
theorem sqget_token {v : Word} {w : List Word} (hi : Issues s t ts (encQ 0x41 r 0 0 0 q)) (hq : q.toNat < kindSqs t.kind)
    (hover : ((s.dev.tile t).sq q.toNat).overGet = false) (htoks : ((s.dev.tile t).sq q.toNat).toks = v :: w) :
    ∃ u, exec (.sqget t ts r q) s = .next u ∧ ((u.dev.tile t).sq q.toNat).toks = w
      ∧ ((u.dev.tile t).sq q.toNat).gets = min 0xFFFF (((s.dev.tile t).sq q.toNat).gets + 1)
      ∧ (thread u t ts).g r = (if r.val = 0 then 0 else v) ∧ (thread u t ts).pc = pcPlus s t ts 1 := by
  refine ⟨_, liftAt_runThread hi (r := .done (s.dev.onTile t fun x =>
      (wakePuts q.toNat (x.setSq q.toNat { x.sq q.toNat with toks := w, gets := satInc 0xFFFF (x.sq q.toNat).gets 1 })).onSlot ts
        fun y => y.setG r v)) ?_, ?_, ?_, ?_, ?_⟩
  · refine (if_neg hq.not_ge).trans ((if_neg (Bool.eq_false_iff.1 hover)).trans ?_)
    rw [htoks]
    rfl
  · simp
  · simp [satInc]
  · simp [Slot.g_setG]
  · simp [pcPlus_one, thread]

/-- A get from an empty queue waits behind the earlier waiters (R219). -/
theorem sqget_empty (hi : Issues s t ts (encQ 0x41 r 0 0 0 q)) (hq : q.toNat < kindSqs t.kind)
    (hover : ((s.dev.tile t).sq q.toNat).overGet = false) (htoks : ((s.dev.tile t).sq q.toNat).toks = []) :
    ∃ u, exec (.sqget t ts r q) s = .next u
      ∧ ((u.dev.tile t).sq q.toNat).waiters = ((s.dev.tile t).sq q.toNat).waiters ++ [(ts, r)]
      ∧ (thread u t ts).wait = some (.sqHead q.toNat r) ∧ (thread u t ts).pc = (thread s t ts).pc := by
  refine ⟨_, stay_issued hi (g := fun x => (x.setSq q.toNat { x.sq q.toNat with
      toks := [], waiters := (x.sq q.toNat).waiters ++ [(ts, r)] }).onSlot ts
        fun y => { y with st := .waiting, wait := some (.sqHead q.toNat r) }) ?_, ?_, ?_, ?_⟩
  · refine (if_neg hq.not_ge).trans ((if_neg (Bool.eq_false_iff.1 hover)).trans ?_)
    rw [htoks]
    rfl
  · simp [on]
  · simp [on, thread]
  · simp [on, thread]

end

/-- Settles O23: one lemma for each way in which a put or a get ends; a count is a register write, and the last two clauses are
the counts of R223. -/
theorem syncQueueInstructions : Obligations.SyncQueueInstructions := by
  intro s t ts r q hq k
  refine ⟨fun hi hover => ⟨sqput_no_waiter hi hq hover, fun n rd w => sqput_waiter hi hq hover, sqput_full hi hq⟩,
    fun hi hover => ⟨fun v w => sqget_token hi hq hover, sqget_empty hi hq hover⟩,
    fun hi => write_issued hi (if_neg hq.not_ge), fun hi hover hgo => ?_, fun hi hover => ?_⟩
  · have hroom : ¬ (k.full = true ∧ k.waiters.isEmpty = true) := by
      rcases hgo with h | h <;> simp [h]
    exact fault_issued hi ((if_neg hq.not_ge).trans ((if_neg hroom).trans (if_pos hover)))
  · exact fault_issued hi ((if_neg hq.not_ge).trans (if_pos hover))

end Sys2Proof.Proofs.SyncQueues
end

section
/-! PROOFS. The tether's window, brim supplies, heat of a stack, the test access port (O60). -/

namespace Sys2Proof.Proofs.BrimAndTestPort

open Sys2Proof Sys2Proof.Machine Sys2Proof.Claim

/-! ## The tether's window (R402, R447) -/

theorem windowWrite_of_open {d : Dev} {a : Nat} (hopen : windowOpen d = true) (hbit : bit a 47 = false) (bs : List Byte) :
    windowWrite a bs d = { d with brim := d.brim.hbmWrite a bs } := if_pos (by simp [hopen, hbit])

theorem windowWrite_of_closed {d : Dev} (hopen : windowOpen d = false) (a : Nat) (bs : List Byte) :
    windowWrite a bs d = d := if_neg (by simp [hopen])

/-- A read of HBM whose range holds no lost line gives its bytes (R276, R402). -/
theorem windowRead_of_open {d : Dev} {a n : Nat} (hopen : windowOpen d = true) (hbit : bit a 47 = false)
    (hsound : poisonedIn d a n = false) : windowRead a n d = (d.brim.hbmRead a n, d) := by
  simp [windowRead, hopen, hbit, hsound]

theorem windowRead_of_closed {d : Dev} (hopen : windowOpen d = false) (a n : Nat) :
    windowRead a n d = (List.replicate n 0xFF, d) := if_pos (by simp [hopen])

section
variable {s : State} {port len : Nat} (hlo : 48 ≤ port) (hhi : port < 50) (hup : (s.dev.link port).st = .up)
  (h4 : 4 ≤ len) (h256 : len ≤ 256) (hmul : len % 4 = 0)
include hlo hhi hup h4 h256 hmul

/-- A request of R447 on a tether port that is up is taken. -/
theorem memReq_taken (tag addr : Nat) (write : Bool) (bs : List Byte) :
    exec (.memReq port tag write addr len bs) s = .next (on s fun d =>
      if write then windowWrite addr (padTo len bs) d
      else (windowRead addr len d).2.emit (.memResp port tag (windowRead addr len d).1)) := by
  refine (liftAt_ok _ s (decide_eq_true hhi)).trans ?_
  have htaken : ¬ (port < 48 ∨ (s.dev.link port).st ≠ .up ∨ len < 4 ∨ 256 < len ∨ len % 4 ≠ 0) := by
    simp only [hup, ne_eq, not_true_eq_false, false_or]
    omega
  simp only [on, if_neg htaken]

theorem memReq_write (tag addr : Nat) (bs : List Byte) :
    exec (.memReq port tag true addr len bs) s = .next (on s (windowWrite addr (padTo len bs))) :=
  memReq_taken hlo hhi hup h4 h256 hmul tag addr true bs

theorem memReq_read {addr : Nat} {out : List Byte} (hread : windowRead addr len s.dev = (out, s.dev)) (tag : Nat)
    (bs : List Byte) : exec (.memReq port tag false addr len bs) s = .next (on s (Dev.emit (.memResp port tag out))) := by
  rw [memReq_taken hlo hhi hup h4 h256 hmul]
  simp [on, hread]

end

/-! ## Brim supplies (R457) -/

/-- A job that runs after the stop of a slot ran before it, in another slot (R235). -/
theorem running_of_stopJob {k code : Nat} {c : RC} {step : Nat} {b : Bool} {d : Dev} {j : Job}
    (hj : j ∈ (stopJob k code c step b d).jobs) (hrun : j.st = .running) : j ∈ d.jobs ∧ j.slot ≠ k := by
  rcases stopJob_does k code c step b d with ⟨hrep, hnone⟩ | hrep
  · rw [hrep.jobs] at hj
    exact ⟨hj, by simpa using List.find?_eq_none.1 hnone j hj⟩
  · rw [hrep.jobs, Dev.onJob_jobs, List.mem_map] at hj
    obtain ⟨i, hi, rfl⟩ := hj
    split at hrun
    · simp [Job.stopped] at hrun
    · next hslot => simpa [hslot] using hi

/-- A job that runs after the stops of several jobs ran before them, in none of their slots. -/
theorem running_of_stopJobs {code : Nat} {c : RC} {step : Nat} {b : Bool} {j : Job} {l : List Job} {d : Dev}
    (hj : j ∈ (d.each l fun x => stopJob x.slot code c step b).jobs) (hrun : j.st = .running) :
    j ∈ d.jobs ∧ ∀ x ∈ l, j.slot ≠ x.slot := by
  induction l generalizing d with
  | nil => exact ⟨hj, by simp⟩
  | cons x l ih =>
    obtain ⟨hmem, hrest⟩ := ih hj
    obtain ⟨hold, hx⟩ := running_of_stopJob hmem hrun
    exact ⟨hold, by simpa [hx] using hrest⟩

theorem hbm_stopJobs (code : Nat) (c : RC) (step : Nat) (b : Bool) (l : List Job) (d : Dev) :
    (d.each l fun x => stopJob x.slot code c step b).brim.hbm = d.brim.hbm := by
  induction l generalizing d with
  | nil => rfl
  | cons x l ih => exact (ih _).trans (stopJob_hbm ..)

/-- The stops reach the slot of every running job, so that none runs on. -/
theorem not_running_endWork (d : Dev) : ∀ j ∈ (endWork d).jobs, j.st ≠ .running := by
  intro j hj hrun
  obtain ⟨hold, hslots⟩ := running_of_stopJobs hj hrun
  exact hslots j (List.mem_filter.2 ⟨hold, by simp [hrun]⟩) rfl

theorem endWork_hbm (d : Dev) : (endWork d).brim.hbm = d.brim.hbm := hbm_stopJobs ..

/-- The stacks of a side without their supply: their data is gone. -/
def hbmSideLost (side : Nat) (d : Dev) : Dev :=
  { d with
    mod := { d.mod with hbmSides := (side :: d.mod.hbmSides).eraseDups }
    brim := { d.brim with
      hbm := d.brim.hbm.filter (fun c => stackSide (c.1 / 2 ^ 37) != side)
      poisoned := d.brim.poisoned.filter (fun l => stackSide (l * 64 / 2 ^ 37) != side) } }

/-- The ports of a side without their supply: their links are dark. -/
def opticalSideLost (side : Nat) (d : Dev) : Dev :=
  { d with
    mod := { d.mod with optSides := (side :: d.mod.optSides).eraseDups }
    brim := { d.brim with links := d.brim.links.map (fun x => if portSideOf x.1 = side then (x.1, {}) else x) } }

/-- In Idle and Active a supply fault ends the work of all jobs, then its side is lost. -/
theorem supplyFault_eq {s : State} {side : Nat} (hside : side < 4) (hst : s.dev.mod.st = .idle ∨ s.dev.mod.st = .active)
    (optical : Bool) : exec (.hbmOrOpticalSupplyFault side optical) s = .next (on s fun d =>
      if optical then opticalSideLost side (endWork d) else hbmSideLost side (endWork d)) := by
  refine (liftAt_ok _ s (decide_eq_true hside)).trans ?_
  rcases hst with hst | hst <;> simp only [hst] <;> rfl

theorem stackSide_of_mem_hbmSideLost {side : Nat} {d : Dev} {c : Nat × Byte} (hc : c ∈ (hbmSideLost side d).brim.hbm) :
    stackSide (c.1 / 2 ^ 37) ≠ side := by
  simpa using (List.mem_filter.1 hc).2

theorem dark_of_mem_opticalSideLost {side : Nat} {d : Dev} {x : Nat × Link} (hx : x ∈ (opticalSideLost side d).brim.links)
    (hside : portSideOf x.1 = side) : x.2.st = .dark := by
  obtain ⟨y, -, rfl⟩ := List.mem_map.1 hx
  split at hside
  · next h => rw [if_pos h]
  · next h => exact absurd hside h

/-! ## Heat of a stack (R275) -/

/-- A stack that reports is listed as hot exactly when it reports above 85 °C. -/
theorem stackReports_hot {s : State} {stack : Nat} (hstack : stack < 24) (above : Bool) :
    ∃ u, exec (.stackReportsAbove85C stack above) s = .next u ∧ u.dev.brim.hot.contains stack = above := by
  refine ⟨_, liftAt_ok _ s (decide_eq_true hstack), ?_⟩
  cases above <;> simp

/-! ## The test access port (R464) -/

theorem tapOn_of_parked {d : Dev} (hst : d.mod.st = .parked) (hmode : d.mod.inForce.jtagMode = 2) : tapOn d = true := by
  simp [tapOn, hst, hmode]

theorem tapInstruction_off {s : State} (h : tapOn s.dev = false) (i : TapInsn) : exec (.tapInstruction i) s = .next s :=
  if_pos (by simp [h])

/-- An instruction that the port takes stands in its register; IDCODE shifts out the code. -/
theorem tapInstruction_takes {s : State} {i e : TapInsn} (hon : tapOn s.dev = true) (he : tapEffect s.dev i = e)
    (hne : e ≠ .brimDebug) : exec (.tapInstruction i) s = .next (on s fun d =>
      let d : Dev := { d with mod := { d.mod with tap := e } }
      if e = .idcode then d.emit (.tdo 0xB2304A6D) else d) := by
  subst he
  exact (if_neg (by simp [hon])).trans (if_neg hne)

/-- An accepted brim debug instruction stops the model: its effect stands in the service documentation alone. -/
theorem tapInstruction_brimDebug {s : State} (hst : s.dev.mod.st = .parked) (hmode : s.dev.mod.inForce.jtagMode = 2) :
    exec (.tapInstruction .brimDebug) s = .refused .serviceDocumentation :=
  (if_neg (by simp [tapOn_of_parked hst hmode])).trans (if_pos (by simp [tapEffect, hst, hmode]))

theorem tapEffect_idcode {d : Dev} (h : d.mod.st = .active ∨ d.mod.st = .idle ∨ d.mod.st = .parked) :
    tapEffect d .idcode = .idcode := if_pos (by simpa [or_assoc] using h)

/-- EXTEST outside Parked acts as BYPASS. -/
theorem tapEffect_extest {d : Dev} (h : d.mod.st ≠ .parked) : tapEffect d .extest = .bypass := if_neg h

/-- Settles O60, from the rule of each of the four commands. Which side a stack or a port is on, and the free code that the
jobs of a supply fault keep, are logs 161 and 32. -/
theorem windowSuppliesAndTestPort : Obligations.WindowSuppliesAndTestPort := by
  refine ⟨fun s port tag addr len bs hlo hhi hup h4 h256 hmul =>
      ⟨fun hopen hbit => ?_, fun hopen hbit hsound => ?_, fun hopen => ⟨?_, ?_⟩⟩,
    fun s side optical hside hst => ⟨_, supplyFault_eq hside hst optical, ?_⟩,
    fun s stack hstack => ⟨stackReports_hot hstack true, stackReports_hot hstack false⟩,
    fun s => ⟨fun i h => tapInstruction_off h i, fun hon hst => tapInstruction_takes hon (tapEffect_idcode hst) nofun,
      fun hon hst => tapInstruction_takes hon (tapEffect_extest hst) nofun, tapInstruction_brimDebug⟩⟩
  · rw [memReq_write hlo hhi hup h4 h256 hmul, on, windowWrite_of_open hopen hbit, on]
  · exact memReq_read hlo hhi hup h4 h256 hmul (windowRead_of_open hopen hbit hsound) tag bs
  · rw [memReq_write hlo hhi hup h4 h256 hmul, on, windowWrite_of_closed hopen]
  · exact memReq_read hlo hhi hup h4 h256 hmul (windowRead_of_closed hopen addr len) tag bs
  · cases optical with
    | false =>
      refine ⟨not_running_endWork s.dev, fun _ => ⟨?_, fun c => stackSide_of_mem_hbmSideLost⟩, nofun⟩
      simp [on, hbmSideLost]
    | true =>
      refine ⟨not_running_endWork s.dev, nofun, fun _ => ⟨?_, endWork_hbm s.dev, fun x => dark_of_mem_opticalSideLost⟩⟩
      simp [on, opticalSideLost]

end Sys2Proof.Proofs.BrimAndTestPort
end

section
/-! PROOFS. The part right after reset (O7). -/

namespace Sys2Proof.Proofs.Reset

open Sys2Proof Sys2Proof.Machine Sys2Proof.Claim

theorem reset_link_dark (n : Nat) : (State.reset.dev.link n).st = .dark := rfl

/-- An unlisted byte of a tile reads 0, and reset lists none (logs 6 and 7). -/
theorem reset_tile_reads_zero (p : Pos) (a : Nat) : (State.reset.dev.tile p).mem.read a = 0 := rfl

/-- An unlisted byte of HBM reads 0, and reset lists none (logs 6 and 7). -/
theorem reset_hbm_reads_zero (a : Nat) : State.reset.dev.brim.hbm.read a = 0 := rfl

/-- A part as shipped programs no generation (log 9). -/
theorem reset_programs : State.reset.boot.Programs := nofun

theorem reset_memWf : State.reset.dev.memWf = true := rfl

/-- Settles O7, from the reset values one by one. That memories read 0 is the choice of logs 6 and 7. -/
theorem resetLeavesAQuietPart : Obligations.ResetLeavesAQuietPart :=
  ⟨rfl, rfl, rfl, rfl, rfl, rfl, rfl, reset_link_dark, reset_tile_reads_zero, reset_hbm_reads_zero, reset_programs,
    reset_memWf⟩

end Sys2Proof.Proofs.Reset
end

section
/-! PROOFS. What the end of a logged command leaves of the module state, and its response (R405, R409). -/

namespace Sys2Proof.Proofs.Responses

open Sys2Proof Sys2Proof.Machine Sys2Proof.Claim

/-! ## The module state -/

/-- Of the module state a change moves management time at most. -/
def MovesTimeOnly (d e : Dev) : Prop := e.mod = { d.mod with mgmtTime := e.mod.mgmtTime }

namespace MovesTimeOnly

theorem trans {d e f : Dev} (h : MovesTimeOnly d e) (k : MovesTimeOnly e f) : MovesTimeOnly d f := by
  unfold MovesTimeOnly at *
  rw [k, h]

theorem st {d e : Dev} (h : MovesTimeOnly d e) : e.mod.st = d.mod.st := by rw [h]
theorem move {d e : Dev} (h : MovesTimeOnly d e) : e.mod.move = d.mod.move := by rw [h]

theorem ringPut (r : LogRec) (d : Dev) : MovesTimeOnly d (ringPut r d) := by
  rw [Machine.ringPut]
  dsimp only
  split
  · rfl
  · split <;> rfl

theorem pushOut (r : LogRec) (d : Dev) : MovesTimeOnly d (pushOut r d) := by
  have h : ∀ (l : List Session) (f : Session → Emit) (e : Dev), (e.each l fun s d => d.emit (f s)).mod = e.mod := by
    intro l f
    induction l with
    | nil => exact fun _ => rfl
    | cons x l ih => exact fun e => ih (e.emit (f x))
  rw [MovesTimeOnly, Machine.pushOut, h]

theorem appendLog (code origin : Nat) (stopped : Bool) (job loc detail count : Nat) (d : Dev) :
    MovesTimeOnly d (appendLog code origin stopped job loc detail count d) :=
  .trans (e := { d.stamp with host := _ }) rfl ((ringPut ..).trans (pushOut ..))

theorem respond (r : Req) (opcode flags status refusal logSeq : Nat) (payload : List Byte) (d : Dev) :
    MovesTimeOnly d (respond r opcode flags status refusal logSeq payload d) := by
  rw [Machine.respond]
  dsimp only
  split <;> rfl

theorem cmdRecord (origin opcode status refusal job : Nat) (d : Dev) :
    MovesTimeOnly d (cmdRecord origin opcode status refusal job d) := by
  rw [Machine.cmdRecord]
  split
  · rfl
  · exact appendLog ..

theorem finishCmd (r : Req) (opcode status refusal : Nat) (payload : List Byte) (d : Dev) :
    MovesTimeOnly d (finishCmd r opcode status refusal payload d) :=
  (cmdRecord ..).trans (respond ..)

end MovesTimeOnly

/-! ## The response -/

/-- A response has been sent once its command has answered. -/
theorem responded_of_respond {u : State} {r : Req} {opcode flags status refusal logSeq : Nat} {payload : List Byte} {d : Dev}
    (hu : u.dev = respond r opcode flags status refusal logSeq payload d) : Claim.Responded u r opcode status refusal payload := by
  rw [Claim.Responded, hu, respond]
  dsimp only
  split <;> exact ⟨_, _, _, List.mem_append_right _ (List.mem_singleton.2 rfl)⟩

theorem responded_of_finishCmd {u : State} {r : Req} {opcode status refusal : Nat} {payload : List Byte} {d : Dev}
    (hu : u.dev = finishCmd r opcode status refusal payload d) : Claim.Responded u r opcode status refusal payload :=
  responded_of_respond hu

/-! ## Admission -/

/-- A request that reads or writes fuses and flash runs once it is admitted. -/
theorem requestBoot_of_entered {r : Req} {op : Nat} {logged : Bool} {d e : Dev} (h : entered r op logged d = .ok e)
    (run : Boot → Dev → Boot × Dev) (b : Boot) : requestBoot r op logged run b d = run b e := by
  rw [requestBoot, h]

theorem readRequest_mod {r : Req} {d e : Dev} (h : readRequest r d = some e) : e.mod = d.mod := by
  rw [readRequest] at h
  split at h
  · cases h
  · split at h
    · split at h <;> cases h
      rfl
    · cases h
      rfl

/-- An admitted request has not touched the module state (R404-R411). -/
theorem entered_mod {r : Req} {op : Nat} {logged : Bool} {d e : Dev} (h : entered r op logged d = .ok e) : e.mod = d.mod := by
  rw [entered] at h
  split at h
  · cases h
  · next hread =>
    split at h
    · cases h
    · dsimp only at h
      split at h <;> cases h
      exact (Dev.onSession_mod ..).trans (readRequest_mod hread)

end Sys2Proof.Proofs.Responses
end

section
/-! PROOFS. Power states and their transitions (O55). -/

namespace Sys2Proof.Proofs.PowerStates

open Sys2Proof Sys2Proof.Machine Sys2Proof.Claim Sys2Proof.Proofs.Responses

/-! ## Programming cut short (R375, R376) -/

theorem slotAt_setSlot_self (b : Boot) (k n : Nat) (x : OtpSlot) : (b.setSlot k n x).slotAt k n = x := by
  simp [Boot.slotAt, Boot.setSlot]

/-- The slot of a generation that was being programmed holds it without the seal. -/
theorem slotAt_cutShort {b : Boot} {k n : Nat} {c : OtpContent} {r : Option Req} (h : b.programming = some (k, n, c, r)) :
    b.cutShort.slotAt k n = { OtpSlot.made k n c with sealWord := 0 } := by
  simp only [Boot.cutShort, h]
  exact slotAt_setSlot_self ..

theorem cutShort_programming (b : Boot) : b.cutShort.programming = none := by
  rw [Boot.cutShort]
  dsimp only
  split
  · rfl
  · next h => exact h

/-- A generation without its seal is spent: its slot is neither blank nor valid. -/
theorem unsealed_spent {k : Nat} (hk : 1 ≤ k) (n : Nat) (c : OtpContent) :
    ({ OtpSlot.made k n c with sealWord := 0 } : OtpSlot).isBlank = false
      ∧ ({ OtpSlot.made k n c with sealWord := 0 } : OtpSlot).valid k n = false := by
  have hkind : k ≠ 0 := by omega
  exact ⟨by simp [OtpSlot.isBlank, OtpSlot.made, hkind], by simp [OtpSlot.valid, otpSeal]⟩

/-! ## Powering down (R368, R458) -/

/-- A part powered down, with the module state that its standby domain keeps. -/
def poweredDown (s : State) (m : Module) : State := { s with boot := s.boot.cutShort, dev := { s.dev.dark with mod := m } }

/-- Whatever the standby domain keeps, a part powered down is dark. -/
theorem poweredDown_dark (s : State) (m : Module) : Claim.Dark s (poweredDown s m) := by
  refine ⟨rfl, rfl, rfl, rfl, rfl, rfl, rfl, cutShort_programming _, fun k n c r hprog hk => ?_⟩
  rw [poweredDown, slotAt_cutShort hprog]
  exact unsealed_spent hk n c

theorem undervoltage_eq {s : State} (hon : s.dev.mod.standbyOn = true) : exec .undervoltage s =
    .next (poweredDown s { s.dev.dark.mod with cause := 0x0707, qualified := false, inputLow := true }) := by
  simp only [exec, execUndervoltage, liftBoot, hon, if_true]
  rfl

theorem coolingEmergency_eq {s : State} (hon : s.dev.mod.standbyOn = true) : liftBoot coolingEmergency s =
    .next (poweredDown s { s.dev.dark.mod with cause := 0x0706, needWake := true }) := by
  simp only [coolingEmergency, liftBoot, hon, if_true]
  rfl

theorem standbyDomainStop_eq (s : State) : exec .standbyDomainStop s = .next (poweredDown s { s.dev.dark.mod with
    st := .off, standbyOn := false, qualified := false, inputLow := false, mgmtTime := 0, shortSet := [] }) := rfl

theorem standbyEntry_eq {s : State} (hmove : s.dev.mod.move = .toStandby) :
    exec .standbyEntry s = .next (poweredDown s s.dev.dark.mod) := by
  simp only [exec, execStandbyEntry, liftBoot, hmove, if_true]
  rfl

theorem standbyEntry_other {s : State} (hmove : s.dev.mod.move ≠ .toStandby) : exec .standbyEntry s = .next s := by
  simp only [exec, execStandbyEntry, liftBoot, if_neg hmove]

/-! ## The input, WAKE_N and the conditions of a start (R370, R454, R459) -/

theorem inputApplied_off {s : State} (hoff : s.dev.mod.standbyOn = false) :
    exec .inputApplied s = .next (on s fun d => { d with mod := { d.mod with
      st := .standby, standbyOn := true, qualified := false, inputLow := true, mgmtTime := 0 } }) := by
  simp [exec, execInputApplied, lift, on, hoff]

theorem inputApplied_on {s : State} (hon : s.dev.mod.standbyOn = true) : exec .inputApplied s = .next s := by
  simp [exec, execInputApplied, lift, hon]

theorem inputQualified_on {s : State} (hon : s.dev.mod.standbyOn = true) :
    exec .inputQualified s = .next (on s fun d => { d with mod := { d.mod with
      qualified := true, inputLow := false
      heldStart := d.mod.heldStart || (d.mod.st == .standby && d.mod.inputLow && !d.mod.needWake && s.boot.autoStart) } }) := by
  simp [exec, execInputQualified, liftBoot, on, hon]

theorem wakeN_standby {s : State} (hst : s.dev.mod.st = .standby) :
    exec .wakeN s = .next (on s fun d => { d with mod := { d.mod with heldStart := true, needWake := false } }) := by
  simp [exec, execWakeN, lift, on, hst]

theorem wakeN_other {s : State} (hst : s.dev.mod.st ≠ .standby) : exec .wakeN s = .next s := by
  simp [exec, execWakeN, lift, hst]

theorem startConditionsMet_held {s : State} (hst : s.dev.mod.st = .standby) (hheld : s.dev.mod.heldStart = true)
    (hqual : s.dev.mod.qualified = true) : exec .startConditionsMet s = .next (on s fun d => { d with mod := { d.mod with
      st := .starting, order := 1, heldStart := false } }) := by
  simp [exec, execStartConditionsMet, lift, on, hst, hheld, hqual]

/-! ## The end of a transition (R367) -/

/-- What a change makes of any field, it makes of each field of the list it runs over. -/
theorem field_each_onField {P : Field → Prop} {g : Field → Field} (hg : ∀ x, P (g x)) {f : Nat} (l : List Nat) (d : Dev)
    (h : f ∈ l ∨ P (d.energy.fields.get {} f)) : P ((d.each l fun k d => d.onField k g).energy.fields.get {} f) := by
  induction l generalizing d with
  | nil => exact h.resolve_left List.not_mem_nil
  | cons k l ih =>
    refine ih (d.onField k g) ?_
    by_cases hk : f = k
    · subst hk
      exact .inr (by simpa [Dev.onField] using hg _)
    · rcases h with h | h
      · exact .inl (List.mem_of_ne_of_mem hk h)
      · exact .inr (by simpa [Dev.onField, Tab.get_set_ne _ _ _ hk] using h)

theorem fieldsOff_field (d : Dev) {f : Nat} (hf : f < 48) :
    ((fieldsOff d).energy.fields.get {} f).powered = false ∧ ((fieldsOff d).energy.fields.get {} f).volt = 0 :=
  field_each_onField (P := fun x => x.powered = false ∧ x.volt = 0) (fun _ => ⟨rfl, rfl⟩) allFields d
    (.inl (List.mem_range.2 hf))

/-- Changes of fields leave everything but the energy side. -/
theorem each_onField_eq (g : Field → Field) (l : List Nat) (d : Dev) :
    d.each l (fun k d => d.onField k g) = { d with energy := (d.each l fun k d => d.onField k g).energy } := by
  induction l generalizing d with
  | nil => rfl
  | cons k l ih => exact ih (d.onField k g)

theorem fieldsOff_eq (d : Dev) : fieldsOff d = { d with energy := (fieldsOff d).energy } := each_onField_eq ..
theorem fieldsOff_wafer (d : Dev) : (fieldsOff d).wafer = d.wafer := by rw [fieldsOff_eq]
theorem fieldsOff_mod (d : Dev) : (fieldsOff d).mod = d.mod := by rw [fieldsOff_eq]

/-- The device with its transition over. -/
def moveEnded (d : Dev) : Dev := { d with mod := { d.mod with move := .none, moveReq := none } }

theorem endMove_of_some {d : Dev} {r : Req} (hreq : d.mod.moveReq = some r) (state : Nat) :
    endMove state d = finishCmd r 0x30 stOK 0 (le 1 state) (moveEnded d) := by
  simp only [endMove, hreq, moveEnded]

theorem endMove_of_none {d : Dev} (hreq : d.mod.moveReq = none) (state : Nat) : endMove state d = moveEnded d := by
  simp only [endMove, hreq, moveEnded]

theorem endMove_reports (state : Nat) (d : Dev) : Reports d (endMove state d) := by
  cases hreq : d.mod.moveReq with
  | none => rw [endMove_of_none hreq]; rfl
  | some r => rw [endMove_of_some hreq]; exact .trans (e := moveEnded d) rfl (.finishCmd ..)

theorem endMove_move (state : Nat) (d : Dev) : (endMove state d).mod.move = .none := by
  cases hreq : d.mod.moveReq with
  | none => rw [endMove_of_none hreq]; rfl
  | some r => rw [endMove_of_some hreq]; exact (MovesTimeOnly.finishCmd ..).move

/-- The request of a commanded transition is answered at its end (log 136). -/
theorem responded_of_endMove {u : State} {d : Dev} {state : Nat} {r : Req} (hu : u.dev = endMove state d)
    (hreq : d.mod.moveReq = some r) : Claim.Responded u r 0x30 stOK 0 (le 1 state) :=
  responded_of_finishCmd (hu.trans (endMove_of_some hreq state))

theorem powerTransitionDone_toParked {s : State} (hmove : s.dev.mod.move = .toParked) :
    exec .powerTransitionDone s = .next (on s fun d => endMove 2 (fieldsOff { d with wafer := {} })) := by
  simp only [exec, execPowerTransitionDone, lift, on, hmove]

theorem powerTransitionDone_toIdle {s : State} (hmove : s.dev.mod.move = .toIdle) (hst : s.dev.mod.st = .idle) :
    exec .powerTransitionDone s = .next (on s (endMove 1)) := by
  simp only [exec, execPowerTransitionDone, lift, on, hmove, hst]

/-! ## POWER_STATE (R366, R367, R417) -/

section
variable {s : State} {r : Req} {d : Dev} (hadm : Claim.Admitted s r 0x30 true d) (hmoving : moving d = false)
include hadm hmoving

/-- With no work on the wafer the state is Parked at acceptance; the answer comes at the end (log 136). -/
theorem powerState_parks (hst : d.mod.st ≠ .parked) (hwork : d.jobs.any Job.onWafer = false) :
    exec (.powerState r 2) s = .next { s with dev := { d with
      mod := { d.mod with st := .parked, move := .toParked, moveReq := some r }
      map := { d.map with testing := [], retest := [] } } } := by
  obtain ⟨hbox, hent⟩ := hadm
  -- `hst` rules out the arm of Parked; `simp` finds it in the context.
  simp only [exec, execPowerState, hbox, liftBoot, requestBoot_of_entered hent, hmoving, hwork]
  rfl

/-- Work on the wafer refuses Parked. -/
theorem powerState_refuses_park (hst : d.mod.st ≠ .parked) (hwork : d.jobs.any Job.onWafer = true) :
    exec (.powerState r 2) s = .next { s with dev := finishCmd r 0x30 stNotPermitted 0 [] d } := by
  obtain ⟨hbox, hent⟩ := hadm
  -- `hst` rules out the arm of Parked; `simp` finds it in the context.
  simp only [exec, execPowerState, hbox, liftBoot, requestBoot_of_entered hent, hmoving, hwork]
  rfl

/-- A start from Parked begins at order 4 (R367). -/
theorem powerState_starts (hst : d.mod.st = .parked) (hstacks : d.mod.failedStacks = []) :
    exec (.powerState r 1) s = .next { s with dev := { d with
      mod := { d.mod with st := .starting, order := 4, waves := 0, fromParked := true, move := .toIdle, moveReq := some r }
      map := mapAtStart s.boot d.map d.mod.shortSet } } := by
  obtain ⟨hbox, hent⟩ := hadm
  simp only [exec, execPowerState, hbox, liftBoot, requestBoot_of_entered hent, hmoving, hst, hstacks]
  rfl

/-- Standby is answered before it is entered (R417). -/
theorem powerState_leaves (hst : d.mod.st = .parked) (hjobs : d.jobs = []) :
    exec (.powerState r 3) s = .next { s with
      dev := finishCmd r 0x30 stOK 0 (le 1 3) { d with mod := { d.mod with move := .toStandby } } } := by
  obtain ⟨hbox, hent⟩ := hadm
  simp only [exec, execPowerState, hbox, liftBoot, requestBoot_of_entered hent, hmoving, hst, hjobs]
  rfl

end

/-- Settles O55, from the rule of each command. That the state reads Parked at acceptance of POWER_STATE, which is answered
at the end of the transition, is log 136. -/
theorem powerStatesChange : Obligations.PowerStatesChange := by
  refine fun s => ⟨inputApplied_off, inputApplied_on, inputQualified_on, wakeN_standby, wakeN_other, startConditionsMet_held,
    fun hon => ⟨⟨_, undervoltage_eq hon, poweredDown_dark .., rfl, rfl, rfl, rfl⟩,
      ⟨_, coolingEmergency_eq hon, poweredDown_dark .., rfl, rfl, rfl⟩,
      ⟨_, coolingEmergency_eq hon, poweredDown_dark .., rfl, rfl, rfl⟩⟩,
    ⟨_, standbyDomainStop_eq s, poweredDown_dark .., rfl, rfl, rfl, rfl, rfl⟩,
    fun hmove => ⟨_, standbyEntry_eq hmove, poweredDown_dark .., rfl, rfl⟩, standbyEntry_other,
    fun hmove => ⟨_, powerTransitionDone_toParked hmove, endMove_move .., ?tiles, ?fields, fun r hreq => ?answer⟩,
    fun hmove hst => ⟨_, powerTransitionDone_toIdle hmove hst, endMove_move .., (endMove_reports ..).wafer,
      fun r hreq => responded_of_endMove rfl hreq⟩,
    fun r d hadm hmoving => ⟨fun hst hwork => ⟨_, powerState_parks hadm hmoving hst hwork, rfl, rfl, rfl⟩,
      fun hst hwork => ⟨_, powerState_refuses_park hadm hmoving hst hwork, ?state, responded_of_finishCmd rfl⟩,
      fun hst hstacks => ⟨_, powerState_starts hadm hmoving hst hstacks, rfl, rfl, rfl, rfl⟩,
      fun hst hjobs => ⟨_, powerState_leaves hadm hmoving hst hjobs, (MovesTimeOnly.finishCmd ..).move,
        responded_of_finishCmd rfl⟩⟩⟩
  case tiles => exact congrArg Wafer.tiles ((endMove_reports ..).wafer.trans (fieldsOff_wafer _))
  case fields =>
    intro f hf
    rw [Claim.field, on, (endMove_reports ..).energy]
    exact fieldsOff_field _ hf
  case answer => exact responded_of_endMove rfl ((congrArg Module.moveReq (fieldsOff_mod _)).trans hreq)
  case state => exact (MovesTimeOnly.finishCmd ..).st.trans (congrArg Module.st (entered_mod hadm.2))

end Sys2Proof.Proofs.PowerStates
end

section
/-! PROOFS. Fuses and flash: which commands leave them alone (O3), and what the others make of the generations (O4, O5). A
command does to the generations one or more of four things, `FuseMove`; the invariants are proved of these. -/

namespace Sys2Proof.Proofs.Fuses

open Sys2Proof Sys2Proof.Machine Sys2Proof.Proofs.PowerStates

/-! ## Commands that leave fuses and flash alone -/

/-- What a command comes to has the fuses and flash of the state before. -/
def KeepsBoot (s : State) (o : Out_) : Prop := ∀ t, o = .next t → t.boot = s.boot

section
variable {s : State}

theorem lift_keepsBoot {f : Dev → Dev} : KeepsBoot s (lift f s) := fun _ h => (lift_keeps h).2.1

theorem liftAt_keepsBoot {ok : Bool} {f : Dev → Dev} : KeepsBoot s (liftAt ok f s) := fun _ h => (liftAt_keeps h).2.1

theorem fault_keepsBoot {x : Fault} : KeepsBoot s (.fault x) := fun _ h => by cases h

theorem refused_keepsBoot {x : Refusal} : KeepsBoot s (.refused x) := fun _ h => by cases h

theorem ite_keepsBoot {c : Prop} [Decidable c] {o p : Out_} (ho : KeepsBoot s o) (hp : KeepsBoot s p) :
    KeepsBoot s (if c then o else p) := by
  split <;> assumption

/-- A command that reads fuses and flash but hands them back as they are. -/
theorem liftBoot_keepsBoot {f : Boot → Dev → Boot × Dev} (hf : ∀ b d, (f b d).1 = b) : KeepsBoot s (liftBoot f s) :=
  fun _ h => (liftBoot_keeps h).2.1.trans (hf _ _)

/-- A request changes fuses and flash by what it runs, if it is admitted at all. -/
theorem requestBoot_boot (r : Req) (op : Nat) (logged : Bool) (run : Boot → Dev → Boot × Dev) (b : Boot) (d : Dev) :
    (requestBoot r op logged run b d).1 = b ∨ ∃ e, (requestBoot r op logged run b d).1 = (run b e).1 := by
  rw [requestBoot]
  split
  · exact .inl rfl
  · exact .inr ⟨_, rfl⟩

/-- A request that only reads fuses and flash, at a mailbox that must exist. -/
theorem reading_keepsBoot {c : Prop} [Decidable c] {r : Req} {op : Nat} {logged : Bool} {f : Boot → Dev → Dev} :
    KeepsBoot s (if c then .fault .noSuchPlace else liftBoot (requestBoot r op logged fun b d => (b, f b d)) s) := by
  refine ite_keepsBoot fault_keepsBoot (liftBoot_keepsBoot fun b d => ?_)
  obtain h | ⟨e, h⟩ := requestBoot_boot r op logged (fun b d => (b, f b d)) b d <;> exact h

theorem atTile_keepsBoot {id : Nat} {ty : PType} {own : Bool} {f : Pos → Packet → Dev → Option Dev} :
    KeepsBoot s (atTile id ty own f s) := lift_keepsBoot

theorem takeVl3_keepsBoot {id : Nat} {ty : PType} : KeepsBoot s (takeVl3 id ty s) := lift_keepsBoot

theorem atEither_keepsBoot {id : Nat} {onPort : Dev → Dev} {onTile : State → Out_} (h : KeepsBoot s (onTile s)) :
    KeepsBoot s (atEither id onPort onTile s) := by
  rw [atEither]
  split
  · exact lift_keepsBoot
  · exact h

theorem putPacket_keepsBoot (id : Nat) : KeepsBoot s (execPutPacket id s) := by
  rw [execPutPacket]
  split
  · exact lift_keepsBoot
  · exact atTile_keepsBoot

theorem inputQualified_keepsBoot : KeepsBoot s (execInputQualified s) :=
  liftBoot_keepsBoot fun b d => by split <;> rfl

theorem moduleStart_keepsBoot : KeepsBoot s (execModuleStart s) :=
  liftBoot_keepsBoot fun b d => by
    split
    · rfl
    · split <;> rfl

theorem tapInstruction_keepsBoot (i : TapInsn) : KeepsBoot s (execTapInstruction i s) := by
  rw [execTapInstruction]
  dsimp only
  split
  · rintro _ ⟨⟩; rfl
  · exact ite_keepsBoot refused_keepsBoot lift_keepsBoot

/-- Most commands change the device alone; those that read fuses and flash hand them back. -/
theorem exec_keepsBoot (c : Instr) (h : Claim.mayWriteBoot c = false) : KeepsBoot s (exec c s) := by
  cases c with
  | powerState | standbyEntry | undervoltage | standbyDomainStop | coolantEmergency | caseOvertemp | flaconVerify
  | firmwareBroadcastDone | flaconFallback | fwStage | fwCommit | trainLinks | saveTraining | mapRefineCommit
  | generationProgrammed => cases h
  | routerForward | egressPortTile | mcastPacket | redPacket | tableWriteDone | epochRelease | ledgerInterval | idleEntry
  | powerTransitionDone | inputApplied | wakeN | startConditionsMet | mapBuildDone | snapshotExpiry | discardSummary =>
    rw [exec]
    exact lift_keepsBoot
  | mgmtPacket | scanPacket => exact takeVl3_keepsBoot
  | getReq | raddPacket | signalPacket | tokenPacket | signalResp | notice | creditPacket => exact atTile_keepsBoot
  | ack => exact atEither_keepsBoot lift_keepsBoot
  | getResp | nack => exact atEither_keepsBoot atTile_keepsBoot
  | putPacket => exact putPacket_keepsBoot _
  | inputQualified => exact inputQualified_keepsBoot
  | moduleStart => exact moduleStart_keepsBoot
  | identify | attest | mapRead | mapRefineApply => exact reading_keepsBoot
  | registerWrite => exact ite_keepsBoot fault_keepsBoot (liftBoot_keepsBoot fun _ _ => rfl)
  | tapInstruction => exact tapInstruction_keepsBoot _
  | _ => exact liftAt_keepsBoot

end

/-- Settles O3: a command outside the list changes the device alone. -/
theorem fusesAndFlashAreWrittenByFewCommands : Obligations.FusesAndFlashAreWrittenByFewCommands :=
  fun c _ t hc ht => exec_keepsBoot c hc t ht

/-! ## What happens to a generation -/

/-- The four things that happen to the generations of a part: none of them is touched; one begins to be programmed into a blank
slot; the slot being programmed takes its end, with a seal or without; bits of a thermometer are raised in place. -/
inductive FuseMove (b b' : Boot) : Prop
  | untouched (hotp : b'.otp = b.otp) (hprog : b'.programming = b.programming)
  | begins {k n : Nat} {c : OtpContent} {r : Option Req} (hblank : (b.slotAt k n).isBlank = true) (hotp : b'.otp = b.otp)
      (hprog : b'.programming = some (k, n, c, r))
  | ends {k n : Nat} {c : OtpContent} {r : Option Req} {x : OtpSlot} (hwas : b.programming = some (k, n, c, r))
      (hotp : b'.otp = (b.setSlot k n x).otp) (hprog : b'.programming = none)
  | raises {n : Nat} {c : OtpContent} (hotp : b'.otp = (b.setSlot 4 n { b.slotAt 4 n with content := c }).otp)
      (hprog : b'.programming = none)

/-- A run of such changes. -/
abbrev FuseMoves : Boot → Boot → Prop := Relation.ReflTransGen FuseMove

theorem slotAt_congr {b b' : Boot} (h : b'.otp = b.otp) (k n : Nat) : b'.slotAt k n = b.slotAt k n := by
  rw [Boot.slotAt, h, Boot.slotAt]

theorem slotAt_setSlot_ne {b : Boot} {k n i m : Nat} (x : OtpSlot) (h : i ≠ k ∨ m ≠ n) :
    (b.setSlot k n x).slotAt i m = b.slotAt i m := by
  by_cases hi : i = k
  · subst hi
    simp only [Boot.slotAt, Boot.setSlot, Tab.get_set_self]
    exact Tab.get_set_ne _ _ _ (h.resolve_left (absurd rfl))
  · simp only [Boot.slotAt, Boot.setSlot, Tab.get_set_ne _ _ _ hi]

/-- Raised bits lie in the content: the header stays, and with it whether the slot is blank. -/
theorem isBlank_content (x : OtpSlot) (c : OtpContent) : ({ x with content := c } : OtpSlot).isBlank = x.isBlank := rfl

theorem FuseMove.programs {b b' : Boot} (h : FuseMove b b') (hb : b.Programs) : b'.Programs := by
  intro i m c' r' hp
  cases h with
  | untouched hotp hprog =>
    rw [slotAt_congr hotp]
    exact hb _ _ _ _ (hprog ▸ hp)
  | begins hblank hotp hprog =>
    rw [slotAt_congr hotp]
    cases hprog.symm.trans hp
    exact hblank
  | ends _ _ hprog | raises _ hprog => cases hprog.symm.trans hp

/-- A slot that is no longer blank is not the one being programmed, so only a thermometer's raise can reach it. -/
theorem FuseMove.keeps {b b' : Boot} (h : FuseMove b b') (hb : b.Programs) {i m : Nat} (hi : (b.slotAt i m).isBlank = false) :
    (b'.slotAt i m).isBlank = false ∧ (i ≠ 4 → b'.slotAt i m = b.slotAt i m) := by
  have same : b'.slotAt i m = b.slotAt i m → (b'.slotAt i m).isBlank = false ∧ (i ≠ 4 → b'.slotAt i m = b.slotAt i m) :=
    fun e => ⟨e ▸ hi, fun _ => e⟩
  cases h with
  | untouched hotp _ | begins _ hotp _ => exact same (slotAt_congr hotp i m)
  | @ends k n c r x hwas hotp _ =>
    have hother : i ≠ k ∨ m ≠ n := by
      by_contra! heq
      obtain ⟨rfl, rfl⟩ := heq
      exact Bool.false_ne_true (hi.symm.trans (hb _ _ _ _ hwas))
    exact same ((slotAt_congr hotp i m).trans (slotAt_setSlot_ne x hother))
  | @raises n c hotp _ =>
    by_cases hraised : i = 4 ∧ m = n
    · obtain ⟨rfl, rfl⟩ := hraised
      refine ⟨?_, absurd rfl⟩
      rw [slotAt_congr hotp, slotAt_setSlot_self, isBlank_content, hi]
    · exact same ((slotAt_congr hotp i m).trans (slotAt_setSlot_ne _ (not_and_or.1 hraised)))

theorem FuseMoves.programs {b b' : Boot} (h : FuseMoves b b') (hb : b.Programs) : b'.Programs := by
  induction h with
  | refl => exact hb
  | tail _ hmove ih => exact hmove.programs ih

theorem FuseMoves.keeps {b b' : Boot} (h : FuseMoves b b') (hb : b.Programs) {k n : Nat} (hk : (b.slotAt k n).isBlank = false) :
    (b'.slotAt k n).isBlank = false ∧ (k ≠ 4 → b'.slotAt k n = b.slotAt k n) := by
  induction h with
  | refl => exact ⟨hk, fun _ => rfl⟩
  | tail hmoves hmove ih =>
    obtain ⟨hspent, hsame⟩ := ih
    obtain ⟨hspent', hsame'⟩ := hmove.keeps (FuseMoves.programs hmoves hb) hspent
    exact ⟨hspent', fun h4 => (hsame' h4).trans (hsame h4)⟩

/-! ## The parts of the commands that write fuses -/

theorem moves_of_same {b b' : Boot} (hotp : b'.otp = b.otp) (hprog : b'.programming = b.programming) : FuseMoves b b' :=
  .single (.untouched hotp hprog)

theorem moves_after_same {b b' b'' : Boot} (h : FuseMoves b' b'') (hotp : b'.otp = b.otp)
    (hprog : b'.programming = b.programming) : FuseMoves b b'' :=
  (moves_of_same hotp hprog).trans h

theorem iteBoot_moves {c : Prop} [Decidable c] {b x y : Boot} (hx : FuseMoves b x) (hy : FuseMoves b y) :
    FuseMoves b (if c then x else y) := by
  split <;> assumption

theorem ite_moves {c : Prop} [Decidable c] {b : Boot} {x y : Boot × Dev} (hx : FuseMoves b x.1) (hy : FuseMoves b y.1) :
    FuseMoves b (if c then x else y).1 := by
  split <;> assumption

theorem isBlank_of_blanks {b : Boot} {k n : Nat} {l : List Nat} (h : b.blanks k = n :: l) : (b.slotAt k n).isBlank = true :=
  (List.mem_filter.1 (h ▸ List.mem_cons_self : n ∈ b.blanks k)).2

/-- A generation goes into the lowest blank slot of its kind. -/
theorem begins_of_blanks {b : Boot} {k n : Nat} {l : List Nat} (h : b.blanks k = n :: l) (c : OtpContent) (r : Option Req) :
    FuseMoves b { b with programming := some (k, n, c, r) } :=
  .single (.begins (isBlank_of_blanks h) rfl rfl)

/-- What the model does wherever it asks for a generation. -/
theorem firstBlank_moves (b : Boot) (k : Nat) (c : OtpContent) (r : Option Req) (d e : Dev) : FuseMoves b (match b.blanks k with
    | n :: _ => ({ b with programming := some (k, n, c, r) }, d)
    | [] => (b, e)).1 := by
  split
  · next h => exact begins_of_blanks h c r
  · exact .refl

theorem cutShort_moves (b : Boot) : FuseMoves b b.cutShort := by
  rw [Boot.cutShort]
  dsimp only
  split
  · next hwas => exact .single (.ends hwas rfl rfl)
  · exact moves_of_same rfl rfl

theorem coolingEmergency_moves (b : Boot) (d : Dev) : FuseMoves b (coolingEmergency b d).1 := by
  rw [coolingEmergency]
  exact ite_moves (cutShort_moves b) .refl

theorem raiseThermometer_moves (failed : Bool) {b : Boot} (hb : b.programming = none) (d : Dev) :
    FuseMoves b (raiseThermometer failed b d).1 := by
  rw [raiseThermometer]
  dsimp only
  refine ite_moves .refl ?_
  split
  · exact ite_moves (firstBlank_moves ..) (.single (.raises rfl hb))
  · exact firstBlank_moves ..

theorem thermoRaise_moves (b : Boot) (d : Dev) : FuseMoves b (thermoRaise b d).1 := by
  rw [thermoRaise]
  split
  · next hb => exact moves_after_same (raiseThermometer_moves _ (b := { b with thermoDue := none }) hb d) rfl rfl
  · exact .refl

theorem commitNext_moves (r : Req) (f : Flacon) (b : Boot) (d : Dev) : FuseMoves b (commitNext r f b d).1 := by
  rw [commitNext]
  dsimp only
  split
  · exact firstBlank_moves ..
  · exact firstBlank_moves ..
  · exact moves_of_same rfl rfl

theorem commitFlacon_moves (r : Req) (b : Boot) (d : Dev) : FuseMoves b (commitFlacon r b d).1 := by
  rw [commitFlacon]
  dsimp only
  split
  · exact .refl
  · iterate 5
      refine ite_moves .refl ?_
    exact moves_after_same (commitNext_moves ..) rfl rfl

theorem setInactive_otp (f : Option Flacon) (b : Boot) : (b.setInactive f).otp = b.otp := by
  rw [Boot.setInactive]
  split <;> rfl

theorem setInactive_programming (f : Option Flacon) (b : Boot) : (b.setInactive f).programming = b.programming := by
  rw [Boot.setInactive]
  split <;> rfl

/-- Staging writes the flash alone. -/
theorem stagePiece_moves (r : Req) (p : Piece) (b : Boot) (d : Dev) : FuseMoves b (stagePiece r p b d).1 := by
  have cleared : FuseMoves b (if p.offset = 0 then { b.setInactive none with staged := false } else b) := by
    split
    · exact moves_of_same (setInactive_otp ..) (setInactive_programming ..)
    · exact .refl
  rw [stagePiece]
  dsimp only
  refine ite_moves .refl ?_
  split
  · exact moves_of_same rfl rfl
  · refine ite_moves (cleared.trans (moves_of_same rfl rfl)) (cleared.trans (iteBoot_moves ?_ ?_))
    · exact moves_of_same rfl rfl
    · exact moves_of_same (setInactive_otp ..) (setInactive_programming ..)

theorem trainWith_moves (r : Req) (stackMask portMask mode : Nat) (bs : List Byte) (b : Boot) (d : Dev) :
    FuseMoves b (trainWith r stackMask portMask mode bs b d).1 := by
  rw [trainWith]
  dsimp only
  iterate 3
    refine ite_moves .refl ?_
  exact ite_moves (ite_moves .refl (moves_of_same rfl rfl)) .refl

theorem commitRefinement_moves (r : Req) (bs : List Byte) (b : Boot) (d : Dev) :
    FuseMoves b (commitRefinement r bs b d).1 := by
  rw [commitRefinement]
  dsimp only
  refine ite_moves .refl ?_
  split
  · exact .refl
  · split
    · exact .refl
    · next h => exact begins_of_blanks h _ _

/-! ## The commands -/

/-- What a command comes to has the generations of the state before, moved on. -/
def MovesBoot (s : State) (o : Out_) : Prop := ∀ t, o = .next t → FuseMoves s.boot t.boot

section
variable {s : State}

theorem KeepsBoot.moves {o : Out_} (h : KeepsBoot s o) : MovesBoot s o := by
  intro t ht
  rw [h t ht]

theorem liftBoot_moves {f : Boot → Dev → Boot × Dev} (hf : ∀ b d, FuseMoves b (f b d).1) : MovesBoot s (liftBoot f s) := by
  intro t ht
  rw [(liftBoot_keeps ht).2.1]
  exact hf _ _

/-- A command at a place that must exist. -/
theorem guarded_moves {c : Prop} [Decidable c] {x : Fault} {f : Boot → Dev → Boot × Dev} (hf : ∀ b d, FuseMoves b (f b d).1) :
    MovesBoot s (if c then .fault x else liftBoot f s) := by
  split
  · exact KeepsBoot.moves fault_keepsBoot
  · exact liftBoot_moves hf

/-- A request at a mailbox that must exist. -/
theorem mailbox_moves {c : Prop} [Decidable c] {x : Fault} {r : Req} {op : Nat} {logged : Bool} {run : Boot → Dev → Boot × Dev}
    (hrun : ∀ b d, FuseMoves b (run b d).1) :
    MovesBoot s (if c then .fault x else liftBoot (requestBoot r op logged run) s) := by
  refine guarded_moves fun b d => ?_
  obtain h | ⟨e, h⟩ := requestBoot_boot r op logged run b d <;> rw [h]
  exact hrun b e

theorem undervoltage_moves : MovesBoot s (execUndervoltage s) :=
  liftBoot_moves fun b _ => ite_moves (cutShort_moves b) .refl

theorem standbyDomainStop_moves : MovesBoot s (execStandbyDomainStop s) :=
  liftBoot_moves fun b _ => cutShort_moves b

theorem standbyEntry_moves : MovesBoot s (execStandbyEntry s) :=
  liftBoot_moves fun b _ => ite_moves (cutShort_moves b) .refl

theorem flaconVerify_moves : MovesBoot s (execFlaconVerify s) :=
  liftBoot_moves fun b d => by
    dsimp only
    refine ite_moves .refl ?_
    split
    · exact moves_of_same rfl rfl
    · exact moves_of_same rfl rfl
    · exact .refl

theorem firmwareBroadcastDone_moves (lacking : List (List (Pos × List Nat))) (bitsFailed : Bool) :
    MovesBoot s (execFirmwareBroadcastDone lacking bitsFailed s) :=
  guarded_moves fun _ _ => ite_moves .refl (moves_after_same (thermoRaise_moves ..) rfl rfl)

theorem flaconFallback_moves : MovesBoot s (execFlaconFallback s) :=
  liftBoot_moves fun b _ => ite_moves ((cutShort_moves b).trans (moves_of_same rfl rfl)) .refl

theorem trainLinks_moves (r : Req) (p : Piece) (stackMask portMask mode : Nat) :
    MovesBoot s (execTrainLinks r p stackMask portMask mode s) :=
  mailbox_moves fun b d => by
    split
    · exact .refl
    · exact .refl
    · exact trainWith_moves ..

theorem saveTraining_moves (r : Req) (snap offset : Nat) (recordOnly : Bool) :
    MovesBoot s (execSaveTraining r snap offset recordOnly s) :=
  mailbox_moves fun _ _ =>
    ite_moves .refl (ite_moves .refl (moves_of_same rfl rfl))

theorem mapRefineCommit_moves (r : Req) (p : Piece) : MovesBoot s (execMapRefineCommit r p s) :=
  mailbox_moves fun b d => by
    split
    · exact .refl
    · exact .refl
    · exact commitRefinement_moves ..

/-- The seal ends the programming; an FW_COMMIT then begins its next generation, or a thermometer that waited is raised. -/
theorem generationProgrammed_moves : MovesBoot s (execGenerationProgrammed s) :=
  liftBoot_moves fun b d => by
    split
    · exact .refl
    · next k n c req hwas =>
      have sealed : ∀ g, FuseMoves b { b.setSlot k n (.made k n c) with programming := none, commitGens := g } :=
        fun _ => .single (.ends hwas rfl rfl)
      dsimp only
      refine Relation.ReflTransGen.trans ?_ (thermoRaise_moves ..)
      obtain rfl | h5 := eq_or_ne k 5
      · cases req <;> exact sealed _
      · simp only [if_neg h5]
        cases req with
        | none => exact sealed _
        | some r =>
          dsimp only
          split
          · exact (sealed _).trans (commitNext_moves ..)
          · exact sealed _

theorem exec_moves (c : Instr) : MovesBoot s (exec c s) := by
  cases hc : Claim.mayWriteBoot c
  · exact (exec_keepsBoot c hc).moves
  cases c with
  | powerState => exact mailbox_moves fun _ _ => .refl
  | standbyEntry => exact standbyEntry_moves
  | undervoltage => exact undervoltage_moves
  | standbyDomainStop => exact standbyDomainStop_moves
  | coolantEmergency | caseOvertemp => exact liftBoot_moves coolingEmergency_moves
  | flaconVerify => exact flaconVerify_moves
  | firmwareBroadcastDone => exact firmwareBroadcastDone_moves _ _
  | flaconFallback => exact flaconFallback_moves
  | fwStage => exact mailbox_moves (stagePiece_moves _ _)
  | fwCommit => exact mailbox_moves (commitFlacon_moves _)
  | trainLinks => exact trainLinks_moves _ _ _ _ _
  | saveTraining => exact saveTraining_moves _ _ _ _
  | mapRefineCommit => exact mapRefineCommit_moves _ _
  | generationProgrammed => exact generationProgrammed_moves
  | _ => cases hc

theorem step_moves : MovesBoot s (step s) := by
  rw [step]
  split
  · refine KeepsBoot.moves ?_
    rintro _ ⟨⟩
    split <;> rfl
  · next c rest _ => exact exec_moves (s := { s with pending := rest }) c

end

/-- Settles O4: each thing that happens to the generations keeps it. -/
theorem programmingKeepsToBlankGenerations : Obligations.ProgrammingKeepsToBlankGenerations :=
  fun _ t hs ht => (step_moves t ht).programs hs

/-- Settles O5: what is programmed goes into a blank slot, so of the others only a thermometer changes, and not its header. -/
theorem generationsAreWrittenOnce : Obligations.GenerationsAreWrittenOnce :=
  fun _ t hs ht _ _ hblank => (step_moves t ht).keeps hs hblank

end Sys2Proof.Proofs.Fuses
end

section
/-! PROOFS. The front end of the mailboxes (O48): what reading a request leaves of the device when it is admitted, and when it is
answered or dropped before it runs. -/

namespace Sys2Proof.Proofs.FrontEnd

open Sys2Proof Sys2Proof.Machine Sys2Proof.Proofs.Responses

section
variable {r : Req} {op : Nat} {logged : Bool} {d e : Dev}

/-! ## What reading changes -/

/-- Of the device a change touches the sessions and the doorbells at most. -/
def ReadsOnly (d e : Dev) : Prop :=
  e = { d with host := { d.host with sessions := e.host.sessions, doorbells := e.host.doorbells } }

theorem ReadsOnly.trans {f : Dev} (h : ReadsOnly d e) (k : ReadsOnly e f) : ReadsOnly d f := by
  unfold ReadsOnly at *
  rw [k, h]

theorem ReadsOnly.onSession (d : Dev) (tr : Transport) (id : Nat) (f : Session → Session) :
    ReadsOnly d (d.onSession tr id f) := rfl

/-- Reading a request sets at most the doorbell of its mailbox (R404). -/
theorem ReadsOnly.readRequest (h : readRequest r d = some e) : ReadsOnly d e := by
  rw [Machine.readRequest] at h
  split at h
  · cases h
  · split at h
    · split at h <;> cases h
      rfl
    · cases h
      rfl

/-- What stays when a request is answered outside: tiles, jobs, maps, energy, HBM, and the module state but for management
time. -/
def AnswersOnly (d e : Dev) : Prop := Reports d e ∧ MovesTimeOnly d e

theorem AnswersOnly.trans {f : Dev} (h : AnswersOnly d e) (k : AnswersOnly e f) : AnswersOnly d f :=
  ⟨h.1.trans k.1, h.2.trans k.2⟩

theorem ReadsOnly.answersOnly (h : ReadsOnly d e) : AnswersOnly d e := by
  rw [h]
  exact ⟨rfl, rfl⟩

/-- A repeat gets one response and nothing runs (R411). -/
theorem AnswersOnly.repeatAnswer {x : Session} (h : repeatAnswer r op x d = some e) : AnswersOnly d e := by
  rw [Machine.repeatAnswer] at h
  split at h
  · cases h
    exact ⟨rfl, rfl⟩
  · split at h <;> cases h
    exact ⟨rfl, rfl⟩

theorem AnswersOnly.finish (logged : Bool) (r : Req) (op st refusal : Nat) (payload : List Byte) (d : Dev) :
    AnswersOnly d (finish logged r op st refusal payload d) := by
  rw [Machine.finish]
  split
  · exact ⟨Reports.finishCmd .., MovesTimeOnly.finishCmd ..⟩
  · exact ⟨Reports.respond .., MovesTimeOnly.respond ..⟩

/-! ## The two ways a request can go -/

/-- An admitted request was read and its session taken. -/
theorem entered_ok (h : entered r op logged d = .ok e) :
    ∃ x, readRequest r d = some x ∧ e = x.onSession r.tr r.session (Session.take r x.now) := by
  rw [entered] at h
  split at h
  · cases h
  · next x hread =>
    split at h
    · cases h
    · dsimp only at h
      split at h <;> cases h
      exact ⟨x, hread, rfl⟩

/-- A request that is not admitted was not read at all, or was a repeat, or was answered with the status that it fails. -/
theorem entered_error (h : entered r op logged d = .error e) :
    e = d ∨ ∃ x, readRequest r d = some x ∧ ((∃ y, repeatAnswer r op y x = some e)
      ∨ ∃ b st, e = finish b r op st 0 [] (x.onSession r.tr r.session (Session.take r x.now))) := by
  rw [entered] at h
  split at h
  · cases h
    exact .inl rfl
  · next x hread =>
    refine .inr ⟨x, hread, ?_⟩
    split at h
    · next hrep =>
      cases h
      split at hrep
      · cases hrep
      · obtain ⟨y, -, hy⟩ := Option.bind_eq_some_iff.1 hrep
        exact .inl ⟨y, hy⟩
    · dsimp only at h
      split at h <;> cases h
      exact .inr ⟨_, _, rfl⟩

theorem readsOnly_of_entered (h : entered r op logged d = .ok e) : ReadsOnly d e := by
  obtain ⟨x, hread, rfl⟩ := entered_ok h
  exact (ReadsOnly.readRequest hread).trans (.onSession ..)

theorem answersOnly_of_entered (h : entered r op logged d = .error e) : AnswersOnly d e := by
  obtain rfl | ⟨x, hread, hrest⟩ := entered_error h
  · exact ⟨rfl, rfl⟩
  · have hx : AnswersOnly d x := (ReadsOnly.readRequest hread).answersOnly
    obtain ⟨y, hrep⟩ | ⟨b, st, rfl⟩ := hrest
    · exact hx.trans (.repeatAnswer hrep)
    · exact hx.trans ((ReadsOnly.onSession ..).answersOnly.trans (.finish ..))

/-! ## A new request of an open session -/

theorem session?_onSession {tr : Transport} {id : Nat} {f : Session → Session} (hf : ∀ x, (f x).tr = x.tr ∧ (f x).id = x.id) :
    (d.onSession tr id f).session? tr id = (d.session? tr id).map f := by
  rw [Dev.session?, Dev.session?, Dev.onSession]
  induction d.host.sessions with
  | nil => rfl
  | cons x l ih =>
    rw [List.map_cons, List.find?_cons, List.find?_cons]
    by_cases hx : x.tr = tr ∧ x.id = id
    · simp [hx, hf]
    · have hne : (x.tr == tr && x.id == id) = false := by simpa using hx
      rw [if_neg hx, hne]
      exact ih

/-- On a datagram transport that carries requests, reading one changes nothing (R404). -/
theorem readRequest_datagram (hcarry : d.carries r.tr = true) (htr : r.tr ≠ .tether) : readRequest r d = some d := by
  rw [readRequest, hcarry]
  split
  · next h => cases h
  · split
    · next h => exact absurd h htr
    · rfl

/-- A session that keeps no response and runs no request has seen no request before (R411). -/
theorem repeatAnswer_fresh {x : Session} (hkept : x.kept = []) (hrun : x.running = []) : repeatAnswer r op x d = none := by
  simp [repeatAnswer, hkept, hrun]

/-- The status with which the module state turns an opcode away: BUSY during a start, else NOT_PERMITTED_IN_STATE (R372, R414). -/
def stateStatus (op : Nat) (st : ModSt) : Option Nat :=
  if st = .starting then (if acceptedStarting op then none else some stBusy)
  else if acceptedIn op st then none else some stNotPermitted

theorem stateStatus_starting (h : acceptedStarting op = false) : stateStatus op .starting = some stBusy := by
  rw [stateStatus, if_pos rfl, h]
  rfl

theorem stateStatus_outside {st : ModSt} (hst : st ≠ .starting) (h : acceptedIn op st = false) :
    stateStatus op st = some stNotPermitted := by
  rw [stateStatus, if_neg hst, h]
  rfl

/-- In a session of the request's own version, not major 2, the module state alone decides (R407, R408). -/
theorem requestStatus_of_session {x : Session} (hx : d.session? r.tr r.session = some x) (hmajor : x.major = r.major)
    (hnew : x.major ≠ 2) :
    requestStatus r op d = stateStatus op d.mod.st := by
  rw [requestStatus, hx]
  dsimp only
  rw [if_neg (by simp [hmajor, hmajor ▸ hnew])]
  cases d.mod.st <;> rfl

/-- A new request on a datagram transport that fails a precondition is answered with its status. -/
theorem entered_of_status {x : Session} {st : Nat} (hcarry : d.carries r.tr = true) (htr : r.tr ≠ .tether)
    (hx : d.session? r.tr r.session = some x) (hkept : x.kept = []) (hrun : x.running = [])
    (hst : requestStatus r op (d.onSession r.tr r.session (Session.take r d.now)) = some st) :
    entered r op logged d = .error (finish logged r op st 0 [] (d.onSession r.tr r.session (Session.take r d.now))) := by
  rw [entered, readRequest_datagram hcarry htr]
  simp only [if_neg htr, hx, Option.bind_some, repeatAnswer_fresh hkept hrun, hst, Option.isSome_some, Bool.and_true]

/-- The end of a command sends its response, logged or not. -/
theorem response_mem_finish (logged : Bool) (r : Req) (op st refusal : Nat) (payload : List Byte) (d : Dev) :
    ∃ fl t l, Emit.response r.tr r.box r.session r.seq op fl st refusal t l payload
      ∈ (finish logged r op st refusal payload d).brim.emitted := by
  cases logged
  · exact responded_of_respond (u := ⟨[], _, .shipped⟩) rfl
  · exact responded_of_finishCmd (u := ⟨[], _, .shipped⟩) rfl

/-- A new request of an open session of its own version, not major 2, that the module state does not accept, is answered with
the status that the state gives. -/
theorem answered_of_state {x : Session} {st : Nat} (hcarry : d.carries r.tr = true) (htr : r.tr ≠ .tether)
    (hx : d.session? r.tr r.session = some x) (hmajor : x.major = r.major) (hnew : x.major ≠ 2) (hkept : x.kept = [])
    (hrun : x.running = [])
    (hst : stateStatus op d.mod.st = some st) :
    ∃ e, entered r op logged d = .error e
      ∧ ∃ fl t l, Emit.response r.tr r.box r.session r.seq op fl st 0 t l [] ∈ e.brim.emitted := by
  refine ⟨_, entered_of_status hcarry htr hx hkept hrun ?_, response_mem_finish ..⟩
  have htaken : (d.onSession r.tr r.session (Session.take r d.now)).session? r.tr r.session = some (x.take r d.now) :=
    (session?_onSession (f := Session.take r d.now) fun _ => ⟨rfl, rfl⟩).trans (congrArg _ hx)
  exact (requestStatus_of_session htaken hmajor hnew).trans hst

end

/-- Settles O48: `readsOnly_of_entered` for an admitted request, `answersOnly_of_entered` for any other; the state of the module
decides on a new request by `answered_of_state`. -/
theorem requestsAreReadBeforeTheyRun : Obligations.RequestsAreReadBeforeTheyRun := by
  intro d r op logged
  refine ⟨fun e h => readsOnly_of_entered h, fun e h => ?_, fun x hcarry htr hx hmajor h3 hkept hrun => ?_⟩
  · obtain ⟨hrep, htime⟩ := answersOnly_of_entered h
    exact ⟨hrep.wafer, hrep.jobs, hrep.map, hrep.energy, hrep.hbm, htime.st⟩
  · rw [← htr] at hcarry hx
    have hdatagram : r.tr ≠ .tether := by simp [htr]
    have hnew : x.major ≠ 2 := by omega
    have answered {st : Nat} (h : stateStatus op d.mod.st = some st) :=
      answered_of_state (logged := logged) hcarry hdatagram hx hmajor hnew hkept hrun h
    exact ⟨fun hst hacc => answered (stateStatus_outside hst hacc),
      fun hst hacc => answered (hst ▸ stateStatus_starting hacc)⟩

end Sys2Proof.Proofs.FrontEnd
end
